-- ==== Sys2Proof/Word.lean ====
section
/-! DEFINITION. The word types of the Niminri N8: plain names for the bit widths the manual uses
(R1, R2, R177). Everything that computes on them stands in the files of Machine/ and in Decode. -/

namespace Sys2Proof

/-- A 64-bit scalar register value (R177). -/
abbrev Word := BitVec 64
/-- One byte. -/
abbrev Byte := BitVec 8
/-- A 256-bit tensor handle (R106). -/
abbrev Handle := BitVec 256
/-- A 512-bit lane mask, bundle, memory line or delta descriptor (R177, R171, R195). -/
abbrev Line := BitVec 512
/-- A 4,096-bit accumulator row or latch (R177). -/
abbrev RowVal := BitVec 4096
/-- A 53-bit device physical address (R81). -/
abbrev Dpa := BitVec 53
/-- The name of a scalar register s0–s63. -/
abbrev SReg := BitVec 6
/-- The name of a predicate p0–p15; also a guard (R175). -/
abbrev PReg := BitVec 4
/-- The name of a handle register h0–h31. -/
abbrev HReg := BitVec 5
/-- The name of a lane mask k0–k7. -/
abbrev KReg := BitVec 3
/-- The name of an accumulator row a0–a255. -/
abbrev Row := BitVec 8
/-- The name of a completion token e0–e15. -/
abbrev Tok := BitVec 4
/-- An ordering class 0–15 (R191). -/
abbrev Cls := BitVec 4

end Sys2Proof
end

