-- ==== Sys2Proof/Syntax.lean ====
section
/-! DEFINITION. The instruction syntax: every row of spec/opcode_table.json is one constructor of
`Instr`. Rows NOP to HALT are the operations a slot of a bundle can hold (R198); rows
RESULT_LANDING to HALT_RELEASE are the part's other indivisible steps (95_what_each_step_holds). -/

namespace Sys2Proof

/-- The nine slots of a bundle, in the order of R173 and R183. -/
inductive Slot where
  | s | v0 | v1 | m | x | l | w | c | y
  deriving DecidableEq, Repr

/-- Arithmetic mode m of R203; the value 3 is reserved. -/
inductive AMode where
  | wrap | sat | satn
  deriving DecidableEq, Repr

/-- Rounding modes of R110. -/
inductive RMode where
  | rne | rz | rdn | rup
  deriving DecidableEq, Repr

/-- Widths of CLZ, CTZ, POPC and BREV (R213). -/
inductive BitW where
  | w64 | w32 | w16 | w8
  deriving DecidableEq, Repr

/-- Lane widths in the order of the fn codes 0 to 3 (R253, R259, R270). -/
inductive LaneW where
  | w32 | w16 | w8 | w64
  deriving DecidableEq, Repr

/-- Conditions of CMP and CMPI (R214). -/
inductive CCond where
  | eq | ne | lt | ge | ltn | gen | le | gt | len | gtn | tst | ntst
  deriving DecidableEq, Repr

/-- Conditions of VCMP (R232). -/
inductive VCond where
  | eq | ne | lt | le | gt | ge
  deriving DecidableEq, Repr

/-- Element types of the V slot, codes 0 to 7 (R176). -/
inductive VType where
  | f32 | bf16 | i32 | i16 | i8 | i64 | n32 | n8
  deriving DecidableEq, Repr

/-- Which vector unit an operation issues to. -/
inductive VUnit where
  | v0 | v1
  deriving DecidableEq, Repr

/-- A V source selector (R186). -/
inductive VSel where
  | row (r : Row) | latch (n : BitVec 3) | scalar | zero
  deriving DecidableEq, Repr

/-- An X source selector (R186, R252: 264 is reserved in the X slot). -/
inductive XSel where
  | row (r : Row) | latch (n : BitVec 3) | zero
  deriving DecidableEq, Repr

/-- The common fields of a V operation that writes rows (R176, R186). -/
structure VCtl where
  unit : VUnit
  /-- lane mask -/
  k : KReg
  /-- destination row -/
  d : Row
  nowb : Bool
  /-- latch 0–3 of the slot's unit, or none -/
  latch : Option (BitVec 2)
  /-- beats − 1 -/
  b1 : BitVec 4
  /-- the scalar register that selector 264 reads -/
  imm : SReg
  deriving DecidableEq, Repr

/-- The common fields of a V operation that writes a lane mask (R228). -/
structure VMaskCtl where
  unit : VUnit
  k : KReg
  /-- destination mask -/
  dk : KReg
  /-- the scalar register that selector 264 reads -/
  imm : SReg
  deriving DecidableEq, Repr

/-- Rounding mode and saturation bit of a V arithmetic operation (R176). -/
structure VMode where
  rm : RMode
  sat : Bool
  deriving DecidableEq, Repr

/-- The common fields of an X operation (R176). -/
structure XCtl where
  guard : PReg
  d : Row
  src : XSel
  b1 : BitVec 4
  deriving DecidableEq, Repr

/-- The second operand of AXADD, AXSUB, AXLOG (32-bit immediate), AXSH (6-bit amount) and WXADD
(24-bit immediate): a register or an immediate (R223, R224). -/
inductive RegImm (w : Nat) where
  | reg (b : SReg) | imm (v : BitVec w)
  deriving DecidableEq, Repr

/-- AXLOG operations (R223). -/
inductive AxLogOp where
  | and | or | xor | andn
  deriving DecidableEq, Repr

/-- AXSH operations (R223). -/
inductive AxShOp where
  | shl | shr | sar
  deriving DecidableEq, Repr

/-- Handle fields by number (R218). -/
inductive HField where
  | base | space | fmt | lay | ex0 | ex1 | ex2 | ex3 | st1 | st2 | st3 | side | gs | curd | off
  deriving DecidableEq, Repr

/-- What HSET and HGET name: a field, or a whole 64-bit word (R218). -/
inductive HSel where
  | field (f : HField) | word (q : BitVec 2)
  deriving DecidableEq, Repr

/-- System registers by number (R179). -/
inductive SysReg where
  | ctxid | heapbase | heaplim | heapoff | heapattr | ptroot | tcoord | rcbptr | rpladdr | trapaddr
  | dtime | pcyc | wstate | status | rrbs | rrba | rrbp
  deriving DecidableEq, Repr

/-- Access sizes of 1, 2, 4 and 8 bytes (R268). -/
inductive MSize where
  | b | h | w | d
  deriving DecidableEq, Repr

/-- Spaces of STS (R269); LDS uses the first two (R268). -/
inductive SpSpace where
  | loc | side | cluster
  deriving DecidableEq, Repr

/-- Atomic operations in table order 0 to 11 (R273). -/
inductive AtomOp where
  | add | swap | cas | and | or | xor | smin | smax | umin | umax | fadd | bfadd2
  deriving DecidableEq, Repr

/-- VSCAN operations (R244). -/
inductive ScanOp where
  | add | max | min | xor
  deriving DecidableEq, Repr

/-- VSFU functions (R251). -/
inductive SfuFn where
  | exp2 | log2 | rcp | rsqrt
  deriving DecidableEq, Repr

/-- VMASK modes (R246). -/
inductive VMaskMode where
  | nz | neg | raw
  deriving DecidableEq, Repr

/-- VSETK forms (R247). -/
inductive SetkForm where
  | pre (ty : VType) (n : SReg)
  | and (a b : KReg) | or (a b : KReg) | xor (a b : KReg) | andn (a b : KReg) | not (a : KReg)
  deriving DecidableEq, Repr

/-- A lane index: an immediate or a scalar register (R237, R241). -/
inductive LaneIdx where
  | imm (l : BitVec 9) | reg (r : SReg)
  deriving DecidableEq, Repr

/-- A slide amount: an immediate 0–63 or a scalar register (R240). -/
inductive SlideAmt where
  | imm (s : BitVec 6) | reg (r : SReg)
  deriving DecidableEq, Repr

/-- VIOTA forms (R238). -/
inductive IotaForm where
  | count (n : SReg) | mask (m : KReg)
  deriving DecidableEq, Repr

/-- Format codes 0 to 19 (R107, R113 to R127). -/
inductive Fmt where
  | fp32 | bf16 | fp16 | e4m3 | e5m2 | e3m2 | e2m3 | e2m1 | mxint8 | px9 | px6 | px4
  | int8 | int16 | int32 | n8 | n16 | n32 | int64 | bytes
  deriving DecidableEq, Repr

/-- MX group sizes by code 0 to 2 (R106, R250). -/
inductive GSize where
  | g32 | g64 | g128
  deriving DecidableEq, Repr

/-- XSWZ patterns (R261). -/
inductive SwzPat where
  | rev | bswap | bitrev
  deriving DecidableEq, Repr

/-- Fence scopes 0 to 4 (R299). -/
inductive FScope where
  | core | cluster | die | package | system
  deriving DecidableEq, Repr

/-- Barrier scopes 0 to 3 (R298). -/
inductive BScope where
  | gang | cluster | die | package
  deriving DecidableEq, Repr

/-- Access kinds (R78, R302). -/
inductive AKind where
  | rd | wr | at
  deriving DecidableEq, Repr

/-- INVAL kinds (R314). -/
inductive InvKind where
  | page | asid | all
  deriving DecidableEq, Repr

/-- A control-transfer target: a displacement or a register (R293). -/
inductive Target where
  | disp (d : BitVec 24) | reg (a : SReg)
  deriving DecidableEq, Repr

/-- A loop count: an immediate or a register (R296). -/
inductive LoopCount where
  | imm (n : BitVec 16) | reg (r : SReg)
  deriving DecidableEq, Repr

/-- The agents that can reach the hub register block (R336). -/
inductive Agent where
  | host | mgmt | bootRoot | privTask | userTask
  deriving DecidableEq, Repr

/-- What a request from another node asks of this node (R346). -/
inductive RemoteKind where
  | read (n : Nat) | write (bytes : List Byte)
  deriving DecidableEq, Repr

/-- A request that arrives from another node: source, ordering class, DPA, kind and expiry (R327, R346, R441). -/
structure RemoteReq where
  src : BitVec 10
  cls : Cls
  dpa : Dpa
  /-- the granule of the requester's leaf -/
  gran : BitVec 2
  kind : RemoteKind
  /-- DTIME of expiry -/
  expiry : Nat
  deriving DecidableEq, Repr

/-- The node whose multicast store arrives at its sequencer, and DTIME of the store's expiry (R354, R441). -/
structure McastFrom where
  node : BitVec 10
  expiry : Nat
  deriving DecidableEq, Repr

/-- A remote atomic that arrives at this home (R349). -/
structure RemoteAtom where
  src : BitVec 10
  cls : Cls
  dpa : Dpa
  gran : BitVec 2
  op : AtomOp
  eight : Bool
  v : Word
  cmp : Word
  /-- the issuer's access met AP = 1 and RAP = 1, so ownership may be granted -/
  rap : Bool
  expiry : Nat
  deriving DecidableEq, Repr

/-- A reply brought from outside the module, with the 64 bytes of a line that it grants (none otherwise), or the value held
at this node (R265, R346, R349). -/
inductive ReplyVal where
  | local | remote (v : BitVec 256) (line : List Byte) | error (code : BitVec 16) (detail : BitVec 16)
  deriving DecidableEq, Repr

/-- What an acknowledgement brings beside its FCODE: the DETAIL of an error (R402), and the 64 bytes of a line that it grants
(R349; none otherwise). -/
structure AckVal where
  detail : BitVec 16
  line : List Byte
  deriving DecidableEq, Repr

/-- A flit received on a link (R342): its header fields and payload. -/
structure Flit where
  seq : BitVec 12
  ack : BitVec 12
  cvc : BitVec 3
  cinc : BitVec 6
  vc : BitVec 3
  lane : BitVec 4
  kind : BitVec 3
  src : BitVec 10
  dst : BitVec 10
  crc : BitVec 32
  payload : List Byte
  deriving DecidableEq, Repr

/-- SPDM request messages that the module supports (R373). -/
inductive SpdmReq where
  | getVersion | getCapabilities | negotiateAlgorithms | getDigests | getCertificate | challenge
  | getMeasurements (index : Nat) | keyExchange | finish (ok : Bool) | keyUpdate | endSession
  deriving DecidableEq, Repr

/-- The three lanes of a copy engine (R275). -/
inductive CLane where
  | a | b | general
  deriving DecidableEq, Repr

/-- The instructions: one constructor per row of spec/opcode_table.json. -/
inductive Instr where
  -- scalar slot (R202 to R221)
  | nop (slot : Slot)
  | add (g : PReg) (m : AMode) (d a b : SReg)
  | sub (g : PReg) (m : AMode) (d a b : SReg)
  | mul (g : PReg) (m : AMode) (d a b : SReg)
  | mulh (g : PReg) (d a b : SReg)
  | mulhn (g : PReg) (d a b : SReg)
  | and (g : PReg) (d a b : SReg)
  | or (g : PReg) (d a b : SReg)
  | xor (g : PReg) (d a b : SReg)
  | min (g : PReg) (d a b : SReg)
  | max (g : PReg) (d a b : SReg)
  | minn (g : PReg) (d a b : SReg)
  | maxn (g : PReg) (d a b : SReg)
  | clmuls (g : PReg) (hi : Bool) (d a b : SReg)
  | div (g : PReg) (d a b : SReg)
  | divn (g : PReg) (d a b : SReg)
  | rem (g : PReg) (d a b : SReg)
  | remn (g : PReg) (d a b : SReg)
  | addi (g : PReg) (m : AMode) (d a : SReg) (imm : BitVec 32)
  | andi (g : PReg) (z : Bool) (d a : SReg) (imm : BitVec 32)
  | ori (g : PReg) (z : Bool) (d a : SReg) (imm : BitVec 32)
  | xori (g : PReg) (z : Bool) (d a : SReg) (imm : BitVec 32)
  | shl (g : PReg) (d a b : SReg)
  | shr (g : PReg) (d a b : SReg)
  | sar (g : PReg) (d a b : SReg)
  | shli (g : PReg) (d a : SReg) (n : BitVec 6)
  | shri (g : PReg) (d a : SReg) (n : BitVec 6)
  | sari (g : PReg) (d a : SReg) (n : BitVec 6)
  | rol (g : PReg) (d a : SReg) (n : RegImm 6)
  | fshr (g : PReg) (d a b : SReg) (n : Option (BitVec 7))
  | bext (g : PReg) (d a b : SReg) (pos : Option (BitVec 6)) (len : Option (BitVec 7))
  | bexts (g : PReg) (d a b : SReg) (pos : Option (BitVec 6)) (len : Option (BitVec 7))
  | bins (g : PReg) (d a b : SReg) (pos : Option (BitVec 6)) (len : Option (BitVec 7))
  | clz (g : PReg) (w : BitW) (d a : SReg)
  | ctz (g : PReg) (w : BitW) (d a : SReg)
  | popc (g : PReg) (w : BitW) (d a : SReg)
  | brev (g : PReg) (w : BitW) (d a : SReg)
  | cmp (g : PReg) (cc : CCond) (d : PReg) (a b : SReg)
  | cmpi (g : PReg) (cc : CCond) (d : PReg) (a : SReg) (imm : BitVec 32)
  | plog (g : PReg) (d a b : PReg) (tt : BitVec 4)
  | sel (g : PReg) (q : PReg) (d a b : SReg)
  | li (g : PReg) (z : Bool) (d : SReg) (imm : BitVec 32)
  | lih (g : PReg) (d : SReg) (imm : BitVec 32)
  | hset (g : PReg) (f : HSel) (h : HReg) (a : SReg)
  | hget (g : PReg) (f : HSel) (d : SReg) (h : HReg)
  | hadd (g : PReg) (f : HField) (h : HReg) (a : SReg)
  | rdsr (g : PReg) (d : SReg) (r : SysReg)
  | wrsr (g : PReg) (r : SysReg) (a : SReg)
  -- address ALU forms (R222 to R224)
  | axadd (g : PReg) (d a : SReg) (y : RegImm 32)
  | axsub (g : PReg) (d a : SReg) (y : RegImm 32)
  | axlog (g : PReg) (op : AxLogOp) (d a : SReg) (y : RegImm 32)
  | axsh (g : PReg) (op : AxShOp) (d a : SReg) (y : RegImm 6)
  | wxadd (g : PReg) (sub : Bool) (d a : SReg) (y : RegImm 24)
  -- vector slots (R225 to R251)
  | vadd (c : VCtl) (ty : VType) (md : VMode) (a b : VSel)
  | vsub (c : VCtl) (ty : VType) (md : VMode) (a b : VSel)
  | vmul (c : VCtl) (ty : VType) (md : VMode) (a b : VSel)
  | vfma (c : VCtl) (ty : VType) (md : VMode) (a b cc : VSel)
  | vmin (c : VCtl) (ty : VType) (md : VMode) (a b : VSel)
  | vmax (c : VCtl) (ty : VType) (md : VMode) (a b : VSel)
  | vabs (c : VCtl) (ty : VType) (md : VMode) (a : VSel)
  | vmulh (c : VCtl) (ty : VType) (md : VMode) (a b : VSel)
  | vand (c : VCtl) (ty : VType) (a b : VSel)
  | vor (c : VCtl) (ty : VType) (a b : VSel)
  | vxor (c : VCtl) (ty : VType) (a b : VSel)
  | vshl (c : VCtl) (ty : VType) (a b : VSel)
  | vshr (c : VCtl) (ty : VType) (a b : VSel)
  | vsar (c : VCtl) (ty : VType) (a b : VSel)
  | vcmp (c : VMaskCtl) (ty : VType) (cc : VCond) (a b : VSel)
  | vsel (c : VCtl) (ty : VType) (m : KReg) (a b : VSel)
  | vbext (c : VCtl) (ty : VType) (sgn : Bool) (a b cc : VSel)
  | vfshr (c : VCtl) (ty : VType) (a b cc : VSel)
  | vclmul (c : VCtl) (ty : VType) (hi : Bool) (a b : VSel)
  | vpopc (c : VCtl) (ty : VType) (a : VSel)
  | vclz (c : VCtl) (ty : VType) (a : VSel)
  | vbcast (c : VCtl) (ty : VType) (a : VSel) (l : LaneIdx)
  | viota (c : VCtl) (ty : VType) (f : IotaForm)
  | vrsum (c : VCtl) (ty : VType) (sat : Bool) (a : VSel)
  | vrmax (c : VCtl) (ty : VType) (a : VSel)
  | vrmin (c : VCtl) (ty : VType) (a : VSel)
  | vscan (c : VCtl) (ty : VType) (op : ScanOp) (sat : Bool) (a : VSel)
  | vshuf (c : VCtl) (ty : VType) (a b cc : VSel)
  | vslide (c : VCtl) (ty : VType) (up : Bool) (a b : VSel) (s : SlideAmt)
  | vtopk (c : VCtl) (ty : VType) (n : BitVec 5) (a : VSel)
  | vcvt (c : VCtl) (dt st : VType) (md : VMode) (part : BitVec 3) (a : VSel)
  | vsfu (c : VCtl) (ty : VType) (f : SfuFn) (a : VSel)
  | vmov (c : VCtl) (ty : VType) (a : VSel)
  | vmask (c : VMaskCtl) (ty : VType) (md : VMaskMode) (a : VSel)
  | vqnt (c : VCtl) (ty : VType) (f : Fmt) (gs : GSize) (a : VSel)
  | vdqnt (c : VCtl) (ty : VType) (f : Fmt) (gs : GSize) (a : VSel)
  | vsetk (unit : VUnit) (dk : KReg) (f : SetkForm)
  | vextr (unit : VUnit) (ty : VType) (d : SReg) (a : VSel) (l : LaneIdx) (imm : SReg)
  | vins (unit : VUnit) (ty : VType) (d : Row) (nowb : Bool) (n : SReg) (l : LaneIdx)
  -- transform slot (R252 to R261)
  | xexp (c : XCtl) (compress : Bool) (w : LaneW) (m : KReg)
  | xpln (c : XCtl) (f : Fmt)
  | xtrn (c : XCtl) (f : Fmt)
  | xcvt (c : XCtl) (sf df : Fmt) (gs : GSize) (sat : Bool)
  | xscl (c : XCtl) (inv : Bool) (h : HReg)
  | xpack (c : XCtl) (w1 : BitVec 3)
  | xunpk (c : XCtl) (sgn : Bool) (w1 : BitVec 3)
  | xbits (c : XCtl) (w : LaneW) (msb : Bool) (b : BitVec 6)
  | xzip (c : XCtl) (w : LaneW)
  | xunzip (c : XCtl) (w : LaneW)
  | xswz (c : XCtl) (p : SwzPat) (w : LaneW)
  -- loads (R263 to R272)
  | lds (g : PReg) (cl : Cls) (d a : SReg) (sz : MSize) (sx : Bool) (side : Bool) (disp : BitVec 32)
  | ldm (g : PReg) (cl : Cls) (d a : SReg) (sz : MSize) (sx : Bool) (clus : Bool) (disp : BitVec 24) (lat : BitVec 8)
  | ldw (g : PReg) (cl : Cls) (d a : SReg) (sz : MSize) (sx : Bool) (clus : Bool) (disp : BitVec 32)
  | ldwRpl (g : PReg)
  | ldq (g : PReg) (d : SReg) (n : Option (BitVec 4))
  | sts (g : PReg) (cl : Cls) (src a : SReg) (sz : MSize) (sp : SpSpace) (disp : BitVec 24)
  | stm (g : PReg) (cl : Cls) (src a : SReg) (sz : MSize) (clus : Bool) (disp : BitVec 24)
  | vld (g : PReg) (cl : Cls) (d : Row) (a : SReg) (b1 : BitVec 4) (w : LaneW) (k : KReg) (disp : BitVec 29)
  | vst (g : PReg) (cl : Cls) (src : Row) (a : SReg) (b1 : BitVec 4) (w : LaneW) (k : KReg) (disp : BitVec 21)
  | vldp (g : PReg) (cl : Cls) (d : Row) (a : SReg) (sw : LaneW) (dw : LaneW) (sx : Bool) (k : KReg) (disp : BitVec 29)
  | vldg (g : PReg) (cl : Cls) (d : Row) (a : SReg) (w : LaneW) (sh : BitVec 2) (x : Row) (k : KReg) (disp : BitVec 21)
  | vsts (g : PReg) (cl : Cls) (src : Row) (a : SReg) (w : LaneW) (sh : BitVec 2) (x : Row) (k : KReg) (disp : BitVec 13)
  | ldh (g : PReg) (cl : Cls) (h : HReg) (a : SReg) (mem : Bool) (disp : BitVec 32)
  | sth (g : PReg) (cl : Cls) (h : HReg) (a : SReg) (mem : Bool) (disp : BitVec 24)
  | ldpcw (g : PReg) (cl : Cls) (n : BitVec 4) (a : SReg) (mem : Bool) (disp : BitVec 32)
  | ats (g : PReg) (cl : Cls) (op : AtomOp) (eight : Bool) (src : SReg) (clus : Bool) (a dd : SReg) (lat : BitVec 8) (disp : BitVec 10)
  | atm (g : PReg) (cl : Cls) (op : AtomOp) (eight : Bool) (src a dd : SReg) (lat : BitVec 8) (disp : BitVec 10)
  | mst (g : PReg) (cl : Cls) (src a : SReg) (sz : MSize) (disp : BitVec 24)
  -- copy slot (R275 to R287)
  | cpy (g : PReg) (cl : Cls) (t : Tok) (hd hs : HReg) (rm : RMode) (sat outer comp : Bool)
  | cpyp (g : PReg) (cl : Cls) (t : Tok) (hd hs : HReg) (rm : RMode) (sat outer comp : Bool)
  | chst (g : PReg) (cl : Cls) (t : Tok) (hd hs : HReg) (rm : RMode) (sat outer comp : Bool)
  | cpya (g : PReg) (cl : Cls) (t : Tok) (f : Fmt) (hs : HReg) (gs : GSize) (outer : Bool)
  | cpyb (g : PReg) (cl : Cls) (t : Tok) (f : Fmt) (hs : HReg) (gs : GSize) (outer : Bool)
  | cfil (g : PReg) (cl : Cls) (t : Tok) (hd : HReg) (p : SReg) (outer : Bool)
  | cred (g : PReg) (cl : Cls) (t : Tok) (hd hs : HReg) (peer slot : SReg) (add : Bool)
  | cres (g : PReg) (cl : Cls) (t : Tok) (hd hs hr hc : HReg) (gs : GSize)
  | cmcs (g : PReg) (cl : Cls) (t : Tok) (hs : HReg) (a : SReg)
  | cwld (g : PReg) (cl : Cls) (t : Tok) (hd hs : HReg) (outer : Bool)
  | cmig (g : PReg) (cl : Cls) (t : Tok) (v s : SReg) (far : Bool) (gran : BitVec 2)
  | crly (g : PReg) (cl : Cls) (t : Tok) (v s : SReg) (gran : BitVec 2)
  | cnest (g : PReg) (l5 : Bool) (c ds dd : SReg)
  -- matrix slot (R288 to R290)
  | mcfg (g : PReg) (n : BitVec 4) (a : SReg)
  | mpcw (g : PReg) (n : BitVec 4) (a : SReg)
  | mgo (g : PReg)
  | mhad (g : PReg) (row0 : Row) (m1 : BitVec 7) (drn : Bool) (hd : HReg) (t : Tok) (rm : RMode) (psh : BitVec 8)
  | mwld (g : PReg) (pcw : BitVec 4) (k1 n1 : BitVec 7) (t : Tok)
  | mdrn (g : PReg) (row0 : Row) (c1 : BitVec 7) (hd : HReg) (t : Tok) (rm : RMode) (psh : BitVec 8) (i32 : Bool)
  | mzero (g : PReg) (row0 : Row) (c1 : BitVec 8) (t : Tok)
  | mstat (g : PReg) (a : SReg)
  | mswap (g : PReg) (t : Tok)
  -- sync slot (R291 to R316)
  | br (g : PReg) (t : Target)
  | brc (g : PReg) (q : PReg) (n : Bool) (disp : BitVec 24)
  | call (g : PReg) (l : SReg) (t : Target)
  | ret (g : PReg) (a : SReg)
  | loop (g : PReg) (lvl : BitVec 2) (desc : Bool) (len1 : BitVec 8) (n : LoopCount)
  | loopr (g : PReg) (lvl : BitVec 2) (desc : Bool) (len1 : BitVec 8) (drain : BitVec 3) (n : LoopCount)
  | waite (g : PReg) (mask : BitVec 16)
  | bsp (g : PReg) (sc : BScope)
  | fence (g : PReg) (mask : BitVec 16) (sc : FScope)
  | publish (g : PReg) (mask : BitVec 16)
  | swapb (g : PReg) (mask : BitVec 16) (h : HReg) (m : SReg) (rs flip : Bool)
  | probe (g : PReg) (a b : SReg) (kind : AKind)
  | ckts (g : PReg) (a b c : SReg) (three : Bool)
  | cktv (g : PReg) (x y : Row) (b1 : BitVec 4) (k : KReg)
  | trap (g : PReg) (d : SReg) (code : BitVec 16)
  | eret (g : PReg)
  | setrpl (g : PReg) (t : Target)
  | enq (g : PReg) (a : SReg)
  | spawn (g : PReg) (a : SReg)
  | endTask (g : PReg)
  | dictld (g : PReg) (a : SReg)
  | dictsw (g : PReg)
  | rdtime (g : PReg) (d e : SReg)
  | qpt (g : PReg) (p : PReg) (y : Option SReg)
  | inval (g : PReg) (a b : SReg) (kind : InvKind)
  | wcsld (g : PReg) (d a b : SReg)
  | halt (g : PReg)
  -- events of a core (R182 to R194, R265, R266, R292, R381)
  | resultLanding
  | waitEnd
  | barrierRelease (sc : BScope)
  | groupMark
  | loopEnd
  | debugBreak
  | debugRelease
  | trackerDeadline (n : BitVec 4)
  | loadReply (n : BitVec 4) (v : ReplyVal)
  | enterReplay
  -- events of the hub (R30 to R70)
  | launchPacket (w : Line)
  | mlaunch (w : Line)
  | dispatchDecision (core : BitVec 9)
  | entryAvailable (task : Nat)
  | preemptionRequest (core : BitVec 9)
  | stateSave
  | preemptHaltTimeout (core : BitVec 9)
  | taskResume
  | regionComplete (region : Nat)
  | completionRecordWrite
  | coalesceTimerExpiry (ring : BitVec 8)
  | ctailWrite (ring : BitVec 8) (v : BitVec 32)
  | ringEnableWrite (ring : BitVec 8) (en : Bool)
  -- events of the engines (R155 to R169, R277, R283, R104)
  | blockLoad
  | pendingCommandActivates
  | pass
  | pressDrain
  | matrixCommandComplete
  | copyLine (l : CLane)
  | copyCommandComplete
  | credTransferStart
  | weightRefreshWindow
  -- migration (R88 to R91, R382 to R384)
  | migrationRequest
  | migrationCopyStart (n : Nat)
  | migrationCopyDone (n : Nat)
  | dwellExpiry (n : Nat)
  | hostMigrationRequest (engine : BitVec 2) (w0 : Word)
  | padd (pool : BitVec 3) (w : Word)
  -- fabric (R337 to R355, R439 to R446)
  | flitReceive (port : BitVec 4) (f : Flit)
  | linkRetry (port : BitVec 4) (seq : BitVec 12)
  | linkRetrain (port : BitVec 4) (ok : Bool) (free : List (BitVec 6))
  | remoteRequest (r : RemoteReq)
  | requestExpiry (n : Nat)
  | remoteAtomic (r : RemoteAtom)
  | lineRecall (line : Nat)
  | lineReturn (line : Nat) (bytes : List Byte)
  | multicastStamp (group : BitVec 12) (src : McastFrom) (off : BitVec 32) (bytes : List Byte)
  | multicastApply (group : BitVec 12) (arrived : Option (BitVec 32 × BitVec 32 × List Byte))
  | appliedReport (group : BitVec 12) (node : BitVec 10) (applied : BitVec 32)
  | appliedReportTimer (group : BitVec 12)
  | mcastGap (group : BitVec 12)
  | memberReportTimeout (group : BitVec 12) (node : BitVec 10)
  | groupEntryWrite (agent : Agent) (group : BitVec 12) (v : BitVec 256)
  | fabricRelabel (node : BitVec 10) (ndim : BitVec 4) (portmap : BitVec 48)
  | timeSync (ref : Word)
  -- host port (R360 to R367, R447)
  | hostWindowRead (hdm : BitVec 40) (n : Nat)
  | hostWindowWrite (hdm : BitVec 40) (bytes : List Byte)
  | hostCompletionTimeout (n : Nat)
  -- reset, boot, power (R376 to R387)
  | bootStep (bad : Option (BitVec 5))
  | dieResetRequest (mask : BitVec 4)
  | dieEntersReset (die : BitVec 2)
  | dieRelease (die : BitVec 2) (selfTest : Bool)
  -- failures (R397 to R449)
  | patrolScrub (die : BitVec 4) (off : BitVec 39) (gran : BitVec 2)
  | farDieLoss (f : BitVec 2)
  | taskKill (task : Nat)
  | rindClose (die : BitVec 2)
  -- system-side events
  | registerWrite (agent : Agent) (off : BitVec 18) (size : Nat) (v : Word)
  | regionBecomesLate (region : Nat)
  | linkTraining (port : BitVec 4)
  | spdmRequest (r : SpdmReq)
  | writeAcknowledgement (n : Nat) (code : BitVec 16) (v : AckVal)
  | haltRelease (core : BitVec 9)
  -- events of the module as a whole that carry nothing (R340, R347, R360, R376, R386, R387, R409)
  | moduleReset
  | standbyRequest
  | standbyWake
  | clockStepDown
  | clockStepUp
  | hostPortDown
  | hostPortTraining
  | phaseRollback
  | quiesceRequest
  | routerQuiesced
  | quiesceRelease
  | contentionHalving
  deriving DecidableEq, Repr

end Sys2Proof
end

