-- ==== Sys2Proof/Config.lean ====
section
/-! DEFINITION. What the manual leaves open, as opaque values that no proof can evaluate, and the
constants an implementation fixes. Each opaque value is named in the assumption log. -/

namespace Sys2Proof.Config

/-- A free bit: old or new value of an unpublished own shadow write (R328), and every other
two-way choice the manual leaves open. -/
opaque freeBit : Nat → Bool
/-- A free byte: bytes the manual calls unspecified (R94), wrong corrections (R424). -/
opaque freeByte : Nat → BitVec 8
/-- A byte of host memory that no access of the run has written: the host's own content. -/
opaque hostByte : Nat → BitVec 8
/-- Whether the signature that an image carries verifies (R315, R372). -/
opaque signatureOk : List (BitVec 8) → Bool
/-- The firmware image or configuration measured under an index (R377, R378). -/
opaque image : Nat → List (BitVec 8)
/-- The silicon revision DEVID.REV (R375). -/
opaque siliconRev : BitVec 16
/-- What the verified configuration gives SECCL and the near-die region tables, and the fused key hash (R369, R370, R378). -/
opaque seccl : BitVec 8
opaque region : Nat → BitVec 64
opaque keyHash : List (BitVec 8)
/-- The syndrome field of a machine-check record (R406). -/
opaque syndrome : Nat → BitVec 64
/-- The payload bytes of an SPDM response, which DMTF DSP0274 and the device keys fix (R373). -/
opaque spdmResponse : Nat → List (BitVec 8)

/-- The expiry that the head of a request carries in its payload, whose layout no program sees (R342, R441). -/
opaque expiryOf : List (BitVec 8) → Nat

/-- Cores of the module (R26). -/
def cores : Nat := 512
/-- PART of DEVID (R375). -/
def part : BitVec 16 := 0x8008

end Sys2Proof.Config
end

