-- ==== Sys2Proof/Machine/Digest.lean ====
section
/-! DEFINITION. SHA-256, the digest of a measurement (R378). The manual names the function; its constants and rounds are
those of FIPS 180-4, which are PRESUMED (log 157). -/

namespace Sys2Proof.Machine.Sha

open Sys2Proof

abbrev W32 := BitVec 32

/-- The round constants: 32 bits of the fractions of the cube roots of the first 64 primes. -/
def kLow : List W32 :=
  [0x428A2F98, 0x71374491, 0xB5C0FBCF, 0xE9B5DBA5, 0x3956C25B, 0x59F111F1, 0x923F82A4, 0xAB1C5ED5,
   0xD807AA98, 0x12835B01, 0x243185BE, 0x550C7DC3, 0x72BE5D74, 0x80DEB1FE, 0x9BDC06A7, 0xC19BF174,
   0xE49B69C1, 0xEFBE4786, 0x0FC19DC6, 0x240CA1CC, 0x2DE92C6F, 0x4A7484AA, 0x5CB0A9DC, 0x76F988DA,
   0x983E5152, 0xA831C66D, 0xB00327C8, 0xBF597FC7, 0xC6E00BF3, 0xD5A79147, 0x06CA6351, 0x14292967]
def kHigh : List W32 :=
  [0x27B70A85, 0x2E1B2138, 0x4D2C6DFC, 0x53380D13, 0x650A7354, 0x766A0ABB, 0x81C2C92E, 0x92722C85,
   0xA2BFE8A1, 0xA81A664B, 0xC24B8B70, 0xC76C51A3, 0xD192E819, 0xD6990624, 0xF40E3585, 0x106AA070,
   0x19A4C116, 0x1E376C08, 0x2748774C, 0x34B0BCB5, 0x391C0CB3, 0x4ED8AA4A, 0x5B9CCA4F, 0x682E6FF3,
   0x748F82EE, 0x78A5636F, 0x84C87814, 0x8CC70208, 0x90BEFFFA, 0xA4506CEB, 0xBEF9A3F7, 0xC67178F2]

/-- The words of the state before the first block: fractions of the square roots of the first 8 primes. -/
def start : List W32 :=
  [0x6A09E667, 0xBB67AE85, 0x3C6EF372, 0xA54FF53A, 0x510E527F, 0x9B05688C, 0x1F83D9AB, 0x5BE0CD19]

def sigma (a b : Nat) (c : Nat) (x : W32) : W32 := x.rotateRight a ^^^ x.rotateRight b ^^^ (x >>> c)
def sum3 (a b c : Nat) (x : W32) : W32 := x.rotateRight a ^^^ x.rotateRight b ^^^ x.rotateRight c

/-- The schedule, newest word first, grown by n words. -/
def extend : Nat → List W32 → List W32
  | 0, l => l
  | n + 1, l =>
    let w (i : Nat) : W32 := l.getD i 0
    extend n ((sigma 17 19 10 (w 1) + w 6 + sigma 7 18 3 (w 14) + w 15) :: l)

/-- One round over the eight working words. -/
def round (v : List W32) (kw : W32 × W32) : List W32 :=
  match v with
  | [a, b, c, d, e, f, g, h] =>
    let t1 := h + sum3 6 11 25 e + ((e &&& f) ^^^ (~~~e &&& g)) + kw.1 + kw.2
    let t2 := sum3 2 13 22 a + ((a &&& b) ^^^ (a &&& c) ^^^ (b &&& c))
    [t1 + t2, a, b, c, d + t1, e, f, g]
  | v => v

/-- One block of 16 words. -/
def block (h ws : List W32) : List W32 :=
  let sched := (extend 48 ws.reverse).reverse
  ((((kLow ++ kHigh).zip sched).foldl round h).zip h).map (fun (x, y) => x + y)

/-- Big-endian words of bytes. -/
def words : List (BitVec 8) → List W32
  | a :: b :: c :: d :: rest => (a ++ b ++ c ++ d) :: words rest
  | _ => []

/-- The message with its padding: a one bit, zeros, and its length in bits in the last 8 bytes. -/
def padded (m : List (BitVec 8)) : List (BitVec 8) :=
  let n := 8 * m.length
  m ++ [0x80] ++ List.replicate ((119 - m.length % 64) % 64) 0 ++
    (List.range 8).map (fun i => BitVec.ofNat 8 (n / 2 ^ (8 * (7 - i))))

/-- The blocks of n · 16 words, in order. -/
def blocks : Nat → List W32 → List W32 → List W32
  | 0, h, _ => h
  | n + 1, h, ws => blocks n (block h (ws.take 16)) (ws.drop 16)

/-- The 32 bytes of the digest of a message. -/
def bytes (m : List (BitVec 8)) : List (BitVec 8) :=
  let ws := words (padded m)
  (blocks (ws.length / 16) start ws).flatMap (fun x => (List.range 4).map (fun i => x.extractLsb' (8 * (3 - i)) 8))

end Sys2Proof.Machine.Sha

namespace Sys2Proof.Machine

/-- The SHA-256 digest of an image or a configuration, its first byte in bits 7:0 (R378). -/
def digest (m : List (BitVec 8)) : BitVec 256 :=
  BitVec.ofNat 256 ((Sha.bytes m).foldr (fun b acc => b.toNat + 256 * acc) 0)

end Sys2Proof.Machine
end

