-- ==== Sys2Proof/WellFormed.lean ====
section
/-! DEFINITION. Which instruction terms are instructions of the machine: the limits the encodings of
R176 and each entry put on fields that the syntax leaves wider. Every event is well formed. -/

namespace Sys2Proof

/-- MX element formats (R118, R119). -/
def fmtMx : Fmt → Bool
  | .e4m3 | .e5m2 | .e3m2 | .e2m3 | .e2m1 | .mxint8 => true
  | _ => false

/-- PX formats (R124). -/
def fmtPx : Fmt → Bool
  | .px9 | .px6 | .px4 => true
  | _ => false

/-- Formats that R100 allows plane-major. -/
def fmtPlane : Fmt → Bool
  | .bf16 | .fp16 | .e4m3 | .e5m2 | .e3m2 | .e2m3 | .e2m1 | .mxint8 | .px9 | .px6 | .px4 | .int8
  | .n8 => true
  | _ => false

/-- Operand formats of the matrix engine (R143). -/
def fmtMatrix : Fmt → Bool
  | .bf16 | .e4m3 | .e5m2 | .e3m2 | .e2m3 | .e2m1 | .mxint8 | .px9 | .px6 | .px4 | .int8 | .n8 => true
  | _ => false

/-- Formats XCVT converts (codes 0 to 17, R255). -/
def fmtXcvt : Fmt → Bool
  | .int64 | .bytes => false
  | _ => true

def VType.float : VType → Bool
  | .f32 | .bf16 => true
  | _ => false

namespace WF

/-- Where an entry takes a scalar operand, imm names it only when some selector reads it (R176, R225). -/
def immOk (imm : SReg) (sels : List VSel) : Bool := decide (imm = 0) || sels.contains .scalar

/-- Rounding mode on floating types only, saturation on integer types only (R176). -/
def modeOk (ty : VType) (md : VMode) : Bool :=
  if ty.float then !md.sat else decide (md.rm = .rne)

def wide (w : LaneW) : Bool := decide (w = .w64)

/-- A length field holds at most 64 (R212). -/
def lenOk (l : Option (BitVec 7)) : Bool :=
  match l with
  | some n => decide (n.toNat ≤ 64)
  | none => true

/-- b is used by BEXT, BEXTS and BINS only when it replaces pos or len (R212). -/
def fieldOk (b : SReg) (pos : Option (BitVec 6)) (len : Option (BitVec 7)) : Bool :=
  lenOk len && (decide (b = 0) || pos.isNone || len.isNone)

/-- Fields that HADD may name (R218). -/
def haddOk : HField → Bool
  | .base | .ex0 | .ex1 | .ex2 | .ex3 | .st1 | .st2 | .st3 | .side | .off => true
  | _ => false

/-- Source and destination widths that VLDP can encode (R270). -/
def vldpOk (sw dw : LaneW) : Bool :=
  (decide (sw = .w8) || decide (sw = .w16)) && decide (dw ≠ .w8)

end WF

/-- Well-formedness. -/
def Instr.wf : Instr → Bool
  | .bext _ _ _ b p l | .bexts _ _ _ b p l | .bins _ _ _ b p l => WF.fieldOk b p l
  | .hadd _ f _ _ => WF.haddOk f
  | .vadd c ty md a b | .vsub c ty md a b | .vmul c ty md a b | .vmin c ty md a b
  | .vmax c ty md a b => WF.immOk c.imm [a, b] && WF.modeOk ty md
  | .vfma c ty md a b cc => WF.immOk c.imm [a, b, cc] && WF.modeOk ty md
  | .vabs c ty md a => WF.immOk c.imm [a] && WF.modeOk ty md
  | .vmulh c ty md a b => !ty.float && WF.immOk c.imm [a, b] && WF.modeOk ty md
  | .vand c .. | .vor c .. | .vxor c .. | .vsel c .. | .vshuf c .. | .vslide c .. => decide (c.imm = 0)
  | .vcmp c .. => decide (c.imm = 0)
  | .vshl c ty _ _ | .vshr c ty _ _ | .vsar c ty _ _ => !ty.float && decide (c.imm = 0)
  | .vbext c ty _ a b cc | .vfshr c ty a b cc => !ty.float && WF.immOk c.imm [a, b, cc]
  | .vclmul c ty _ a b => !ty.float && WF.immOk c.imm [a, b]
  | .vpopc c ty _ | .vclz c ty _ => !ty.float && decide (c.imm = 0)
  | .vbcast c _ a l =>
    match l with
    | .imm _ => WF.immOk c.imm [a]
    | .reg _ => decide (c.imm = 0)
  | .viota c ty _ => !ty.float && decide (c.imm = 0)
  | .vrsum c ty sat _ => decide (c.imm = 0) && (!ty.float || !sat)
  | .vrmax c .. | .vrmin c .. | .vmov c .. => decide (c.imm = 0)
  | .vscan c ty op sat _ =>
    decide (c.imm = 0) && (decide (op ≠ .xor) || !ty.float) &&
      (!sat || (decide (op = .add) && !ty.float))
  | .vtopk c ty n _ =>
    decide (c.imm = 0) && decide (1 ≤ n.toNat) && decide (n.toNat ≤ 16) && decide (ty ≠ .i8) &&
      decide (ty ≠ .n8)
  | .vcvt c dt _ md _ _ => decide (c.imm = 0) && (!dt.float || !md.sat)
  | .vsfu c ty _ _ => ty.float && decide (c.imm = 0)
  | .vmask c _ md _ => decide (c.imm = 0) && (decide (md ≠ .raw) || decide (c.k = 0))
  | .vqnt c ty f gs _ =>
    decide (c.imm = 0) && ty.float && decide (c.k = 0) && (fmtMx f || (fmtPx f && decide (gs = .g32)))
  | .vdqnt c ty f gs _ =>
    decide (c.imm = 0) && ty.float && (fmtMx f || (fmtPx f && decide (gs = .g32)))
  | .vextr _ _ _ _ _ imm => decide (imm = 0)
  | .xpln _ f | .xtrn _ f => fmtPlane f
  | .xcvt _ sf df _ _ => fmtXcvt sf && fmtXcvt df
  | .ldm _ _ _ _ _ _ _ _ lat => decide (lat ≠ 0)
  | .ldwRpl g => decide (g = 0)
  | .vldp _ _ _ _ sw dw _ _ _ => WF.vldpOk sw dw
  | .vldg _ _ _ _ w _ _ _ _ => !WF.wide w
  | .vsts _ _ _ _ w _ _ _ _ => !WF.wide w
  | .ats _ _ _ _ _ _ _ dd lat _ => decide (dd = 0) || decide (lat ≠ 0)
  | .atm _ _ _ _ _ _ dd lat _ => decide (dd = 0) || decide (lat ≠ 0)
  | .cpya _ _ _ f _ _ _ | .cpyb _ _ _ f _ _ _ => fmtMatrix f
  | .mcfg _ n _ => decide (n.toNat ≤ 8)
  | .axsh .. => true
  | _ => true

end Sys2Proof
end

