-- ==== Sys2Proof/Decode.lean ====
section
/-! DEFINITION. The bundle to the bit (R172, R173, R176, R198): raw slots, the decoder of every
slot operation with its reserved fields (R452, R455), and the encoder. -/

namespace Sys2Proof

/-! ### Raw slots -/

structure SRaw where
  op : BitVec 6
  g : BitVec 4
  d : BitVec 6
  a : BitVec 6
  b : BitVec 6
  fn : BitVec 4
  imm : BitVec 32
  deriving DecidableEq, Repr

structure VRaw where
  op : BitVec 6
  k : BitVec 3
  ty : BitVec 3
  d : BitVec 8
  nowb : BitVec 1
  latch : BitVec 3
  sa : BitVec 9
  sb : BitVec 9
  sc : BitVec 9
  b1 : BitVec 4
  fn : BitVec 3
  imm : BitVec 6
  deriving DecidableEq, Repr

structure MRaw where
  op : BitVec 4
  g : BitVec 4
  pay : BitVec 40
  deriving DecidableEq, Repr

structure XRaw where
  op : BitVec 4
  g : BitVec 4
  d : BitVec 8
  src : BitVec 9
  b1 : BitVec 4
  fn : BitVec 6
  h : BitVec 5
  aux : BitVec 8
  deriving DecidableEq, Repr

structure LRaw where
  op : BitVec 4
  g : BitVec 4
  cl : BitVec 4
  d : BitVec 8
  a : BitVec 6
  fn : BitVec 6
  disp : BitVec 32
  deriving DecidableEq, Repr

structure WRaw where
  op : BitVec 4
  g : BitVec 4
  cl : BitVec 4
  src : BitVec 8
  a : BitVec 6
  fn : BitVec 6
  disp : BitVec 24
  deriving DecidableEq, Repr

structure CRaw where
  op : BitVec 4
  g : BitVec 4
  cl : BitVec 4
  tok : BitVec 4
  pay : BitVec 32
  deriving DecidableEq, Repr

structure YRaw where
  op : BitVec 5
  g : BitVec 4
  pay : BitVec 31
  deriving DecidableEq, Repr

/-- A bundle split into its header and nine raw slots (R172, R173). -/
structure Bundle where
  g : BitVec 1
  le : BitVec 3
  brk : BitVec 1
  rsv : BitVec 3
  btag : BitVec 8
  s : SRaw
  v0 : VRaw
  v1 : VRaw
  m : MRaw
  x : XRaw
  l : LRaw
  w : WRaw
  c : CRaw
  y : YRaw
  deriving DecidableEq, Repr

def SRaw.pack (r : SRaw) : BitVec 64 := r.op ++ r.g ++ r.d ++ r.a ++ r.b ++ r.fn ++ r.imm
def VRaw.pack (r : VRaw) : BitVec 64 :=
  r.op ++ r.k ++ r.ty ++ r.d ++ r.nowb ++ r.latch ++ r.sa ++ r.sb ++ r.sc ++ r.b1 ++ r.fn ++ r.imm
def MRaw.pack (r : MRaw) : BitVec 48 := r.op ++ r.g ++ r.pay
def XRaw.pack (r : XRaw) : BitVec 48 :=
  r.op ++ r.g ++ r.d ++ r.src ++ r.b1 ++ r.fn ++ r.h ++ r.aux
def LRaw.pack (r : LRaw) : BitVec 64 := r.op ++ r.g ++ r.cl ++ r.d ++ r.a ++ r.fn ++ r.disp
def WRaw.pack (r : WRaw) : BitVec 56 := r.op ++ r.g ++ r.cl ++ r.src ++ r.a ++ r.fn ++ r.disp
def CRaw.pack (r : CRaw) : BitVec 48 := r.op ++ r.g ++ r.cl ++ r.tok ++ r.pay
def YRaw.pack (r : YRaw) : BitVec 40 := r.op ++ r.g ++ r.pay

def SRaw.unpack (w : BitVec 64) : SRaw :=
  ⟨w.extractLsb' 58 6, w.extractLsb' 54 4, w.extractLsb' 48 6, w.extractLsb' 42 6,
    w.extractLsb' 36 6, w.extractLsb' 32 4, w.extractLsb' 0 32⟩
def VRaw.unpack (w : BitVec 64) : VRaw :=
  ⟨w.extractLsb' 58 6, w.extractLsb' 55 3, w.extractLsb' 52 3, w.extractLsb' 44 8,
    w.extractLsb' 43 1, w.extractLsb' 40 3, w.extractLsb' 31 9, w.extractLsb' 22 9,
    w.extractLsb' 13 9, w.extractLsb' 9 4, w.extractLsb' 6 3, w.extractLsb' 0 6⟩
def MRaw.unpack (w : BitVec 48) : MRaw :=
  ⟨w.extractLsb' 44 4, w.extractLsb' 40 4, w.extractLsb' 0 40⟩
def XRaw.unpack (w : BitVec 48) : XRaw :=
  ⟨w.extractLsb' 44 4, w.extractLsb' 40 4, w.extractLsb' 32 8, w.extractLsb' 23 9,
    w.extractLsb' 19 4, w.extractLsb' 13 6, w.extractLsb' 8 5, w.extractLsb' 0 8⟩
def LRaw.unpack (w : BitVec 64) : LRaw :=
  ⟨w.extractLsb' 60 4, w.extractLsb' 56 4, w.extractLsb' 52 4, w.extractLsb' 44 8,
    w.extractLsb' 38 6, w.extractLsb' 32 6, w.extractLsb' 0 32⟩
def WRaw.unpack (w : BitVec 56) : WRaw :=
  ⟨w.extractLsb' 52 4, w.extractLsb' 48 4, w.extractLsb' 44 4, w.extractLsb' 36 8,
    w.extractLsb' 30 6, w.extractLsb' 24 6, w.extractLsb' 0 24⟩
def CRaw.unpack (w : BitVec 48) : CRaw :=
  ⟨w.extractLsb' 44 4, w.extractLsb' 40 4, w.extractLsb' 36 4, w.extractLsb' 32 4,
    w.extractLsb' 0 32⟩
def YRaw.unpack (w : BitVec 40) : YRaw :=
  ⟨w.extractLsb' 35 5, w.extractLsb' 31 4, w.extractLsb' 0 31⟩

def Bundle.pack (b : Bundle) : Line :=
  b.g ++ b.le ++ b.brk ++ b.rsv ++ b.btag ++ b.s.pack ++ b.v0.pack ++ b.v1.pack ++ b.m.pack ++
    b.x.pack ++ b.l.pack ++ b.w.pack ++ b.c.pack ++ b.y.pack

def Bundle.unpack (w : Line) : Bundle :=
  { g := w.extractLsb' 511 1, le := w.extractLsb' 508 3, brk := w.extractLsb' 507 1,
    rsv := w.extractLsb' 504 3, btag := w.extractLsb' 496 8,
    s := SRaw.unpack (w.extractLsb' 432 64), v0 := VRaw.unpack (w.extractLsb' 368 64),
    v1 := VRaw.unpack (w.extractLsb' 304 64), m := MRaw.unpack (w.extractLsb' 256 48),
    x := XRaw.unpack (w.extractLsb' 208 48), l := LRaw.unpack (w.extractLsb' 144 64),
    w := WRaw.unpack (w.extractLsb' 88 56), c := CRaw.unpack (w.extractLsb' 40 48),
    y := YRaw.unpack (w.extractLsb' 0 40) }

/-- One slot's bits, tagged with the slot. -/
inductive SlotWord where
  | s (r : SRaw) | v (u : VUnit) (r : VRaw) | m (r : MRaw) | x (r : XRaw) | l (r : LRaw)
  | w (r : WRaw) | c (r : CRaw) | y (r : YRaw)
  deriving DecidableEq, Repr

/-- Why a slot names no instruction: an unassigned opcode, or the slot bit of the lowest offending
field (R455). -/
inductive Reject where
  | opcode (v : Nat) | reserved (bit : Nat)
  deriving DecidableEq, Repr

/-- The lowest offending field of a list of fields, each by its lowest slot bit. -/
def firstBad : List (Nat × Bool) → Option Nat
  | [] => none
  | (lo, bad) :: rest =>
    if bad then some (match firstBad rest with
      | some b => min lo b
      | none => lo)
    else firstBad rest

/-- Accept an instruction unless a reserved field is nonzero or a reserved value stands in a field. -/
def guardBy (l : List (Nat × Bool)) (i : Instr) : Except Reject Instr :=
  match firstBad l with
  | some b => .error (.reserved b)
  | none => .ok i

def bz (v : BitVec n) : Bool := decide (v ≠ 0)
def b1 (v : BitVec 1) : Bool := decide (v = 1)
def ofB (b : Bool) : BitVec 1 := if b then 1 else 0

/-! ### Field codes -/

def fmtCode : Fmt → BitVec 5
  | .fp32 => 0 | .bf16 => 1 | .fp16 => 2 | .e4m3 => 3 | .e5m2 => 4 | .e3m2 => 5 | .e2m3 => 6
  | .e2m1 => 7 | .mxint8 => 8 | .px9 => 9 | .px6 => 10 | .px4 => 11 | .int8 => 12 | .int16 => 13
  | .int32 => 14 | .n8 => 15 | .n16 => 16 | .n32 => 17 | .int64 => 18 | .bytes => 19

def fmtOf (c : Nat) : Option Fmt :=
  match c with
  | 0 => some .fp32 | 1 => some .bf16 | 2 => some .fp16 | 3 => some .e4m3 | 4 => some .e5m2
  | 5 => some .e3m2 | 6 => some .e2m3 | 7 => some .e2m1 | 8 => some .mxint8 | 9 => some .px9
  | 10 => some .px6 | 11 => some .px4 | 12 => some .int8 | 13 => some .int16 | 14 => some .int32
  | 15 => some .n8 | 16 => some .n16 | 17 => some .n32 | 18 => some .int64 | 19 => some .bytes
  | _ => none

/-- A format code that some predicate admits; the default stands for a rejected code. -/
def fmtSel (c : BitVec 5) (p : Fmt → Bool) : Fmt × Bool :=
  match fmtOf c.toNat with
  | some f => (f, !p f)
  | none => (.fp32, true)

def amodeCode : AMode → BitVec 2
  | .wrap => 0 | .sat => 1 | .satn => 2
def amodeOf (c : BitVec 2) : AMode := if c = 0 then .wrap else if c = 1 then .sat else .satn

def rmCode : RMode → BitVec 2
  | .rne => 0 | .rz => 1 | .rdn => 2 | .rup => 3
def rmOf (c : BitVec 2) : RMode :=
  if c = 0 then .rne else if c = 1 then .rz else if c = 2 then .rdn else .rup

def bitwCode : BitW → BitVec 2
  | .w64 => 0 | .w32 => 1 | .w16 => 2 | .w8 => 3
def bitwOf (c : BitVec 2) : BitW :=
  if c = 0 then .w64 else if c = 1 then .w32 else if c = 2 then .w16 else .w8

def lanewCode : LaneW → BitVec 2
  | .w32 => 0 | .w16 => 1 | .w8 => 2 | .w64 => 3
def lanewOf (c : BitVec 2) : LaneW :=
  if c = 0 then .w32 else if c = 1 then .w16 else if c = 2 then .w8 else .w64

def ccCode : CCond → BitVec 4
  | .eq => 0 | .ne => 1 | .lt => 2 | .ge => 3 | .ltn => 4 | .gen => 5 | .le => 6 | .gt => 7
  | .len => 8 | .gtn => 9 | .tst => 10 | .ntst => 11
def ccOf (c : BitVec 4) : CCond :=
  match c.toNat with
  | 0 => .eq | 1 => .ne | 2 => .lt | 3 => .ge | 4 => .ltn | 5 => .gen | 6 => .le | 7 => .gt
  | 8 => .len | 9 => .gtn | 10 => .tst | _ => .ntst

def vcCode : VCond → BitVec 3
  | .eq => 0 | .ne => 1 | .lt => 2 | .le => 3 | .gt => 4 | .ge => 5
def vcOf (c : BitVec 3) : VCond :=
  match c.toNat with
  | 0 => .eq | 1 => .ne | 2 => .lt | 3 => .le | 4 => .gt | _ => .ge

def tyCode : VType → BitVec 3
  | .f32 => 0 | .bf16 => 1 | .i32 => 2 | .i16 => 3 | .i8 => 4 | .i64 => 5 | .n32 => 6 | .n8 => 7
def tyOf (c : BitVec 3) : VType :=
  match c.toNat with
  | 0 => .f32 | 1 => .bf16 | 2 => .i32 | 3 => .i16 | 4 => .i8 | 5 => .i64 | 6 => .n32 | _ => .n8

def vselCode : VSel → BitVec 9
  | .row r => (0 : BitVec 1) ++ r
  | .latch n => (32 : BitVec 6) ++ n
  | .scalar => 264
  | .zero => 265
/-- A V selector; reserved values (266–511) are told by `vselBad` (R186). -/
def vselOf (c : BitVec 9) : VSel :=
  if c.toNat < 256 then .row (c.extractLsb' 0 8)
  else if c.toNat < 264 then .latch (c.extractLsb' 0 3)
  else if c.toNat = 264 then .scalar else .zero
def vselBad (c : BitVec 9) : Bool := decide (265 < c.toNat)

def xselCode : XSel → BitVec 9
  | .row r => (0 : BitVec 1) ++ r
  | .latch n => (32 : BitVec 6) ++ n
  | .zero => 265
def xselOf (c : BitVec 9) : XSel :=
  if c.toNat < 256 then .row (c.extractLsb' 0 8)
  else if c.toNat < 264 then .latch (c.extractLsb' 0 3) else .zero
def xselBad (c : BitVec 9) : Bool := decide (c.toNat = 264) || decide (265 < c.toNat)

def gsCode : GSize → BitVec 2
  | .g32 => 0 | .g64 => 1 | .g128 => 2
def gsOf (c : BitVec 2) : GSize := if c = 0 then .g32 else if c = 1 then .g64 else .g128

def szCode : MSize → BitVec 2
  | .b => 0 | .h => 1 | .w => 2 | .d => 3
def szOf (c : BitVec 2) : MSize :=
  if c = 0 then .b else if c = 1 then .h else if c = 2 then .w else .d

def atomCode : AtomOp → BitVec 4
  | .add => 0 | .swap => 1 | .cas => 2 | .and => 3 | .or => 4 | .xor => 5 | .smin => 6 | .smax => 7
  | .umin => 8 | .umax => 9 | .fadd => 10 | .bfadd2 => 11
def atomOf (c : BitVec 4) : AtomOp :=
  match c.toNat with
  | 0 => .add | 1 => .swap | 2 => .cas | 3 => .and | 4 => .or | 5 => .xor | 6 => .smin | 7 => .smax
  | 8 => .umin | 9 => .umax | 10 => .fadd | _ => .bfadd2

def hfCode : HField → BitVec 4
  | .base => 0 | .space => 1 | .fmt => 2 | .lay => 3 | .ex0 => 4 | .ex1 => 5 | .ex2 => 6 | .ex3 => 7
  | .st1 => 8 | .st2 => 9 | .st3 => 10 | .side => 11 | .gs => 12 | .curd => 13 | .off => 14
def hfOf (c : BitVec 4) : HField :=
  match c.toNat with
  | 0 => .base | 1 => .space | 2 => .fmt | 3 => .lay | 4 => .ex0 | 5 => .ex1 | 6 => .ex2 | 7 => .ex3
  | 8 => .st1 | 9 => .st2 | 10 => .st3 | 11 => .side | 12 => .gs | 13 => .curd | _ => .off

def srCode : SysReg → BitVec 8
  | .ctxid => 0 | .heapbase => 1 | .heaplim => 2 | .heapoff => 3 | .heapattr => 4 | .ptroot => 5
  | .tcoord => 6 | .rcbptr => 7 | .rpladdr => 8 | .trapaddr => 9 | .dtime => 10 | .pcyc => 11
  | .wstate => 12 | .status => 13 | .rrbs => 14 | .rrba => 15 | .rrbp => 16
def srOf (c : BitVec 8) : SysReg :=
  match c.toNat with
  | 0 => .ctxid | 1 => .heapbase | 2 => .heaplim | 3 => .heapoff | 4 => .heapattr | 5 => .ptroot
  | 6 => .tcoord | 7 => .rcbptr | 8 => .rpladdr | 9 => .trapaddr | 10 => .dtime | 11 => .pcyc
  | 12 => .wstate | 13 => .status | 14 => .rrbs | 15 => .rrba | _ => .rrbp

def fscCode : FScope → BitVec 3
  | .core => 0 | .cluster => 1 | .die => 2 | .package => 3 | .system => 4
def fscOf (c : BitVec 3) : FScope :=
  match c.toNat with
  | 0 => .core | 1 => .cluster | 2 => .die | 3 => .package | _ => .system

def bscCode : BScope → BitVec 2
  | .gang => 0 | .cluster => 1 | .die => 2 | .package => 3
def bscOf (c : BitVec 2) : BScope :=
  if c = 0 then .gang else if c = 1 then .cluster else if c = 2 then .die else .package

def akCode : AKind → BitVec 2
  | .rd => 0 | .wr => 1 | .at => 2
def akOf (c : BitVec 2) : AKind := if c = 0 then .rd else if c = 1 then .wr else .at

def ivCode : InvKind → BitVec 2
  | .page => 0 | .asid => 1 | .all => 2
def ivOf (c : BitVec 2) : InvKind := if c = 0 then .page else if c = 1 then .asid else .all

/-! ### Scalar slot (07) -/

/-- The NOP check of a slot: every field but the opcode is reserved (R174). -/
def decNopS (r : SRaw) : List (Nat × Bool) :=
  [(0, bz r.imm), (32, bz r.fn), (36, bz r.b), (42, bz r.a), (48, bz r.d), (54, bz r.g)]

/-- A three-register form with arithmetic mode. -/
def decArith (r : SRaw) (f : PReg → AMode → SReg → SReg → SReg → Instr) : Except Reject Instr :=
  guardBy [(0, bz r.imm), (32, decide (r.fn.extractLsb' 0 2 = 3)), (34, bz (r.fn.extractLsb' 2 2))]
    (f r.g (amodeOf (r.fn.extractLsb' 0 2)) r.d r.a r.b)

/-- A three-register form with no function bits. -/
def dec3 (r : SRaw) (f : PReg → SReg → SReg → SReg → Instr) : Except Reject Instr :=
  guardBy [(0, bz r.imm), (32, bz r.fn)] (f r.g r.d r.a r.b)

/-- A logical immediate form (R209). -/
def decLogI (r : SRaw) (f : PReg → Bool → SReg → SReg → BitVec 32 → Instr) : Except Reject Instr :=
  guardBy [(33, bz (r.fn.extractLsb' 1 3)), (36, bz r.b)]
    (f r.g (b1 (r.fn.extractLsb' 0 1)) r.d r.a r.imm)

/-- A shift by an immediate (R210). -/
def decShI (r : SRaw) (f : PReg → SReg → SReg → BitVec 6 → Instr) : Except Reject Instr :=
  guardBy [(6, bz (r.imm.extractLsb' 6 26)), (32, bz r.fn), (36, bz r.b)]
    (f r.g r.d r.a (r.imm.extractLsb' 0 6))

/-- BEXT, BEXTS, BINS (R212). -/
def decField (r : SRaw)
    (f : PReg → SReg → SReg → SReg → Option (BitVec 6) → Option (BitVec 7) → Instr) :
    Except Reject Instr :=
  let vp := b1 (r.fn.extractLsb' 0 1)
  let vl := b1 (r.fn.extractLsb' 1 1)
  let pos := r.imm.extractLsb' 0 6
  let len := r.imm.extractLsb' 8 7
  guardBy [(0, vp && bz pos), (6, bz (r.imm.extractLsb' 6 2)),
      (8, if vl then bz len else decide (64 < len.toNat)), (15, bz (r.imm.extractLsb' 15 17)),
      (34, bz (r.fn.extractLsb' 2 2)), (36, !vp && !vl && bz r.b)]
    (f r.g r.d r.a r.b (if vp then none else some pos) (if vl then none else some len))

/-- Bit counts (R213). -/
def decCount (r : SRaw) (f : PReg → BitW → SReg → SReg → Instr) : Except Reject Instr :=
  guardBy [(0, bz r.imm), (34, bz (r.fn.extractLsb' 2 2)), (36, bz r.b)]
    (f r.g (bitwOf (r.fn.extractLsb' 0 2)) r.d r.a)

def decodeS (r : SRaw) : Except Reject Instr :=
  match r.op.toNat with
  | 0 => guardBy (decNopS r) (.nop .s)
  | 1 => decArith r .add
  | 2 => decArith r .sub
  | 3 => guardBy [(32, decide (r.fn.extractLsb' 0 2 = 3)), (34, bz (r.fn.extractLsb' 2 2)), (36, bz r.b)]
      (.addi r.g (amodeOf (r.fn.extractLsb' 0 2)) r.d r.a r.imm)
  | 4 => decArith r .mul
  | 5 => dec3 r .mulh
  | 6 => dec3 r .mulhn
  | 7 => dec3 r .div
  | 8 => dec3 r .divn
  | 9 => dec3 r .rem
  | 10 => dec3 r .remn
  | 11 => dec3 r .and
  | 12 => dec3 r .or
  | 13 => dec3 r .xor
  | 14 => decLogI r .andi
  | 15 => decLogI r .ori
  | 16 => decLogI r .xori
  | 17 => dec3 r .shl
  | 18 => dec3 r .shr
  | 19 => dec3 r .sar
  | 20 => decShI r .shli
  | 21 => decShI r .shri
  | 22 => decShI r .sari
  | 23 =>
    if b1 (r.fn.extractLsb' 0 1) then
      guardBy [(6, bz (r.imm.extractLsb' 6 26)), (33, bz (r.fn.extractLsb' 1 3)), (36, bz r.b)]
        (.rol r.g r.d r.a (.imm (r.imm.extractLsb' 0 6)))
    else guardBy [(0, bz r.imm), (33, bz (r.fn.extractLsb' 1 3))] (.rol r.g r.d r.a (.reg r.b))
  | 24 =>
    if b1 (r.fn.extractLsb' 0 1) then
      guardBy [(0, bz r.imm), (33, bz (r.fn.extractLsb' 1 3))] (.fshr r.g r.d r.a r.b none)
    else guardBy [(7, bz (r.imm.extractLsb' 7 25)), (33, bz (r.fn.extractLsb' 1 3))]
      (.fshr r.g r.d r.a r.b (some (r.imm.extractLsb' 0 7)))
  | 25 => decField r .bext
  | 26 => decField r .bexts
  | 27 => decField r .bins
  | 28 => decCount r .clz
  | 29 => decCount r .ctz
  | 30 => decCount r .popc
  | 31 => dec3 r .min
  | 32 => dec3 r .max
  | 33 => dec3 r .minn
  | 34 => dec3 r .maxn
  | 35 => guardBy [(0, bz r.imm), (32, decide (11 < r.fn.toNat)), (52, bz (r.d.extractLsb' 4 2))]
      (.cmp r.g (ccOf r.fn) (r.d.extractLsb' 0 4) r.a r.b)
  | 36 => guardBy [(32, decide (11 < r.fn.toNat)), (36, bz r.b), (52, bz (r.d.extractLsb' 4 2))]
      (.cmpi r.g (ccOf r.fn) (r.d.extractLsb' 0 4) r.a r.imm)
  | 37 => guardBy [(0, bz r.imm), (40, bz (r.b.extractLsb' 4 2)), (46, bz (r.a.extractLsb' 4 2)),
        (52, bz (r.d.extractLsb' 4 2))]
      (.plog r.g (r.d.extractLsb' 0 4) (r.a.extractLsb' 0 4) (r.b.extractLsb' 0 4) r.fn)
  | 38 => guardBy [(0, bz r.imm)] (.sel r.g r.fn r.d r.a r.b)
  | 39 => guardBy [(33, bz (r.fn.extractLsb' 1 3)), (36, bz r.b), (42, bz r.a)]
      (.li r.g (b1 (r.fn.extractLsb' 0 1)) r.d r.imm)
  | 40 => guardBy [(32, bz r.fn), (36, bz r.b), (42, bz r.a)] (.lih r.g r.d r.imm)
  | 41 => guardBy [(0, bz r.imm), (33, bz (r.fn.extractLsb' 1 3))]
      (.clmuls r.g (b1 (r.fn.extractLsb' 0 1)) r.d r.a r.b)
  | 42 =>
    let f := r.imm.extractLsb' 8 4
    guardBy [(5, bz (r.imm.extractLsb' 5 3)), (8, decide (f = 15) || !WF.haddOk (hfOf f)),
        (12, bz (r.imm.extractLsb' 12 20)), (32, bz (r.fn.extractLsb' 0 1)),
        (33, bz (r.fn.extractLsb' 1 3)), (36, bz r.b), (48, bz r.d)]
      (.hadd r.g (hfOf f) (r.imm.extractLsb' 0 5) r.a)
  | 43 =>
    let f := r.imm.extractLsb' 8 4
    let wd := b1 (r.fn.extractLsb' 0 1)
    guardBy [(5, bz (r.imm.extractLsb' 5 3)), (8, if wd then decide (3 < f.toNat) else decide (f = 15)),
        (12, bz (r.imm.extractLsb' 12 20)), (33, bz (r.fn.extractLsb' 1 3)), (36, bz r.b),
        (48, bz r.d)]
      (.hset r.g (if wd then .word (f.extractLsb' 0 2) else .field (hfOf f)) (r.imm.extractLsb' 0 5) r.a)
  | 44 =>
    let f := r.imm.extractLsb' 8 4
    let wd := b1 (r.fn.extractLsb' 0 1)
    guardBy [(5, bz (r.imm.extractLsb' 5 3)), (8, if wd then decide (3 < f.toNat) else decide (f = 15)),
        (12, bz (r.imm.extractLsb' 12 20)), (33, bz (r.fn.extractLsb' 1 3)), (36, bz r.b),
        (42, bz r.a)]
      (.hget r.g (if wd then .word (f.extractLsb' 0 2) else .field (hfOf f)) r.d (r.imm.extractLsb' 0 5))
  | 45 => guardBy [(0, decide (16 < (r.imm.extractLsb' 0 8).toNat)), (8, bz (r.imm.extractLsb' 8 24)),
        (32, bz r.fn), (36, bz r.b), (42, bz r.a)]
      (.rdsr r.g r.d (srOf (r.imm.extractLsb' 0 8)))
  | 46 => guardBy [(0, decide (16 < (r.imm.extractLsb' 0 8).toNat)), (8, bz (r.imm.extractLsb' 8 24)),
        (32, bz r.fn), (36, bz r.b), (48, bz r.d)]
      (.wrsr r.g (srOf (r.imm.extractLsb' 0 8)) r.a)
  | 47 => decCount r .brev
  | n => .error (.opcode n)

/-! ### Vector slots (08) -/

def latchOf (c : BitVec 3) : Option (BitVec 2) :=
  if c = 0 then none else some ((c - 1).extractLsb' 0 2)
def latchCode : Option (BitVec 2) → BitVec 3
  | none => 0
  | some n => n.zeroExtend 3 + 1

def vctlOf (u : VUnit) (r : VRaw) (k : KReg) (imm : SReg) : VCtl :=
  ⟨u, k, r.d, b1 r.nowb, latchOf r.latch, r.b1, imm⟩

/-- Reserved latch codes 5–7 (R458). -/
def latchBad (r : VRaw) : Nat × Bool := (40, decide (4 < r.latch.toNat))

/-- imm is reserved in the entries that take no scalar operand: with selector 264 they read s0. -/
def immZero (r : VRaw) : Nat × Bool := (0, bz r.imm)

/-- imm is reserved unless a used selector is 264. -/
def immBad (r : VRaw) (sels : List (BitVec 9)) : Nat × Bool :=
  (0, bz r.imm && !(sels.contains 264))

def modeBad (r : VRaw) : List (Nat × Bool) :=
  if (tyOf r.ty).float then [(8, bz (r.fn.extractLsb' 2 1))] else [(6, bz (r.fn.extractLsb' 0 2))]
def modeOf (r : VRaw) : VMode :=
  ⟨rmOf (r.fn.extractLsb' 0 2), b1 (r.fn.extractLsb' 2 1)⟩

def intOnly (r : VRaw) : Nat × Bool := (52, (tyOf r.ty).float)
def floatOnly (r : VRaw) : Nat × Bool := (52, !(tyOf r.ty).float)

/-- Two-source arithmetic with a mode. -/
def decV2 (u : VUnit) (r : VRaw) (f : VCtl → VType → VMode → VSel → VSel → Instr) :
    Except Reject Instr :=
  guardBy ([immBad r [r.sa, r.sb]] ++ modeBad r ++
      [(13, bz r.sc), (22, vselBad r.sb), (31, vselBad r.sa), latchBad r])
    (f (vctlOf u r r.k r.imm) (tyOf r.ty) (modeOf r) (vselOf r.sa) (vselOf r.sb))

/-- Two-source bitwise forms and shifts. -/
def decVB (u : VUnit) (r : VRaw) (ints : Bool) (f : VCtl → VType → VSel → VSel → Instr) :
    Except Reject Instr :=
  guardBy [immZero r, (6, bz r.fn), (13, bz r.sc), (22, vselBad r.sb), (31, vselBad r.sa),
      latchBad r, (52, ints && (tyOf r.ty).float)]
    (f (vctlOf u r r.k r.imm) (tyOf r.ty) (vselOf r.sa) (vselOf r.sb))

/-- One-source forms with no function bits. -/
def decV1 (u : VUnit) (r : VRaw) (bad : List (Nat × Bool)) (f : VCtl → VType → VSel → Instr) :
    Except Reject Instr :=
  guardBy ([immZero r, (6, bz r.fn), (13, bz r.sc), (22, bz r.sb), (31, vselBad r.sa),
      latchBad r] ++ bad)
    (f (vctlOf u r r.k r.imm) (tyOf r.ty) (vselOf r.sa))

/-- Three-source forms. -/
def decV3 (r : VRaw) (bad : List (Nat × Bool)) (i : Instr) : Except Reject Instr :=
  guardBy ([immBad r [r.sa, r.sb, r.sc]] ++ bad ++
      [(13, vselBad r.sc), (22, vselBad r.sb), (31, vselBad r.sa), latchBad r]) i

/-- Fields of a mask result that must be zero: beats, latch, nowb, d[7:3] (R228). -/
def maskBad (r : VRaw) : List (Nat × Bool) :=
  [(40, bz r.latch), (43, bz r.nowb), (47, bz (r.d.extractLsb' 3 5))]

def quantBad (r : VRaw) : List (Nat × Bool) :=
  let (f, bad) := fmtSel (r.imm.extractLsb' 0 5) (fun f => fmtMx f || fmtPx f)
  [(0, bad), (5, bz (r.imm.extractLsb' 5 1)),
    (6, decide (r.fn.extractLsb' 0 2 = 3) || (fmtPx f && bz (r.fn.extractLsb' 0 2))),
    (8, bz (r.fn.extractLsb' 2 1)), (13, bz r.sc), (22, bz r.sb), (31, vselBad r.sa), latchBad r,
    floatOnly r]

def decodeV (u : VUnit) (r : VRaw) : Except Reject Instr :=
  let ty := tyOf r.ty
  let c := vctlOf u r r.k r.imm
  let c0 := vctlOf u r r.k 0
  let a := vselOf r.sa
  match r.op.toNat with
  | 0 => guardBy [(0, bz r.imm), (6, bz r.fn), (9, bz r.b1), (13, bz r.sc), (22, bz r.sb), (31, bz r.sa),
        (40, bz r.latch), (43, bz r.nowb), (44, bz r.d), (52, bz r.ty), (55, bz r.k)]
      (.nop (match u with | .v0 => .v0 | .v1 => .v1))
  | 1 => decV2 u r .vadd
  | 2 => decV2 u r .vsub
  | 3 => decV2 u r .vmul
  | 4 => decV3 r (modeBad r) (.vfma c ty (modeOf r) a (vselOf r.sb) (vselOf r.sc))
  | 5 => decV2 u r .vmin
  | 6 => decV2 u r .vmax
  | 7 => guardBy ([immBad r [r.sa]] ++ modeBad r ++
        [(13, bz r.sc), (22, bz r.sb), (31, vselBad r.sa), latchBad r])
      (.vabs c ty (modeOf r) a)
  | 8 => decVB u r false .vand
  | 9 => decVB u r false .vor
  | 10 => decVB u r false .vxor
  | 11 => decVB u r true .vshl
  | 12 => decVB u r true .vshr
  | 13 => decVB u r true .vsar
  | 14 => guardBy ([immZero r, (6, decide (5 < r.fn.toNat)), (9, bz r.b1), (13, bz r.sc),
        (22, vselBad r.sb), (31, vselBad r.sa)] ++ maskBad r)
      (.vcmp ⟨u, r.k, r.d.extractLsb' 0 3, r.imm⟩ ty (vcOf r.fn) a (vselOf r.sb))
  | 15 => guardBy [immZero r, (6, bz r.fn), (16, bz (r.sc.extractLsb' 3 6)),
        (22, vselBad r.sb), (31, vselBad r.sa), latchBad r]
      (.vsel c ty (r.sc.extractLsb' 0 3) a (vselOf r.sb))
  | 16 => decV3 r [(7, bz (r.fn.extractLsb' 1 2)), intOnly r]
      (.vbext c ty (b1 (r.fn.extractLsb' 0 1)) a (vselOf r.sb) (vselOf r.sc))
  | 17 => decV3 r [(6, bz r.fn), intOnly r] (.vfshr c ty a (vselOf r.sb) (vselOf r.sc))
  | 18 => guardBy [immBad r [r.sa, r.sb], (7, bz (r.fn.extractLsb' 1 2)), (13, bz r.sc),
        (22, vselBad r.sb), (31, vselBad r.sa), latchBad r, intOnly r]
      (.vclmul c ty (b1 (r.fn.extractLsb' 0 1)) a (vselOf r.sb))
  | 19 => decV1 u r [intOnly r] .vpopc
  | 20 => decV1 u r [intOnly r] .vclz
  | 21 =>
    if b1 (r.fn.extractLsb' 0 1) then
      guardBy [(7, bz (r.fn.extractLsb' 1 2)), (13, bz r.sc), (22, bz r.sb), (31, vselBad r.sa), latchBad r]
        (.vbcast c0 ty a (.reg r.imm))
    else
      guardBy [immBad r [r.sa], (7, bz (r.fn.extractLsb' 1 2)), (13, bz r.sc), (31, vselBad r.sa),
          latchBad r]
        (.vbcast c ty a (.imm r.sb))
  | 22 =>
    if b1 (r.fn.extractLsb' 0 1) then
      guardBy [(0, bz r.imm), (7, bz (r.fn.extractLsb' 1 2)), (13, bz r.sc), (22, bz r.sb),
          (34, bz (r.sa.extractLsb' 3 6)), latchBad r, intOnly r]
        (.viota c0 ty (.mask (r.sa.extractLsb' 0 3)))
    else
      guardBy [(7, bz (r.fn.extractLsb' 1 2)), (13, bz r.sc), (22, bz r.sb), (31, bz r.sa), latchBad r,
          intOnly r]
        (.viota c0 ty (.count r.imm))
  | 23 => guardBy [immZero r, (6, bz (r.fn.extractLsb' 0 2)), (8, ty.float && bz (r.fn.extractLsb' 2 1)),
        (13, bz r.sc), (22, bz r.sb), (31, vselBad r.sa), latchBad r]
      (.vrsum c ty (b1 (r.fn.extractLsb' 2 1)) a)
  | 24 => decV1 u r [] .vrmax
  | 25 => decV1 u r [] .vrmin
  | 26 =>
    let o := r.fn.extractLsb' 0 2
    guardBy [immZero r, (6, decide (o = 3) && ty.float),
        (8, bz (r.fn.extractLsb' 2 1) && (ty.float || bz o)),
        (13, bz r.sc), (22, bz r.sb), (31, vselBad r.sa), latchBad r]
      (.vscan c ty (if o = 0 then .add else if o = 1 then .max else if o = 2 then .min else .xor)
        (b1 (r.fn.extractLsb' 2 1)) a)
  | 27 => decV3 r [immZero r, (6, bz r.fn)] (.vshuf c ty a (vselOf r.sb) (vselOf r.sc))
  | 28 => guardBy [(8, bz (r.fn.extractLsb' 2 1)), (13, bz r.sc), (22, vselBad r.sb), (31, vselBad r.sa),
        latchBad r]
      (.vslide c0 ty (b1 (r.fn.extractLsb' 1 1)) a (vselOf r.sb)
        (if b1 (r.fn.extractLsb' 0 1) then .reg r.imm else .imm r.imm))
  | 29 => guardBy [(0, decide (r.imm = 0) || decide (16 < r.imm.toNat)), (6, bz r.fn), (13, bz r.sc),
        (22, bz r.sb), (31, vselBad r.sa), latchBad r, (52, decide (ty = .i8) || decide (ty = .n8))]
      (.vtopk c0 ty (r.imm.extractLsb' 0 5) a)
  | 30 => guardBy [(8, ty.float && bz (r.fn.extractLsb' 2 1)), (13, bz r.sc), (22, bz r.sb),
        (31, vselBad r.sa), latchBad r]
      (.vcvt c0 ty (tyOf (r.imm.extractLsb' 0 3)) (modeOf r) (r.imm.extractLsb' 3 3) a)
  | 31 => guardBy [immZero r, (8, bz (r.fn.extractLsb' 2 1)), (13, bz r.sc), (22, bz r.sb),
        (31, vselBad r.sa), latchBad r, floatOnly r]
      (.vsfu c ty (let f := r.fn.extractLsb' 0 2
        if f = 0 then .exp2 else if f = 1 then .log2 else if f = 2 then .rcp else .rsqrt) a)
  | 32 => decV1 u r [] .vmov
  | 33 => guardBy ([immZero r, (6, decide (2 < r.fn.toNat)), (9, bz r.b1), (13, bz r.sc),
        (22, bz r.sb), (31, vselBad r.sa)] ++ maskBad r ++ [(55, decide (r.fn = 2) && bz r.k)])
      (.vmask ⟨u, r.k, r.d.extractLsb' 0 3, r.imm⟩ ty
        (if r.fn = 0 then .nz else if r.fn = 1 then .neg else .raw) a)
  | 34 => guardBy ([immBad r [r.sa, r.sb]] ++ modeBad r ++
        [(13, bz r.sc), (22, vselBad r.sb), (31, vselBad r.sa), latchBad r, intOnly r])
      (.vmulh c ty (modeOf r) a (vselOf r.sb))
  | 35 => guardBy (quantBad r ++ [(55, bz r.k)])
      (.vqnt c0 ty (fmtSel (r.imm.extractLsb' 0 5) (fun _ => true)).1 (gsOf (r.fn.extractLsb' 0 2)) a)
  | 36 => guardBy (quantBad r)
      (.vdqnt c0 ty (fmtSel (r.imm.extractLsb' 0 5) (fun _ => true)).1 (gsOf (r.fn.extractLsb' 0 2)) a)
  | 37 =>
    let dk := r.d.extractLsb' 0 3
    let ka := r.sa.extractLsb' 0 3
    let kb := r.sb.extractLsb' 0 3
    let tail := maskBad r ++ [(55, bz r.k)]
    let two := guardBy ([(0, bz r.imm), (9, bz r.b1), (13, bz r.sc), (25, bz (r.sb.extractLsb' 3 6)),
      (34, bz (r.sa.extractLsb' 3 6))] ++ maskBad r ++ [(52, bz r.ty), (55, bz r.k)])
    match r.fn.toNat with
    | 0 => guardBy ([(9, bz r.b1), (13, bz r.sc), (22, bz r.sb), (31, bz r.sa)] ++ tail)
        (.vsetk u dk (.pre ty r.imm))
    | 1 => two (.vsetk u dk (.and ka kb))
    | 2 => two (.vsetk u dk (.or ka kb))
    | 3 => two (.vsetk u dk (.xor ka kb))
    | 4 => two (.vsetk u dk (.andn ka kb))
    | 5 => guardBy ([(0, bz r.imm), (9, bz r.b1), (13, bz r.sc), (22, bz r.sb),
          (34, bz (r.sa.extractLsb' 3 6))] ++ maskBad r ++ [(52, bz r.ty), (55, bz r.k)])
        (.vsetk u dk (.not ka))
    | _ => .error (.reserved 6)
  | 38 =>
    let v := b1 (r.fn.extractLsb' 0 1)
    guardBy [immZero r, (7, bz (r.fn.extractLsb' 1 2)), (9, bz r.b1),
        (13, !v && bz r.sc), (19, v && bz (r.sc.extractLsb' 6 3)), (22, v && bz r.sb), (31, vselBad r.sa),
        (40, bz r.latch), (43, bz r.nowb), (50, bz (r.d.extractLsb' 6 2)), (55, bz r.k)]
      (.vextr u ty (r.d.extractLsb' 0 6) a (if v then .reg (r.sc.extractLsb' 0 6) else .imm r.sb) r.imm)
  | 39 =>
    let v := b1 (r.fn.extractLsb' 0 1)
    guardBy [(7, bz (r.fn.extractLsb' 1 2)), (9, bz r.b1), (13, !v && bz r.sc),
        (19, v && bz (r.sc.extractLsb' 6 3)), (22, v && bz r.sb), (31, bz r.sa), (40, bz r.latch),
        (55, bz r.k)]
      (.vins u ty r.d (b1 r.nowb) r.imm (if v then .reg (r.sc.extractLsb' 0 6) else .imm r.sb))
  | n => .error (.opcode n)

/-! ### Transform slot (08) -/

def xctlOf (r : XRaw) : XCtl := ⟨r.g, r.d, xselOf r.src, r.b1⟩
def srcBad (r : XRaw) : Nat × Bool := (23, xselBad r.src)

def decodeX (r : XRaw) : Except Reject Instr :=
  let c := xctlOf r
  match r.op.toNat with
  | 0 => guardBy [(0, bz r.aux), (8, bz r.h), (13, bz r.fn), (19, bz r.b1), (23, bz r.src), (32, bz r.d),
        (40, bz r.g)] (.nop .x)
  | 1 => guardBy [(3, bz (r.aux.extractLsb' 3 5)), (8, bz r.h), (16, bz (r.fn.extractLsb' 3 3)), srcBad r]
      (.xexp c (b1 (r.fn.extractLsb' 0 1)) (lanewOf (r.fn.extractLsb' 1 2)) (r.aux.extractLsb' 0 3))
  | 2 =>
    let (f, bad) := fmtSel (r.fn.extractLsb' 0 5) fmtPlane
    guardBy [(0, bz r.aux), (8, bz r.h), (13, bad), (18, bz (r.fn.extractLsb' 5 1)), srcBad r] (.xpln c f)
  | 3 =>
    let (f, bad) := fmtSel (r.fn.extractLsb' 0 5) fmtPlane
    guardBy [(0, bz r.aux), (8, bz r.h), (13, bad), (18, bz (r.fn.extractLsb' 5 1)), srcBad r] (.xtrn c f)
  | 4 =>
    let (sf, bs) := fmtSel (r.fn.extractLsb' 0 5) fmtXcvt
    let (df, bd) := fmtSel (r.aux.extractLsb' 0 5) fmtXcvt
    guardBy [(0, bd), (5, decide (r.aux.extractLsb' 5 2 = 3)), (8, bz r.h), (13, bs),
        (18, bz (r.fn.extractLsb' 5 1)), srcBad r]
      (.xcvt c sf df (gsOf (r.aux.extractLsb' 5 2)) (b1 (r.aux.extractLsb' 7 1)))
  | 5 => guardBy [(0, bz r.aux), (14, bz (r.fn.extractLsb' 1 5)), srcBad r]
      (.xscl c (b1 (r.fn.extractLsb' 0 1)) r.h)
  | 6 => guardBy [(0, bz r.aux), (8, bz r.h), (16, b1 (r.fn.extractLsb' 3 1)), (17, bz (r.fn.extractLsb' 4 2)), srcBad r]
      (.xpack c (r.fn.extractLsb' 0 3))
  | 7 => guardBy [(0, bz r.aux), (8, bz r.h), (17, bz (r.fn.extractLsb' 4 2)), srcBad r]
      (.xunpk c (b1 (r.fn.extractLsb' 3 1)) (r.fn.extractLsb' 0 3))
  | 8 => guardBy [(6, bz (r.aux.extractLsb' 6 2)), (8, bz r.h), (16, bz (r.fn.extractLsb' 3 3)), srcBad r]
      (.xbits c (lanewOf (r.fn.extractLsb' 0 2)) (b1 (r.fn.extractLsb' 2 1)) (r.aux.extractLsb' 0 6))
  | 9 => guardBy [(0, bz r.aux), (8, bz r.h), (15, bz (r.fn.extractLsb' 2 4)), srcBad r]
      (.xzip c (lanewOf (r.fn.extractLsb' 0 2)))
  | 10 => guardBy [(0, bz r.aux), (8, bz r.h), (15, bz (r.fn.extractLsb' 2 4)), srcBad r]
      (.xunzip c (lanewOf (r.fn.extractLsb' 0 2)))
  | 11 =>
    let p := r.fn.extractLsb' 2 2
    guardBy [(0, bz r.aux), (8, bz r.h), (15, decide (p = 3)), (17, bz (r.fn.extractLsb' 4 2)), srcBad r]
      (.xswz c (if p = 0 then .rev else if p = 1 then .bswap else .bitrev)
        (lanewOf (r.fn.extractLsb' 0 2)))
  | n => .error (.opcode n)

/-! ### Load slot (07, 09) -/

/-- AXADD and AXSUB (R223). -/
def decAx (r : LRaw) (f : PReg → SReg → SReg → RegImm 32 → Instr) : Except Reject Instr :=
  let reg := b1 (r.fn.extractLsb' 5 1)
  guardBy [(6, reg && bz (r.disp.extractLsb' 6 26)), (32, bz (r.fn.extractLsb' 0 2)),
      (34, bz (r.fn.extractLsb' 2 3)), (50, bz (r.d.extractLsb' 6 2)), (52, bz r.cl)]
    (f r.g (r.d.extractLsb' 0 6) r.a (if reg then .reg (r.disp.extractLsb' 0 6) else .imm r.disp))

def decodeL (r : LRaw) : Except Reject Instr :=
  let d6 := r.d.extractLsb' 0 6
  let dBad : Nat × Bool := (50, bz (r.d.extractLsb' 6 2))
  let sz := szOf (r.fn.extractLsb' 0 2)
  let sx := b1 (r.fn.extractLsb' 2 1)
  match r.op.toNat with
  | 0 => guardBy [(0, bz r.disp), (32, bz r.fn), (38, bz r.a), (44, bz r.d), (52, bz r.cl), (56, bz r.g)]
      (.nop .l)
  | 1 => guardBy [(35, b1 (r.fn.extractLsb' 4 1)), (37, bz (r.fn.extractLsb' 5 1)), dBad]
      (.lds r.g r.cl d6 r.a sz sx (b1 (r.fn.extractLsb' 3 1)) r.disp)
  | 2 => guardBy [(24, decide (r.disp.extractLsb' 24 8 = 0)), (36, bz (r.fn.extractLsb' 4 2)), dBad]
      (.ldm r.g r.cl d6 r.a sz sx (b1 (r.fn.extractLsb' 3 1)) (r.disp.extractLsb' 0 24)
        (r.disp.extractLsb' 24 8))
  | 3 =>
    if b1 (r.fn.extractLsb' 5 1) then
      guardBy [(0, bz r.disp), (32, bz (r.fn.extractLsb' 0 5)), (38, bz r.a), (44, bz r.d), (52, bz r.cl),
          (56, bz r.g)] (.ldwRpl r.g)
    else guardBy [(36, bz (r.fn.extractLsb' 4 1)), dBad]
      (.ldw r.g r.cl d6 r.a sz sx (b1 (r.fn.extractLsb' 3 1)) r.disp)
  | 4 => guardBy [] (.vld r.g r.cl r.d r.a (r.fn.extractLsb' 0 4) (lanewOf (r.fn.extractLsb' 4 2))
        (r.disp.extractLsb' 29 3) (r.disp.extractLsb' 0 29))
  | 5 => guardBy [(32, decide (r.fn.extractLsb' 0 2 = 3)), (34, bz (r.fn.extractLsb' 2 1)),
        (37, bz (r.fn.extractLsb' 5 1))]
      (.vldg r.g r.cl r.d r.a (lanewOf (r.fn.extractLsb' 0 2)) (r.fn.extractLsb' 3 2)
        (r.disp.extractLsb' 0 8) (r.disp.extractLsb' 8 3) (r.disp.extractLsb' 11 21))
  | 6 =>
    let sw := r.fn.extractLsb' 0 2
    let dw := r.fn.extractLsb' 2 2
    guardBy [(32, decide (1 < sw.toNat)), (34, decide (dw = 3)), (37, bz (r.fn.extractLsb' 5 1))]
      (.vldp r.g r.cl r.d r.a (if sw = 0 then .w8 else .w16)
        (if dw = 0 then .w16 else if dw = 1 then .w32 else .w64) (b1 (r.fn.extractLsb' 4 1))
        (r.disp.extractLsb' 29 3) (r.disp.extractLsb' 0 29))
  | 7 => guardBy [(33, bz (r.fn.extractLsb' 1 5)), (49, bz (r.d.extractLsb' 5 3))]
      (.ldh r.g r.cl (r.d.extractLsb' 0 5) r.a (b1 (r.fn.extractLsb' 0 1)) r.disp)
  | 8 => decAx r .axadd
  | 9 => decAx r .axsub
  | 10 =>
    let reg := b1 (r.fn.extractLsb' 5 1)
    let o := r.fn.extractLsb' 0 2
    guardBy [(6, reg && bz (r.disp.extractLsb' 6 26)), (34, bz (r.fn.extractLsb' 2 3)), dBad, (52, bz r.cl)]
      (.axlog r.g (if o = 0 then .and else if o = 1 then .or else if o = 2 then .xor else .andn) d6 r.a
        (if reg then .reg (r.disp.extractLsb' 0 6) else .imm r.disp))
  | 11 =>
    let o := r.fn.extractLsb' 0 2
    guardBy [(6, bz (r.disp.extractLsb' 6 26)), (32, decide (o = 3)), (34, bz (r.fn.extractLsb' 2 3)), dBad,
        (52, bz r.cl)]
      (.axsh r.g (if o = 0 then .shl else if o = 1 then .shr else .sar) d6 r.a
        (if b1 (r.fn.extractLsb' 5 1) then .reg (r.disp.extractLsb' 0 6)
          else .imm (r.disp.extractLsb' 0 6)))
  | 12 => guardBy [(33, bz (r.fn.extractLsb' 1 5)), (48, bz (r.d.extractLsb' 4 4))]
      (.ldpcw r.g r.cl (r.d.extractLsb' 0 4) r.a (b1 (r.fn.extractLsb' 0 1)) r.disp)
  | 13 =>
    let e := b1 (r.fn.extractLsb' 0 1)
    guardBy [(0, !e && bz (r.disp.extractLsb' 0 4)), (4, bz (r.disp.extractLsb' 4 28)),
        (33, bz (r.fn.extractLsb' 1 5)), (38, bz r.a), dBad, (52, bz r.cl)]
      (.ldq r.g d6 (if e then some (r.disp.extractLsb' 0 4) else none))
  | n => .error (.opcode n)

/-! ### Store slot (07, 09) -/

def decodeW (r : WRaw) : Except Reject Instr :=
  let s6 := r.src.extractLsb' 0 6
  let sBad : Nat × Bool := (42, bz (r.src.extractLsb' 6 2))
  let sz := szOf (r.fn.extractLsb' 0 2)
  let dd := r.disp.extractLsb' 18 6
  let lat := r.disp.extractLsb' 10 8
  let atBad : List (Nat × Bool) := [(10, decide (lat = 0) && bz dd), (24, bz (r.fn.extractLsb' 1 1)),
    (26, decide (11 < (r.fn.extractLsb' 2 4).toNat))]
  let op := atomOf (r.fn.extractLsb' 2 4)
  let e8 := b1 (r.fn.extractLsb' 0 1)
  match r.op.toNat with
  | 0 => guardBy [(0, bz r.disp), (24, bz r.fn), (30, bz r.a), (36, bz r.src), (44, bz r.cl), (48, bz r.g)]
      (.nop .w)
  | 1 =>
    let sp := r.fn.extractLsb' 3 2
    guardBy [(26, bz (r.fn.extractLsb' 2 1)), (27, decide (sp = 3)), (29, bz (r.fn.extractLsb' 5 1)), sBad]
      (.sts r.g r.cl s6 r.a sz (if sp = 0 then .loc else if sp = 1 then .side else .cluster) r.disp)
  | 2 => guardBy [(26, bz (r.fn.extractLsb' 2 1)), (28, bz (r.fn.extractLsb' 4 2)), sBad]
      (.stm r.g r.cl s6 r.a sz (b1 (r.fn.extractLsb' 3 1)) r.disp)
  | 3 => guardBy [] (.vst r.g r.cl r.src r.a (r.fn.extractLsb' 0 4) (lanewOf (r.fn.extractLsb' 4 2))
        (r.disp.extractLsb' 21 3) (r.disp.extractLsb' 0 21))
  | 4 => guardBy [(24, decide (r.fn.extractLsb' 0 2 = 3)), (28, bz (r.fn.extractLsb' 4 2))]
      (.vsts r.g r.cl r.src r.a (lanewOf (r.fn.extractLsb' 0 2)) (r.fn.extractLsb' 2 2)
        (r.disp.extractLsb' 16 8) (r.disp.extractLsb' 13 3) (r.disp.extractLsb' 0 13))
  | 5 => guardBy [(25, bz (r.fn.extractLsb' 1 5)), (41, bz (r.src.extractLsb' 5 3))]
      (.sth r.g r.cl (r.src.extractLsb' 0 5) r.a (b1 (r.fn.extractLsb' 0 1)) r.disp)
  | 6 => guardBy (atBad ++ [(43, bz (r.src.extractLsb' 7 1))])
      (.ats r.g r.cl op e8 s6 (b1 (r.src.extractLsb' 6 1)) r.a dd lat (r.disp.extractLsb' 0 10))
  | 7 => guardBy (atBad ++ [sBad]) (.atm r.g r.cl op e8 s6 r.a dd lat (r.disp.extractLsb' 0 10))
  | 8 => guardBy [(26, bz (r.fn.extractLsb' 2 4)), sBad] (.mst r.g r.cl s6 r.a sz r.disp)
  | 9 =>
    let reg := b1 (r.fn.extractLsb' 5 1)
    guardBy [(6, reg && bz (r.disp.extractLsb' 6 18)), (25, bz (r.fn.extractLsb' 1 4)), sBad, (44, bz r.cl)]
      (.wxadd r.g (b1 (r.fn.extractLsb' 0 1)) s6 r.a
        (if reg then .reg (r.disp.extractLsb' 0 6) else .imm r.disp))
  | n => .error (.opcode n)

/-! ### Copy slot (09) -/

def decCopy (r : CRaw)
    (f : PReg → Cls → Tok → HReg → HReg → RMode → Bool → Bool → Bool → Instr) : Except Reject Instr :=
  guardBy [(15, bz (r.pay.extractLsb' 15 17))]
    (f r.g r.cl r.tok (r.pay.extractLsb' 0 5) (r.pay.extractLsb' 5 5) (rmOf (r.pay.extractLsb' 10 2))
      (b1 (r.pay.extractLsb' 12 1)) (b1 (r.pay.extractLsb' 13 1)) (b1 (r.pay.extractLsb' 14 1)))

def decFifo (r : CRaw) (f : PReg → Cls → Tok → Fmt → HReg → GSize → Bool → Instr) :
    Except Reject Instr :=
  let (fm, bad) := fmtSel (r.pay.extractLsb' 0 5) fmtMatrix
  guardBy [(0, bad), (10, decide (r.pay.extractLsb' 10 2 = 3)), (12, bz (r.pay.extractLsb' 12 1)),
      (14, bz (r.pay.extractLsb' 14 18))]
    (f r.g r.cl r.tok fm (r.pay.extractLsb' 5 5) (gsOf (r.pay.extractLsb' 10 2))
      (b1 (r.pay.extractLsb' 13 1)))

def decodeC (r : CRaw) : Except Reject Instr :=
  let p5 := r.pay.extractLsb' 0 5
  let q5 := r.pay.extractLsb' 5 5
  match r.op.toNat with
  | 0 => guardBy [(0, bz r.pay), (32, bz r.tok), (36, bz r.cl), (40, bz r.g)] (.nop .c)
  | 1 => decCopy r .cpy
  | 2 => decFifo r .cpya
  | 3 => decFifo r .cpyb
  | 4 => decCopy r .cpyp
  | 5 => guardBy [(23, bz (r.pay.extractLsb' 23 9))]
      (.cred r.g r.cl r.tok p5 q5 (r.pay.extractLsb' 10 6) (r.pay.extractLsb' 16 6)
        (b1 (r.pay.extractLsb' 22 1)))
  | 6 => guardBy [(20, decide (r.pay.extractLsb' 20 2 = 3)), (22, bz (r.pay.extractLsb' 22 10))]
      (.cres r.g r.cl r.tok p5 q5 (r.pay.extractLsb' 10 5) (r.pay.extractLsb' 15 5)
        (gsOf (r.pay.extractLsb' 20 2)))
  | 7 => guardBy [(10, bz (r.pay.extractLsb' 10 3)), (14, bz (r.pay.extractLsb' 14 18))]
      (.cwld r.g r.cl r.tok p5 q5 (b1 (r.pay.extractLsb' 13 1)))
  | 8 => guardBy [(15, bz (r.pay.extractLsb' 15 17))]
      (.cmig r.g r.cl r.tok (r.pay.extractLsb' 0 6) (r.pay.extractLsb' 6 6)
        (b1 (r.pay.extractLsb' 12 1)) (r.pay.extractLsb' 13 2))
  | 9 => guardBy [(12, bz (r.pay.extractLsb' 12 1)), (15, bz (r.pay.extractLsb' 15 17))]
      (.crly r.g r.cl r.tok (r.pay.extractLsb' 0 6) (r.pay.extractLsb' 6 6) (r.pay.extractLsb' 13 2))
  | 10 => guardBy [(11, bz (r.pay.extractLsb' 11 2)), (14, bz (r.pay.extractLsb' 14 18))]
      (.cfil r.g r.cl r.tok p5 (r.pay.extractLsb' 5 6) (b1 (r.pay.extractLsb' 13 1)))
  | 11 => guardBy [(19, bz (r.pay.extractLsb' 19 13)), (32, bz r.tok), (36, bz r.cl)]
      (.cnest r.g (b1 (r.pay.extractLsb' 0 1)) (r.pay.extractLsb' 1 6) (r.pay.extractLsb' 7 6)
        (r.pay.extractLsb' 13 6))
  | 12 => decCopy r .chst
  | 13 => guardBy [(11, bz (r.pay.extractLsb' 11 21))]
      (.cmcs r.g r.cl r.tok p5 (r.pay.extractLsb' 5 6))
  | n => .error (.opcode n)

/-! ### Matrix slot (09) -/

def decodeM (r : MRaw) : Except Reject Instr :=
  let p := r.pay
  match r.op.toNat with
  | 0 => guardBy [(0, bz p), (40, bz r.g)] (.nop .m)
  | 1 => guardBy [(0, bz (p.extractLsb' 0 30)), (36, decide (8 < (p.extractLsb' 36 4).toNat))]
      (.mcfg r.g (p.extractLsb' 36 4) (p.extractLsb' 30 6))
  | 2 => guardBy [(0, bz (p.extractLsb' 0 30))] (.mpcw r.g (p.extractLsb' 36 4) (p.extractLsb' 30 6))
  | 3 => guardBy [(0, bz p)] (.mgo r.g)
  | 4 => guardBy [(0, bz (p.extractLsb' 0 5))]
      (.mhad r.g (p.extractLsb' 32 8) (p.extractLsb' 25 7) (b1 (p.extractLsb' 24 1))
        (p.extractLsb' 19 5) (p.extractLsb' 15 4) (rmOf (p.extractLsb' 13 2)) (p.extractLsb' 5 8))
  | 5 => guardBy [(0, bz (p.extractLsb' 0 18))]
      (.mwld r.g (p.extractLsb' 36 4) (p.extractLsb' 29 7) (p.extractLsb' 22 7) (p.extractLsb' 18 4))
  | 6 => guardBy [(0, bz (p.extractLsb' 0 5))]
      (.mdrn r.g (p.extractLsb' 32 8) (p.extractLsb' 25 7) (p.extractLsb' 20 5) (p.extractLsb' 16 4)
        (rmOf (p.extractLsb' 14 2)) (p.extractLsb' 6 8) (b1 (p.extractLsb' 5 1)))
  | 7 => guardBy [(0, bz (p.extractLsb' 0 20))]
      (.mzero r.g (p.extractLsb' 32 8) (p.extractLsb' 24 8) (p.extractLsb' 20 4))
  | 8 => guardBy [(0, bz (p.extractLsb' 0 34))] (.mstat r.g (p.extractLsb' 34 6))
  | 9 => guardBy [(0, bz (p.extractLsb' 0 18)), (22, bz (p.extractLsb' 22 18))]
      (.mswap r.g (p.extractLsb' 18 4))
  | n => .error (.opcode n)

/-! ### Sync slot (10) -/

def decLoopCount (p : BitVec 31) : LoopCount :=
  if b1 (p.extractLsb' 16 1) then .imm (p.extractLsb' 0 16) else .reg (p.extractLsb' 0 6)

def decodeY (r : YRaw) : Except Reject Instr :=
  let p := r.pay
  let none31 := fun (i : Instr) => guardBy [(0, bz p)] i
  let one6 := fun (f : SReg → Instr) => guardBy [(6, bz (p.extractLsb' 6 25))] (f (p.extractLsb' 0 6))
  let mask16 := fun (f : BitVec 16 → Instr) => guardBy [(16, bz (p.extractLsb' 16 15))]
    (f (p.extractLsb' 0 16))
  let rform := b1 (p.extractLsb' 30 1)
  let loopBad : Nat × Bool := (6, !b1 (p.extractLsb' 16 1) && bz (p.extractLsb' 6 10))
  match r.op.toNat with
  | 0 => guardBy [(0, bz p), (31, bz r.g)] (.nop .y)
  | 1 =>
    if rform then guardBy [(0, bz (p.extractLsb' 0 24))] (.br r.g (.reg (p.extractLsb' 24 6)))
    else guardBy [(24, bz (p.extractLsb' 24 6))] (.br r.g (.disp (p.extractLsb' 0 24)))
  | 2 => guardBy [(24, bz (p.extractLsb' 24 2))]
      (.brc r.g (p.extractLsb' 27 4) (b1 (p.extractLsb' 26 1)) (p.extractLsb' 0 24))
  | 3 =>
    if rform then guardBy [(6, bz (p.extractLsb' 6 18))]
      (.call r.g (p.extractLsb' 24 6) (.reg (p.extractLsb' 0 6)))
    else .ok (.call r.g (p.extractLsb' 24 6) (.disp (p.extractLsb' 0 24)))
  | 4 => one6 (.ret r.g)
  | 5 => guardBy [loopBad, (17, bz (p.extractLsb' 17 3))]
      (.loop r.g (p.extractLsb' 29 2) (b1 (p.extractLsb' 28 1)) (p.extractLsb' 20 8) (decLoopCount p))
  | 6 => guardBy [loopBad]
      (.loopr r.g (p.extractLsb' 29 2) (b1 (p.extractLsb' 28 1)) (p.extractLsb' 20 8)
        (p.extractLsb' 17 3) (decLoopCount p))
  | 7 => mask16 (.waite r.g)
  | 8 => guardBy [(2, bz (p.extractLsb' 2 29))] (.bsp r.g (bscOf (p.extractLsb' 0 2)))
  | 9 => guardBy [(16, decide (4 < (p.extractLsb' 16 3).toNat)), (19, bz (p.extractLsb' 19 12))]
      (.fence r.g (p.extractLsb' 0 16) (fscOf (p.extractLsb' 16 3)))
  | 10 => mask16 (.publish r.g)
  | 11 => guardBy [(29, bz (p.extractLsb' 29 2))]
      (.swapb r.g (p.extractLsb' 0 16) (p.extractLsb' 16 5) (p.extractLsb' 21 6)
        (b1 (p.extractLsb' 27 1)) (b1 (p.extractLsb' 28 1)))
  | 12 => guardBy [(12, decide (p.extractLsb' 12 2 = 3)), (14, bz (p.extractLsb' 14 17))]
      (.probe r.g (p.extractLsb' 0 6) (p.extractLsb' 6 6) (akOf (p.extractLsb' 12 2)))
  | 13 => guardBy [(19, bz (p.extractLsb' 19 12))]
      (.ckts r.g (p.extractLsb' 0 6) (p.extractLsb' 6 6) (p.extractLsb' 12 6) (b1 (p.extractLsb' 18 1)))
  | 14 => guardBy [(23, bz (p.extractLsb' 23 8))]
      (.cktv r.g (p.extractLsb' 0 8) (p.extractLsb' 8 8) (p.extractLsb' 16 4) (p.extractLsb' 20 3))
  | 15 => guardBy [(22, bz (p.extractLsb' 22 9))] (.trap r.g (p.extractLsb' 16 6) (p.extractLsb' 0 16))
  | 16 => one6 (.enq r.g)
  | 17 => one6 (.spawn r.g)
  | 18 => none31 (.endTask r.g)
  | 19 => one6 (.dictld r.g)
  | 20 => none31 (.dictsw r.g)
  | 21 => guardBy [(12, bz (p.extractLsb' 12 19))] (.rdtime r.g (p.extractLsb' 0 6) (p.extractLsb' 6 6))
  | 22 =>
    if rform then guardBy [(0, bz (p.extractLsb' 0 24))] (.setrpl r.g (.reg (p.extractLsb' 24 6)))
    else guardBy [(24, bz (p.extractLsb' 24 6))] (.setrpl r.g (.disp (p.extractLsb' 0 24)))
  | 23 =>
    let y := b1 (p.extractLsb' 4 1)
    guardBy [(5, !y && bz (p.extractLsb' 5 6)), (11, bz (p.extractLsb' 11 20))]
      (.qpt r.g (p.extractLsb' 0 4) (if y then some (p.extractLsb' 5 6) else none))
  | 24 => none31 (.eret r.g)
  | 25 => guardBy [(12, decide (p.extractLsb' 12 2 = 3)), (14, bz (p.extractLsb' 14 17))]
      (.inval r.g (p.extractLsb' 0 6) (p.extractLsb' 6 6) (ivOf (p.extractLsb' 12 2)))
  | 26 => guardBy [(18, bz (p.extractLsb' 18 13))]
      (.wcsld r.g (p.extractLsb' 12 6) (p.extractLsb' 0 6) (p.extractLsb' 6 6))
  | 27 => none31 (.halt r.g)
  | n => .error (.opcode n)

/-- Decode one slot. -/
def decodeSlot : SlotWord → Except Reject Instr
  | .s r => decodeS r
  | .v u r => decodeV u r
  | .m r => decodeM r
  | .x r => decodeX r
  | .l r => decodeL r
  | .w r => decodeW r
  | .c r => decodeC r
  | .y r => decodeY r

/-- The nine slots of a bundle in the order of R183. -/
def Bundle.slots (b : Bundle) : List (Slot × SlotWord) :=
  [(.s, .s b.s), (.v0, .v .v0 b.v0), (.v1, .v .v1 b.v1), (.m, .m b.m), (.x, .x b.x), (.l, .l b.l),
    (.w, .w b.w), (.c, .c b.c), (.y, .y b.y)]

/-- Each slot's lowest bundle bit (R173). -/
def slotBase : Slot → Nat
  | .s => 432 | .v0 => 368 | .v1 => 304 | .m => 256 | .x => 208 | .l => 144 | .w => 88 | .c => 40
  | .y => 0

/-- Every slot decoded. -/
def decodeBundle (w : Line) : List (Slot × Except Reject Instr) :=
  (Bundle.unpack w).slots.map (fun e => (e.1, decodeSlot e.2))

def isNop : Instr → Bool
  | .nop _ => true
  | _ => false

/-- The operations of a decoded bundle other than NOP; none when some slot names no instruction. -/
def opsOf : List (Slot × Except Reject Instr) → Option (List Instr)
  | [] => some []
  | (_, .error _) :: _ => none
  | (_, .ok i) :: rest =>
    match opsOf rest with
    | some l => some (if isNop i then l else i :: l)
    | none => none

/-- The one instruction a bundle of bits w holds: its only operation, or the S slot's NOP when every
slot is a NOP. -/
def decodeOne (w : Line) : Option Instr :=
  match opsOf (decodeBundle w) with
  | some [] => some (.nop .s)
  | some [i] => some i
  | _ => none

/-- The instruction read from a bundle whose bits are `w`, bit 0 the least significant bit of byte 0
(R1, R2, R171); a bundle is 512 bits, and bits above the table's count are 0. -/
def decodeTableWord (_nbits w : Nat) : Option Instr := decodeOne (BitVec.ofNat 512 w)

/-! ### Encoding -/

def s0Raw (op : Nat) (g : PReg) : SRaw := ⟨BitVec.ofNat 6 op, g, 0, 0, 0, 0, 0⟩
def p2s (p : PReg) : BitVec 6 := (0 : BitVec 2) ++ p
def fnM (m : AMode) : BitVec 4 := (0 : BitVec 2) ++ amodeCode m
def fnB (b : Bool) : BitVec 4 := (0 : BitVec 3) ++ ofB b
def encS3 (op : Nat) (g : PReg) (fn : BitVec 4) (d a b : SReg) : SlotWord :=
  .s ⟨BitVec.ofNat 6 op, g, d, a, b, fn, 0⟩
def encSI (op : Nat) (g : PReg) (fn : BitVec 4) (d a : SReg) (imm : BitVec 32) : SlotWord :=
  .s ⟨BitVec.ofNat 6 op, g, d, a, 0, fn, imm⟩
def imm6 (n : BitVec 6) : BitVec 32 := (0 : BitVec 26) ++ n
def encField (op : Nat) (g : PReg) (d a b : SReg) (pos : Option (BitVec 6)) (len : Option (BitVec 7)) :
    SlotWord :=
  .s ⟨BitVec.ofNat 6 op, g, d, a, b, (0 : BitVec 2) ++ ofB len.isNone ++ ofB pos.isNone,
    (0 : BitVec 17) ++ len.getD 0 ++ (0 : BitVec 2) ++ pos.getD 0⟩
def hselCode : HSel → BitVec 4 × Bool
  | .field f => (hfCode f, false)
  | .word q => ((0 : BitVec 2) ++ q, true)
def himm (f : BitVec 4) (h : HReg) : BitVec 32 := (0 : BitVec 20) ++ f ++ (0 : BitVec 3) ++ h
def srImm (r : SysReg) : BitVec 32 := (0 : BitVec 24) ++ srCode r

def encV (op : Nat) (c : VCtl) (ty : VType) (sa sb sc : BitVec 9) (fn : BitVec 3) (imm : BitVec 6) :
    SlotWord :=
  .v c.unit ⟨BitVec.ofNat 6 op, c.k, tyCode ty, c.d, ofB c.nowb, latchCode c.latch, sa, sb, sc, c.b1,
    fn, imm⟩
def encVM (op : Nat) (c : VMaskCtl) (ty : VType) (sa sb : BitVec 9) (fn : BitVec 3) : SlotWord :=
  .v c.unit ⟨BitVec.ofNat 6 op, c.k, tyCode ty, (0 : BitVec 5) ++ c.dk, 0, 0, sa, sb, 0, 0, fn, c.imm⟩
def mdFn (md : VMode) : BitVec 3 := ofB md.sat ++ rmCode md.rm
def v3 (b : Bool) : BitVec 3 := (0 : BitVec 2) ++ ofB b
def k9 (k : KReg) : BitVec 9 := (0 : BitVec 6) ++ k
def scanCode : ScanOp → BitVec 2
  | .add => 0 | .max => 1 | .min => 2 | .xor => 3
def sfuCode : SfuFn → BitVec 3
  | .exp2 => 0 | .log2 => 1 | .rcp => 2 | .rsqrt => 3
def vmaskCode : VMaskMode → BitVec 3
  | .nz => 0 | .neg => 1 | .raw => 2
def laneSb : LaneIdx → BitVec 9
  | .imm l => l
  | .reg _ => 0
def laneSc : LaneIdx → BitVec 9
  | .imm _ => 0
  | .reg r => (0 : BitVec 3) ++ r
def laneV : LaneIdx → Bool
  | .imm _ => false
  | .reg _ => true

def encX (op : Nat) (c : XCtl) (fn : BitVec 6) (h : HReg) (aux : BitVec 8) : SlotWord :=
  .x ⟨BitVec.ofNat 4 op, c.guard, c.d, xselCode c.src, c.b1, fn, h, aux⟩

def d8 (d : SReg) : BitVec 8 := (0 : BitVec 2) ++ d
def encL (op : Nat) (g : PReg) (cl : Cls) (d : BitVec 8) (a : SReg) (fn : BitVec 6)
    (disp : BitVec 32) : SlotWord := .l ⟨BitVec.ofNat 4 op, g, cl, d, a, fn, disp⟩
def encW (op : Nat) (g : PReg) (cl : Cls) (src : BitVec 8) (a : SReg) (fn : BitVec 6)
    (disp : BitVec 24) : SlotWord := .w ⟨BitVec.ofNat 4 op, g, cl, src, a, fn, disp⟩
def encC (op : Nat) (g : PReg) (cl : Cls) (t : Tok) (pay : BitVec 32) : SlotWord :=
  .c ⟨BitVec.ofNat 4 op, g, cl, t, pay⟩
def encM (op : Nat) (g : PReg) (pay : BitVec 40) : SlotWord := .m ⟨BitVec.ofNat 4 op, g, pay⟩
def encY (op : Nat) (g : PReg) (pay : BitVec 31) : SlotWord := .y ⟨BitVec.ofNat 5 op, g, pay⟩
def riDisp : RegImm 32 → Bool × BitVec 32
  | .reg b => (true, (0 : BitVec 26) ++ b)
  | .imm v => (false, v)
def axlogCode : AxLogOp → BitVec 2
  | .and => 0 | .or => 1 | .xor => 2 | .andn => 3
def axshCode : AxShOp → BitVec 2
  | .shl => 0 | .shr => 1 | .sar => 2
def copyPay (hd hs : HReg) (rm : RMode) (sat outer comp : Bool) : BitVec 32 :=
  (0 : BitVec 17) ++ ofB comp ++ ofB outer ++ ofB sat ++ rmCode rm ++ hs ++ hd
def fifoPay (f : Fmt) (hs : HReg) (gs : GSize) (outer : Bool) : BitVec 32 :=
  (0 : BitVec 18) ++ ofB outer ++ (0 : BitVec 1) ++ gsCode gs ++ hs ++ fmtCode f
def yMask (m : BitVec 16) : BitVec 31 := (0 : BitVec 15) ++ m
def yOne (a : SReg) : BitVec 31 := (0 : BitVec 25) ++ a
def loopPay (lvl : BitVec 2) (desc : Bool) (len1 : BitVec 8) (dr : BitVec 3) : LoopCount → BitVec 31
  | .imm n => lvl ++ ofB desc ++ len1 ++ dr ++ (1 : BitVec 1) ++ n
  | .reg r => lvl ++ ofB desc ++ len1 ++ dr ++ (0 : BitVec 11) ++ r

/-- The slot word of an instruction of a slot; events have none. -/
def encodeSlot : Instr → Option SlotWord
  | .nop .s => some (.s (s0Raw 0 0))
  | .nop .v0 => some (.v .v0 ⟨0, 0, 0, 0, 0, 0, 0, 0, 0, 0, 0, 0⟩)
  | .nop .v1 => some (.v .v1 ⟨0, 0, 0, 0, 0, 0, 0, 0, 0, 0, 0, 0⟩)
  | .nop .m => some (encM 0 0 0)
  | .nop .x => some (.x ⟨0, 0, 0, 0, 0, 0, 0, 0⟩)
  | .nop .l => some (encL 0 0 0 0 0 0 0)
  | .nop .w => some (encW 0 0 0 0 0 0 0)
  | .nop .c => some (encC 0 0 0 0 0)
  | .nop .y => some (encY 0 0 0)
  | .add g m d a b => some (encS3 1 g (fnM m) d a b)
  | .sub g m d a b => some (encS3 2 g (fnM m) d a b)
  | .mul g m d a b => some (encS3 4 g (fnM m) d a b)
  | .mulh g d a b => some (encS3 5 g 0 d a b)
  | .mulhn g d a b => some (encS3 6 g 0 d a b)
  | .and g d a b => some (encS3 11 g 0 d a b)
  | .or g d a b => some (encS3 12 g 0 d a b)
  | .xor g d a b => some (encS3 13 g 0 d a b)
  | .min g d a b => some (encS3 31 g 0 d a b)
  | .max g d a b => some (encS3 32 g 0 d a b)
  | .minn g d a b => some (encS3 33 g 0 d a b)
  | .maxn g d a b => some (encS3 34 g 0 d a b)
  | .clmuls g hi d a b => some (encS3 41 g (fnB hi) d a b)
  | .div g d a b => some (encS3 7 g 0 d a b)
  | .divn g d a b => some (encS3 8 g 0 d a b)
  | .rem g d a b => some (encS3 9 g 0 d a b)
  | .remn g d a b => some (encS3 10 g 0 d a b)
  | .addi g m d a imm => some (encSI 3 g (fnM m) d a imm)
  | .andi g z d a imm => some (encSI 14 g (fnB z) d a imm)
  | .ori g z d a imm => some (encSI 15 g (fnB z) d a imm)
  | .xori g z d a imm => some (encSI 16 g (fnB z) d a imm)
  | .shl g d a b => some (encS3 17 g 0 d a b)
  | .shr g d a b => some (encS3 18 g 0 d a b)
  | .sar g d a b => some (encS3 19 g 0 d a b)
  | .shli g d a n => some (encSI 20 g 0 d a (imm6 n))
  | .shri g d a n => some (encSI 21 g 0 d a (imm6 n))
  | .sari g d a n => some (encSI 22 g 0 d a (imm6 n))
  | .rol g d a (.imm n) => some (encSI 23 g 1 d a (imm6 n))
  | .rol g d a (.reg b) => some (encS3 23 g 0 d a b)
  | .fshr g d a b none => some (encS3 24 g 1 d a b)
  | .fshr g d a b (some n) => some (.s ⟨24, g, d, a, b, 0, (0 : BitVec 25) ++ n⟩)
  | .bext g d a b p l => some (encField 25 g d a b p l)
  | .bexts g d a b p l => some (encField 26 g d a b p l)
  | .bins g d a b p l => some (encField 27 g d a b p l)
  | .clz g w d a => some (encSI 28 g ((0 : BitVec 2) ++ bitwCode w) d a 0)
  | .ctz g w d a => some (encSI 29 g ((0 : BitVec 2) ++ bitwCode w) d a 0)
  | .popc g w d a => some (encSI 30 g ((0 : BitVec 2) ++ bitwCode w) d a 0)
  | .brev g w d a => some (encSI 47 g ((0 : BitVec 2) ++ bitwCode w) d a 0)
  | .cmp g cc d a b => some (encS3 35 g (ccCode cc) (p2s d) a b)
  | .cmpi g cc d a imm => some (encSI 36 g (ccCode cc) (p2s d) a imm)
  | .plog g d a b tt => some (encS3 37 g tt (p2s d) (p2s a) (p2s b))
  | .sel g q d a b => some (encS3 38 g q d a b)
  | .li g z d imm => some (encSI 39 g (fnB z) d 0 imm)
  | .lih g d imm => some (encSI 40 g 0 d 0 imm)
  | .hset g f h a => some (.s ⟨43, g, 0, a, 0, fnB (hselCode f).2, himm (hselCode f).1 h⟩)
  | .hget g f d h => some (.s ⟨44, g, d, 0, 0, fnB (hselCode f).2, himm (hselCode f).1 h⟩)
  | .hadd g f h a => some (.s ⟨42, g, 0, a, 0, 0, himm (hfCode f) h⟩)
  | .rdsr g d r => some (.s ⟨45, g, d, 0, 0, 0, srImm r⟩)
  | .wrsr g r a => some (.s ⟨46, g, 0, a, 0, 0, srImm r⟩)
  | .axadd g d a y => some (encL 8 g 0 (d8 d) a (ofB (riDisp y).1 ++ (0 : BitVec 5)) (riDisp y).2)
  | .axsub g d a y => some (encL 9 g 0 (d8 d) a (ofB (riDisp y).1 ++ (0 : BitVec 5)) (riDisp y).2)
  | .axlog g op d a y =>
    some (encL 10 g 0 (d8 d) a (ofB (riDisp y).1 ++ (0 : BitVec 3) ++ axlogCode op) (riDisp y).2)
  | .axsh g op d a (.reg b) => some (encL 11 g 0 (d8 d) a ((8 : BitVec 4) ++ axshCode op) (imm6 b))
  | .axsh g op d a (.imm n) => some (encL 11 g 0 (d8 d) a ((0 : BitVec 4) ++ axshCode op) (imm6 n))
  | .wxadd g sub d a (.reg b) =>
    some (encW 9 g 0 (d8 d) a ((16 : BitVec 5) ++ ofB sub) ((0 : BitVec 18) ++ b))
  | .wxadd g sub d a (.imm v) => some (encW 9 g 0 (d8 d) a ((0 : BitVec 5) ++ ofB sub) v)
  | .vadd c ty md a b => some (encV 1 c ty (vselCode a) (vselCode b) 0 (mdFn md) c.imm)
  | .vsub c ty md a b => some (encV 2 c ty (vselCode a) (vselCode b) 0 (mdFn md) c.imm)
  | .vmul c ty md a b => some (encV 3 c ty (vselCode a) (vselCode b) 0 (mdFn md) c.imm)
  | .vfma c ty md a b cc =>
    some (encV 4 c ty (vselCode a) (vselCode b) (vselCode cc) (mdFn md) c.imm)
  | .vmin c ty md a b => some (encV 5 c ty (vselCode a) (vselCode b) 0 (mdFn md) c.imm)
  | .vmax c ty md a b => some (encV 6 c ty (vselCode a) (vselCode b) 0 (mdFn md) c.imm)
  | .vabs c ty md a => some (encV 7 c ty (vselCode a) 0 0 (mdFn md) c.imm)
  | .vmulh c ty md a b => some (encV 34 c ty (vselCode a) (vselCode b) 0 (mdFn md) c.imm)
  | .vand c ty a b => some (encV 8 c ty (vselCode a) (vselCode b) 0 0 c.imm)
  | .vor c ty a b => some (encV 9 c ty (vselCode a) (vselCode b) 0 0 c.imm)
  | .vxor c ty a b => some (encV 10 c ty (vselCode a) (vselCode b) 0 0 c.imm)
  | .vshl c ty a b => some (encV 11 c ty (vselCode a) (vselCode b) 0 0 c.imm)
  | .vshr c ty a b => some (encV 12 c ty (vselCode a) (vselCode b) 0 0 c.imm)
  | .vsar c ty a b => some (encV 13 c ty (vselCode a) (vselCode b) 0 0 c.imm)
  | .vcmp c ty cc a b => some (encVM 14 c ty (vselCode a) (vselCode b) (vcCode cc))
  | .vsel c ty m a b => some (encV 15 c ty (vselCode a) (vselCode b) (k9 m) 0 c.imm)
  | .vbext c ty sgn a b cc =>
    some (encV 16 c ty (vselCode a) (vselCode b) (vselCode cc) (v3 sgn) c.imm)
  | .vfshr c ty a b cc => some (encV 17 c ty (vselCode a) (vselCode b) (vselCode cc) 0 c.imm)
  | .vclmul c ty hi a b => some (encV 18 c ty (vselCode a) (vselCode b) 0 (v3 hi) c.imm)
  | .vpopc c ty a => some (encV 19 c ty (vselCode a) 0 0 0 c.imm)
  | .vclz c ty a => some (encV 20 c ty (vselCode a) 0 0 0 c.imm)
  | .vbcast c ty a (.imm l) => some (encV 21 c ty (vselCode a) l 0 0 c.imm)
  | .vbcast c ty a (.reg r) => some (encV 21 c ty (vselCode a) 0 0 1 r)
  | .viota c ty (.count n) => some (encV 22 c ty 0 0 0 0 n)
  | .viota c ty (.mask m) => some (encV 22 c ty (k9 m) 0 0 1 0)
  | .vrsum c ty sat a => some (encV 23 c ty (vselCode a) 0 0 (ofB sat ++ (0 : BitVec 2)) c.imm)
  | .vrmax c ty a => some (encV 24 c ty (vselCode a) 0 0 0 c.imm)
  | .vrmin c ty a => some (encV 25 c ty (vselCode a) 0 0 0 c.imm)
  | .vscan c ty op sat a => some (encV 26 c ty (vselCode a) 0 0 (ofB sat ++ scanCode op) c.imm)
  | .vshuf c ty a b cc => some (encV 27 c ty (vselCode a) (vselCode b) (vselCode cc) 0 c.imm)
  | .vslide c ty up a b (.imm s) =>
    some (encV 28 c ty (vselCode a) (vselCode b) 0 ((0 : BitVec 1) ++ ofB up ++ (0 : BitVec 1)) s)
  | .vslide c ty up a b (.reg r) =>
    some (encV 28 c ty (vselCode a) (vselCode b) 0 ((0 : BitVec 1) ++ ofB up ++ (1 : BitVec 1)) r)
  | .vtopk c ty n a => some (encV 29 c ty (vselCode a) 0 0 0 ((0 : BitVec 1) ++ n))
  | .vcvt c dt st md part a => some (encV 30 c dt (vselCode a) 0 0 (mdFn md) (part ++ tyCode st))
  | .vsfu c ty f a => some (encV 31 c ty (vselCode a) 0 0 (sfuCode f) c.imm)
  | .vmov c ty a => some (encV 32 c ty (vselCode a) 0 0 0 c.imm)
  | .vmask c ty md a => some (encVM 33 c ty (vselCode a) 0 (vmaskCode md))
  | .vqnt c ty f gs a =>
    some (encV 35 c ty (vselCode a) 0 0 ((0 : BitVec 1) ++ gsCode gs) ((0 : BitVec 1) ++ fmtCode f))
  | .vdqnt c ty f gs a =>
    some (encV 36 c ty (vselCode a) 0 0 ((0 : BitVec 1) ++ gsCode gs) ((0 : BitVec 1) ++ fmtCode f))
  | .vsetk u dk (.pre ty n) =>
    some (.v u ⟨37, 0, tyCode ty, (0 : BitVec 5) ++ dk, 0, 0, 0, 0, 0, 0, 0, n⟩)
  | .vsetk u dk (.and a b) => some (.v u ⟨37, 0, 0, (0 : BitVec 5) ++ dk, 0, 0, k9 a, k9 b, 0, 0, 1, 0⟩)
  | .vsetk u dk (.or a b) => some (.v u ⟨37, 0, 0, (0 : BitVec 5) ++ dk, 0, 0, k9 a, k9 b, 0, 0, 2, 0⟩)
  | .vsetk u dk (.xor a b) => some (.v u ⟨37, 0, 0, (0 : BitVec 5) ++ dk, 0, 0, k9 a, k9 b, 0, 0, 3, 0⟩)
  | .vsetk u dk (.andn a b) =>
    some (.v u ⟨37, 0, 0, (0 : BitVec 5) ++ dk, 0, 0, k9 a, k9 b, 0, 0, 4, 0⟩)
  | .vsetk u dk (.not a) => some (.v u ⟨37, 0, 0, (0 : BitVec 5) ++ dk, 0, 0, k9 a, 0, 0, 0, 5, 0⟩)
  | .vextr u ty d a l imm =>
    some (.v u ⟨38, 0, tyCode ty, d8 d, 0, 0, vselCode a, laneSb l, laneSc l, 0, v3 (laneV l), imm⟩)
  | .vins u ty d nowb n l =>
    some (.v u ⟨39, 0, tyCode ty, d, ofB nowb, 0, 0, laneSb l, laneSc l, 0, v3 (laneV l), n⟩)
  | .xexp c comp w m =>
    some (encX 1 c ((0 : BitVec 3) ++ lanewCode w ++ ofB comp) 0 ((0 : BitVec 5) ++ m))
  | .xpln c f => some (encX 2 c ((0 : BitVec 1) ++ fmtCode f) 0 0)
  | .xtrn c f => some (encX 3 c ((0 : BitVec 1) ++ fmtCode f) 0 0)
  | .xcvt c sf df gs sat =>
    some (encX 4 c ((0 : BitVec 1) ++ fmtCode sf) 0 (ofB sat ++ gsCode gs ++ fmtCode df))
  | .xscl c inv h => some (encX 5 c ((0 : BitVec 5) ++ ofB inv) h 0)
  | .xpack c w1 => some (encX 6 c ((0 : BitVec 3) ++ w1) 0 0)
  | .xunpk c sgn w1 => some (encX 7 c ((0 : BitVec 2) ++ ofB sgn ++ w1) 0 0)
  | .xbits c w msb b =>
    some (encX 8 c ((0 : BitVec 3) ++ ofB msb ++ lanewCode w) 0 ((0 : BitVec 2) ++ b))
  | .xzip c w => some (encX 9 c ((0 : BitVec 4) ++ lanewCode w) 0 0)
  | .xunzip c w => some (encX 10 c ((0 : BitVec 4) ++ lanewCode w) 0 0)
  | .xswz c p w =>
    some (encX 11 c ((0 : BitVec 2) ++
      (match p with | .rev => (0 : BitVec 2) | .bswap => 1 | .bitrev => 2) ++ lanewCode w) 0 0)
  | .lds g cl d a sz sx side disp =>
    some (encL 1 g cl (d8 d) a ((0 : BitVec 2) ++ ofB side ++ ofB sx ++ szCode sz) disp)
  | .ldm g cl d a sz sx clus disp lat =>
    some (encL 2 g cl (d8 d) a ((0 : BitVec 2) ++ ofB clus ++ ofB sx ++ szCode sz) (lat ++ disp))
  | .ldw g cl d a sz sx clus disp =>
    some (encL 3 g cl (d8 d) a ((0 : BitVec 2) ++ ofB clus ++ ofB sx ++ szCode sz) disp)
  | .ldwRpl g => some (encL 3 g 0 0 0 32 0)
  | .ldq g d none => some (encL 13 g 0 (d8 d) 0 0 0)
  | .ldq g d (some n) => some (encL 13 g 0 (d8 d) 0 1 ((0 : BitVec 28) ++ n))
  | .sts g cl src a sz sp disp =>
    some (encW 1 g cl (d8 src) a ((0 : BitVec 1) ++
      (match sp with | .loc => (0 : BitVec 2) | .side => 1 | .cluster => 2) ++ (0 : BitVec 1) ++
      szCode sz) disp)
  | .stm g cl src a sz clus disp =>
    some (encW 2 g cl (d8 src) a ((0 : BitVec 2) ++ ofB clus ++ (0 : BitVec 1) ++ szCode sz) disp)
  | .vld g cl d a b1 w k disp => some (encL 4 g cl d a (lanewCode w ++ b1) (k ++ disp))
  | .vst g cl src a b1 w k disp => some (encW 3 g cl src a (lanewCode w ++ b1) (k ++ disp))
  | .vldp g cl d a sw dw sx k disp =>
    some (encL 6 g cl d a ((0 : BitVec 1) ++ ofB sx ++
      (if dw = .w16 then (0 : BitVec 2) else if dw = .w32 then 1 else 2) ++
      (if sw = .w8 then (0 : BitVec 2) else 1)) (k ++ disp))
  | .vldg g cl d a w sh x k disp =>
    some (encL 5 g cl d a ((0 : BitVec 1) ++ sh ++ (0 : BitVec 1) ++ lanewCode w) (disp ++ k ++ x))
  | .vsts g cl src a w sh x k disp =>
    some (encW 4 g cl src a ((0 : BitVec 2) ++ sh ++ lanewCode w) (x ++ k ++ disp))
  | .ldh g cl h a mem disp =>
    some (encL 7 g cl ((0 : BitVec 3) ++ h) a ((0 : BitVec 5) ++ ofB mem) disp)
  | .sth g cl h a mem disp =>
    some (encW 5 g cl ((0 : BitVec 3) ++ h) a ((0 : BitVec 5) ++ ofB mem) disp)
  | .ldpcw g cl n a mem disp =>
    some (encL 12 g cl ((0 : BitVec 4) ++ n) a ((0 : BitVec 5) ++ ofB mem) disp)
  | .ats g cl op e8 src clus a dd lat disp =>
    some (encW 6 g cl ((0 : BitVec 1) ++ ofB clus ++ src) a (atomCode op ++ (0 : BitVec 1) ++ ofB e8)
      (dd ++ lat ++ disp))
  | .atm g cl op e8 src a dd lat disp =>
    some (encW 7 g cl (d8 src) a (atomCode op ++ (0 : BitVec 1) ++ ofB e8) (dd ++ lat ++ disp))
  | .mst g cl src a sz disp => some (encW 8 g cl (d8 src) a ((0 : BitVec 4) ++ szCode sz) disp)
  | .cpy g cl t hd hs rm sat o z => some (encC 1 g cl t (copyPay hd hs rm sat o z))
  | .cpyp g cl t hd hs rm sat o z => some (encC 4 g cl t (copyPay hd hs rm sat o z))
  | .chst g cl t hd hs rm sat o z => some (encC 12 g cl t (copyPay hd hs rm sat o z))
  | .cpya g cl t f hs gs o => some (encC 2 g cl t (fifoPay f hs gs o))
  | .cpyb g cl t f hs gs o => some (encC 3 g cl t (fifoPay f hs gs o))
  | .cfil g cl t hd p o =>
    some (encC 10 g cl t ((0 : BitVec 18) ++ ofB o ++ (0 : BitVec 2) ++ p ++ hd))
  | .cred g cl t hd hs peer slot add =>
    some (encC 5 g cl t ((0 : BitVec 9) ++ ofB add ++ slot ++ peer ++ hs ++ hd))
  | .cres g cl t hd hs hr hc gs =>
    some (encC 6 g cl t ((0 : BitVec 10) ++ gsCode gs ++ hc ++ hr ++ hs ++ hd))
  | .cmcs g cl t hs a => some (encC 13 g cl t ((0 : BitVec 21) ++ a ++ hs))
  | .cwld g cl t hd hs o =>
    some (encC 7 g cl t ((0 : BitVec 18) ++ ofB o ++ (0 : BitVec 3) ++ hs ++ hd))
  | .cmig g cl t v s far gran =>
    some (encC 8 g cl t ((0 : BitVec 17) ++ gran ++ ofB far ++ s ++ v))
  | .crly g cl t v s gran =>
    some (encC 9 g cl t ((0 : BitVec 17) ++ gran ++ (0 : BitVec 1) ++ s ++ v))
  | .cnest g l5 c ds dd => some (encC 11 g 0 0 ((0 : BitVec 13) ++ dd ++ ds ++ c ++ ofB l5))
  | .mcfg g n a => some (encM 1 g (n ++ a ++ (0 : BitVec 30)))
  | .mpcw g n a => some (encM 2 g (n ++ a ++ (0 : BitVec 30)))
  | .mgo g => some (encM 3 g 0)
  | .mhad g row0 m1 drn hd t rm psh =>
    some (encM 4 g (row0 ++ m1 ++ ofB drn ++ hd ++ t ++ rmCode rm ++ psh ++ (0 : BitVec 5)))
  | .mwld g pcw k1 n1 t => some (encM 5 g (pcw ++ k1 ++ n1 ++ t ++ (0 : BitVec 18)))
  | .mdrn g row0 c1 hd t rm psh i32 =>
    some (encM 6 g (row0 ++ c1 ++ hd ++ t ++ rmCode rm ++ psh ++ ofB i32 ++ (0 : BitVec 5)))
  | .mzero g row0 c1 t => some (encM 7 g (row0 ++ c1 ++ t ++ (0 : BitVec 20)))
  | .mstat g a => some (encM 8 g (a ++ (0 : BitVec 34)))
  | .mswap g t => some (encM 9 g ((0 : BitVec 18) ++ t ++ (0 : BitVec 18)))
  | .br g (.disp d) => some (encY 1 g ((0 : BitVec 7) ++ d))
  | .br g (.reg a) => some (encY 1 g ((1 : BitVec 1) ++ a ++ (0 : BitVec 24)))
  | .brc g q n d => some (encY 2 g (q ++ ofB n ++ (0 : BitVec 2) ++ d))
  | .call g l (.disp d) => some (encY 3 g ((0 : BitVec 1) ++ l ++ d))
  | .call g l (.reg a) => some (encY 3 g ((1 : BitVec 1) ++ l ++ (0 : BitVec 18) ++ a))
  | .ret g a => some (encY 4 g (yOne a))
  | .loop g lvl desc len1 n => some (encY 5 g (loopPay lvl desc len1 0 n))
  | .loopr g lvl desc len1 dr n => some (encY 6 g (loopPay lvl desc len1 dr n))
  | .waite g m => some (encY 7 g (yMask m))
  | .bsp g sc => some (encY 8 g ((0 : BitVec 29) ++ bscCode sc))
  | .fence g m sc => some (encY 9 g ((0 : BitVec 12) ++ fscCode sc ++ m))
  | .publish g m => some (encY 10 g (yMask m))
  | .swapb g mask h m rs fl => some (encY 11 g ((0 : BitVec 2) ++ ofB fl ++ ofB rs ++ m ++ h ++ mask))
  | .probe g a b kind => some (encY 12 g ((0 : BitVec 17) ++ akCode kind ++ b ++ a))
  | .ckts g a b c t => some (encY 13 g ((0 : BitVec 12) ++ ofB t ++ c ++ b ++ a))
  | .cktv g x y b1 k => some (encY 14 g ((0 : BitVec 8) ++ k ++ b1 ++ y ++ x))
  | .trap g d code => some (encY 15 g ((0 : BitVec 9) ++ d ++ code))
  | .eret g => some (encY 24 g 0)
  | .setrpl g (.disp d) => some (encY 22 g ((0 : BitVec 7) ++ d))
  | .setrpl g (.reg a) => some (encY 22 g ((1 : BitVec 1) ++ a ++ (0 : BitVec 24)))
  | .enq g a => some (encY 16 g (yOne a))
  | .spawn g a => some (encY 17 g (yOne a))
  | .endTask g => some (encY 18 g 0)
  | .dictld g a => some (encY 19 g (yOne a))
  | .dictsw g => some (encY 20 g 0)
  | .rdtime g d e => some (encY 21 g ((0 : BitVec 19) ++ e ++ d))
  | .qpt g p none => some (encY 23 g ((0 : BitVec 27) ++ p))
  | .qpt g p (some a) => some (encY 23 g ((0 : BitVec 20) ++ a ++ (1 : BitVec 1) ++ p))
  | .inval g a b kind => some (encY 25 g ((0 : BitVec 17) ++ ivCode kind ++ b ++ a))
  | .wcsld g d a b => some (encY 26 g ((0 : BitVec 13) ++ d ++ b ++ a))
  | .halt g => some (encY 27 g 0)
  | _ => none

/-- The empty bundle (R174). -/
def Bundle.empty : Bundle := Bundle.unpack 0

/-- A bundle with one slot filled. -/
def Bundle.put (b : Bundle) : SlotWord → Bundle
  | .s r => { b with s := r }
  | .v .v0 r => { b with v0 := r }
  | .v .v1 r => { b with v1 := r }
  | .m r => { b with m := r }
  | .x r => { b with x := r }
  | .l r => { b with l := r }
  | .w r => { b with w := r }
  | .c r => { b with c := r }
  | .y r => { b with y := r }

/-- The 512-bit one-operation bundle that holds an instruction of a slot. -/
def encode (i : Instr) : Option Line := (encodeSlot i).map (fun w => (Bundle.empty.put w).pack)

end Sys2Proof
end

