-- ==== Sys2Proof/Machine/State.lean ====
section
/-! DEFINITION. The state of one Niminri N8 module: every register, memory, queue and table the
manual names, as plain data; the reasons a step can stop; and the state right after reset. -/

namespace Sys2Proof.Machine

/-- Bytes of a memory, by address: strictly rising addresses, no entry 0 (an unlisted byte is 0, R376). -/
abbrev Memory := List (Nat × Byte)

/-- Where a byte of the module stands: a die of memory under its own key, a core's scratchpad or
side bank, one of the four weight-store copies, host memory, or another node's memory under its DPA (R81, R92,
R102, R104, R362, R346). -/
inductive Space where
  | mem | spad (core : Nat) | side (core : Nat) | wstore (die : Nat) | host | remote
  deriving DecidableEq, Repr

/-- A core-local word or register that holds an uncorrectable error (R399), by physical name: a row's
64-bit word, a scratchpad or side-bank 64-bit word. -/
inductive Mark where
  | s (r : SReg) | p (r : PReg) | h (r : HReg) | k (r : KReg) | latch (n : BitVec 3)
  | pcw (n : BitVec 4) | mn (n : Nat) | outer (l5 : Bool) | lc (n : Nat) | row (r : Row) (word : Nat) | spad (word : Nat) | side (word : Nat)
  deriving DecidableEq, Repr

/-- A place: space and byte address. -/
structure Place where
  sp : Space
  addr : Nat
  deriving DecidableEq, Repr

/-- What a result in flight will write (R182). -/
inductive Dest where
  | none
  | s (r : SReg) (v : Word)
  | p (r : PReg) (v : Bool)
  | h (r : HReg) (v m : Handle)
  | k (r : KReg) (v m : Line)
  | row (r : Row) (v m : RowVal)
  | latch (n : BitVec 3) (v : RowVal) (epoch : Nat)
  | sys (r : SysReg) (v : Word)
  | pcw (n : BitVec 4) (v : Word)
  | mn (n : BitVec 4) (v : Word)
  | nest (l5 : Bool) (cnt : BitVec 16) (ds dd : Word)
  | retTrap (pc : Word)
  /-- a load whose cycle has come without its reply poisons its register (R265) -/
  | poison (r : SReg)
  /-- a loop-back's delta on a logical scalar or a handle field, and its rotation (R183, R195, R196) -/
  | deltaS (r : SReg) (v : Word)
  | deltaH (h : HReg) (lo w : Nat) (v : Word)
  | rotate (p8 : Bool)
  deriving DecidableEq, Repr

/-- A result in flight: lands at `cyc`; within a cycle in slot order (R183). -/
structure Landing where
  cyc : Nat
  ord : Nat
  dest : Dest
  flags : BitVec 5
  /-- the bundle of the operation -/
  pc : Word
  btag : Byte
  deriving DecidableEq, Repr

/-- A beat of an access that waits for its cycle at the local port (R264). -/
inductive PortOp where
  /-- scalar load: destination register, size in bytes, sign extension -/
  | ld (d : SReg) (n : Nat) (sx side : Bool) (a : Nat)
  | ldh (h : HReg) (a : Nat)
  | ldpcw (n : BitVec 4) (a : Nat)
  /-- row load of 512 bytes into a physical row under a bit mask -/
  | vld (r : Row) (m : RowVal) (a : Nat)
  | vldp (r : Row) (m : RowVal) (sw dw : Nat) (sx : Bool) (a : Nat)
  | vldg (r : Row) (m : RowVal) (w : Nat) (as : List (Nat × Nat))
  /-- bytes to store, each with its address -/
  | st (side : Bool) (bs : List (Nat × Byte))
  | enq (a : Nat)
  | dictld (bank : Bool) (a : Nat)
  | at (op : AtomOp) (eight : Bool) (v c : Word) (t : Option (BitVec 4)) (a : Nat)
  deriving DecidableEq, Repr

/-- A port access waiting for its beat. -/
structure PortEntry where
  cyc : Nat
  /-- number in program order, shared with the accesses of `pend` -/
  id : Nat
  task : Option Nat
  cls : Option Cls
  slot : Slot
  op : PortOp
  pc : Word
  btag : Byte
  /-- cycles by which its beat performs after `cyc`, at most three: a load's result still lands in time (R335) -/
  lag : Nat
  deriving DecidableEq, Repr

/-- A load-tracker entry (R265). -/
structure Track where
  reg : SReg
  /-- 2 LDM, 6 ATS, 7 ATM -/
  opc : BitVec 4
  cls : Cls
  /-- the cycle t + L -/
  due : Nat
  /-- the instruction's declared cycle has passed and the register was marked -/
  late : Bool
  /-- reply code and value -/
  reply : Option (BitVec 16 × Word)
  detail : BitVec 16
  /-- discard the reply on arrival; `cons`: an error it reports is consumed all the same (R422) -/
  drop : Bool
  cons : Bool
  pc : Word
  btag : Byte
  deriving DecidableEq, Repr

/-- Loop level state (R192 to R196). -/
structure LoopLvl where
  active : Bool
  lc : BitVec 32
  n : Nat
  /-- iterations begun -/
  begun : Nat
  isR : Bool
  start : Word
  len : Nat
  desc : Option Line
  deriving DecidableEq, Repr

/-- What an issued Y operation, or a waiting load, waits for (R292). -/
inductive Wait where
  | waite (mask : BitVec 16)
  | bsp (sc : BScope)
  | fence (mask : BitVec 16) (sc : FScope)
  | publish (mask : BitVec 16)
  | swapb (mask : BitVec 16) (h : HReg) (m : SReg) (rs flip : Bool)
  /-- published; the writes to other nodes have yet to perform; then SWAPB's flip and snapshot -/
  | sent (swap : Option (BitVec 16 × HReg × SReg × Bool × Bool))
  | probe (va len : Nat) (kind : AKind) (serviced : Bool)
  | spawn (root : Nat)
  | endT
  | dictld (bank : Bool)
  /-- accesses born at this DTIME or before, and published writes placed by this cycle through a named leaf, still use the
  old mappings -/
  | inval (since cyc : Nat) (kind : InvKind) (va : Nat) (asid : BitVec 13)
  | wcsld (d : SReg) (a b : Word)
  /-- a QPT that yields (R312) -/
  | qpt (p : PReg)
  | halt
  | ldw (n : Nat)
  | rpl
  /-- a bundle held with RPLADDR = 0 until these physical registers have their replies (R266) -/
  | hold (regs : List SReg)
  | brk
  /-- step 5 of R409: the input commands issued again -/
  | rollback (cmds : List Nat)
  deriving DecidableEq, Repr

/-- The registers a command translates with (R179). -/
structure XlatRegs where
  asid : BitVec 13
  sec : Bool
  heapbase : Word
  heaplim : Word
  heapoff : Word
  heapattr : Word
  ptroot : Word
  deriving DecidableEq, Repr

/-- A queued copy-engine command (R275). -/
inductive CopyOp where
  | cpy | cpyp | chst | cpya (f : Fmt) (gs : GSize) | cpyb (f : Fmt) (gs : GSize)
  | cfil (p : Word) | cred (peer slot : Word) (add : Bool) | cres (gs : GSize) | cmcs (a : Word)
  | cwld | cmig (v s : Word) (far : Bool) (gran : BitVec 2) | crly (v s : Word) (gran : BitVec 2)
  deriving DecidableEq, Repr

/-- Why a copy command stands still. -/
inductive CopyHold where
  | run | service | migrating
  /-- a CRED before its slot (R283) -/
  | slot
  /-- an input command before step 3 of its rollback has ended (R409) -/
  | restart
  /-- a CPYB whose last block another load took the place of in the standby registers: it never becomes active (R150) -/
  | overwritten
  deriving DecidableEq, Repr

/-- A copy command with all it captured at issue (R276, R277). -/
structure CopyCmd where
  id : Nat
  op : CopyOp
  cls : Cls
  tok : Tok
  hd : Handle
  hs : Handle
  hr : Handle
  hc : Handle
  rm : RMode
  sat : Bool
  comp : Bool
  oc4 : Nat
  oc5 : Nat
  ds4 : Word
  dd4 : Word
  ds5 : Word
  dd5 : Word
  /-- elements (or lines, entries, stores) already done, in the order of R276 -/
  pos : Nat
  xl : XlatRegs
  bank : Bool
  cidx : BitVec 16
  pc : Word
  btag : Byte
  hold : CopyHold
  /-- the access number at issue: earlier accesses of its class precede its reads (R325) -/
  acc : Nat
  /-- PCYC of its issue -/
  born : Nat
  /-- flags its conversions raised, visible at completion (R139) -/
  fl : BitVec 5
  deriving DecidableEq, Repr

/-- The core-local word whose error a fault consumed (R399, R406): the core that holds it, none for the consumer's own,
and the address in its unit. -/
structure Saw where
  core : Option Nat
  addr : Nat
  deriving DecidableEq, Repr

/-- The fields of one fault of a task (R401). -/
structure FaultInfo where
  code : BitVec 16
  detail : BitVec 16
  slot : Nat
  tok : Nat
  coord0 : Nat
  coord1 : Nat
  rem : Nat
  cidx : BitVec 16
  pc : Word
  btag : Byte
  applied : Bool
  /-- the core-local word consumed, which the machine check names -/
  saw : Option Saw
  deriving DecidableEq, Repr

/-- The leaf by which a request was translated: its level, the number of its page there, the context, and PCYC then
(R314). -/
structure Via where
  lvl : Nat
  page : Nat
  asid : BitVec 13
  at_ : Nat
  deriving DecidableEq, Repr

/-- A complete engine command whose writes are unpublished: its number, token and class, what a fault record of it
holds, and what tells where an element of it stands, which a record may name (R401). -/
structure Done where
  id : Nat
  tok : Tok
  cls : Cls
  info : FaultInfo
  copy : Option CopyCmd
  /-- of a press: elements of a destination row, and rows written -/
  press : Option (Nat × Nat)
  deriving DecidableEq, Repr

/-- An access that has issued and not performed (R317): its number in program order, class, slot,
target place and what it does. -/
inductive AccOp where
  /-- load of n bytes for tracker entry -/
  | ldTrack (t : BitVec 4) (n : Nat) (sx : Bool)
  | ldWait (d : SReg) (n : Nat) (sx : Bool)
  | ldHandle (h : HReg)
  | ldPcw (i : BitVec 4)
  | store (bs : List Byte)
  | atomic (op : AtomOp) (eight : Bool) (v c : Word) (t : Option (BitVec 4))
  | mst (group : BitVec 12) (off : BitVec 32) (bs : List Byte)
  /-- published shadow writes on their way to another node (R359): each byte with the bits it changes, the command and the
  element that produced the first, and the leaf that mapped it -/
  | published (bs : List (Byte × Byte)) (d : Done) (elem : Nat) (via : Option Via)
  /-- an engine's read of a 64-byte line of another node, or of host memory at a host physical address, for a command of
  this number, or for a WCSLD (R346, R447) -/
  | engRead (cmd line : Nat) (host : Bool)
  deriving DecidableEq, Repr

/-- Where an access goes: this module's DPA, another node's DPA, a cluster scratchpad place, host
memory, a hub register, or a multicast sequencer. -/
inductive Target where
  | dpa (a : Dpa) (g : BitVec 2)
  | cluster (core addr : Nat)
  | mcast (g : BitVec 12)
  /-- a memory access whose leaf has MP = 1: it walks again (R91) -/
  | va (a : Nat) (xl : XlatRegs)
  deriving DecidableEq, Repr

/-- An access in flight. -/
structure Access where
  id : Nat
  cls : Cls
  slot : Slot
  tgt : Target
  op : AccOp
  kind : AKind
  pc : Word
  btag : Byte
  /-- the request has been sent to another node or the host, and its reply is awaited -/
  sent : Bool
  /-- the DTIME of issue, for the expiry of R441 -/
  born : Nat
  /-- AP = 1 and RAP = 1 at translation: ownership may be granted (R349) -/
  rap : Bool
  /-- the task and world that issued it -/
  task : Option Nat
  sec : Bool
  /-- place in program order: `id`, or the place of the CMCS that sends the store (R274) -/
  po : Nat
  deriving DecidableEq, Repr

/-- How a shadow write reaches its place: as bytes; as part of a tile that the write port compresses under a dictionary bank,
with what the bank held when the tile was begun (R97, R99, R465); as stored bytes of a tile that is moved with its header entry
(R279); or not at all, being the expanded bytes of such a tile, for the task's own reads. -/
inductive TileWrite where
  | plain | curd (bank : Bool) (dict : Vector Line 16) | stored (entry : BitVec 32) | view
  deriving DecidableEq, Repr

/-- One byte of a shadow write (R328): the bits of `m` become those of `v`. -/
structure Shadow where
  /-- the command that wrote it -/
  cmd : Nat
  /-- the element, so that the bytes of one element are chosen together -/
  elem : Nat
  pl : Place
  v : Byte
  m : Byte
  tile : TileWrite
  /-- granule of a byte of memory -/
  g : BitVec 2
  /-- the core of the command, and PCYC of its issue -/
  core : Nat
  born : Nat
  /-- the leaf that mapped its place -/
  via : Option Via
  deriving DecidableEq, Repr

/-- One row of the A FIFO (R148): element codes, and each element's scale or E code and μ bit. -/
structure ARow where
  codes : List Nat
  scales : List Nat
  mus : List Nat
  /-- the command that supplied it, and the place of its first element there (R169) -/
  cmd : Nat
  pos : Nat
  /-- an uncorrectable error (R399) -/
  bad : Bool
  deriving DecidableEq, Repr

/-- A weight block (R149): element (k, n) is entry n·K + k, each with its scale or E code and μ bit. -/
structure Block where
  k : Nat
  n : Nat
  /-- the entries of the B FIFO it occupies -/
  size : Nat
  codes : List Nat
  scales : List Nat
  mus : List Nat
  cmd : Option Nat
  pos : Nat
  /-- an uncorrectable error (R399) -/
  bad : Bool
  deriving DecidableEq, Repr

/-- A row on its way through the array: an A entry, or an accumulator row recirculated, and its word with an uncorrectable
error (R162, R399). -/
inductive AIn where
  | fifo (a : ARow)
  | recirc (v : RowVal) (bad : Option Saw)
  deriving DecidableEq, Repr

/-- Kinds of matrix command (R289). -/
inductive MKind where
  | go | had | wld | drn | zero | swap
  deriving DecidableEq, Repr

/-- What the array does for the active command. -/
inductive MStage where
  /-- between passes, or a command that streams nothing -/
  | idle
  /-- a pass: rows still to write, plane steps Peff, and the cycle that writes the next row (R158) -/
  | pass (left peff due : Nat)
  /-- every leaf is done -/
  | drained
  /-- complete since this cycle -/
  | done (at_ : Nat)
  deriving DecidableEq, Repr

/-- A matrix command with all it captured (R144, R151, R163). -/
structure MCmd where
  id : Nat
  kind : MKind
  mn : Vector Word 9
  pa : Word
  pb : Word
  hd : Handle
  tok : Tok
  /-- coordinates x0 … x5 of the first leaf not yet written -/
  x : Vector Nat 6
  dcur : Nat
  /-- LDW actions of that leaf already done -/
  taken : Nat
  stage : MStage
  /-- of a pass: rows yet to enter the array, the cycle in which the next one enters, and the rows that have entered
  and are not yet written, oldest first (R160, R162) -/
  toEnter : Nat
  enterAt : Nat
  inArray : List AIn
  /-- the cycle of activation, of the last row write, or of the previous pass's end -/
  last : Nat
  /-- rows the press has yet to read, with their cycles; rows read, with the cycles of their writes (R165) -/
  reads : List (Row × Nat)
  writes : List (Nat × RowVal)
  /-- rows MZERO has yet to write -/
  rows : List Row
  /-- the drained rows are i32 -/
  i32 : Bool
  /-- the dictionary bank active at issue (R99) -/
  bank : Bool
  /-- PCYC of its issue -/
  born : Nat
  xl : XlatRegs
  cidx : BitVec 16
  pc : Word
  btag : Byte
  fl : BitVec 5
  deriving DecidableEq, Repr

/-- Architectural registers of a core (R177). -/
structure Regs where
  s : Vector Word 64
  p : Vector Bool 16
  h : Vector Handle 32
  k : Vector Line 8
  a : Vector RowVal 256
  /-- latches; none is empty (R188) -/
  b : Vector (Option RowVal) 8
  deriving DecidableEq, Repr

/-- System registers of a core (R73, R74, R138, R180). -/
structure SysRegs where
  asid : BitVec 13
  sec : Bool
  heapbase : Word
  heaplim : Word
  heapoff : Word
  heapattr : Word
  ptroot : Word
  tcoord : Word
  rcbptr : Word
  rpladdr : Word
  trapaddr : Word
  status : BitVec 5
  rrbs : BitVec 4
  rrba : BitVec 6
  rrbp : BitVec 3
  deriving DecidableEq, Repr

/-- Loop state and the loop buffer (R192). -/
structure Loops where
  l0 : LoopLvl
  l1 : LoopLvl
  l2 : LoopLvl
  /-- bundles held as fetched during the first iteration, by VA -/
  buf : List (Word × Line)
  /-- levels whose first iteration runs on the bundle being issued: LE bits of the bundle -/
  le : BitVec 3
  deriving DecidableEq, Repr

/-- The snapshot of R301 and the phase's state (R408). -/
structure Phase where
  pc : Word
  regs : Regs
  pcw : Vector Word 16
  loops : Loops
  rrbs : BitVec 4
  rrba : BitVec 6
  rrbp : BitVec 3
  trap : Bool
  trapRet : Word
  restartable : Bool
  rolled : Bool
  inputs : List CopyCmd
  /-- the first command and access number of the phase -/
  firstCmd : Nat
  firstAcc : Nat
  /-- rows written by a V or X operation or a load since the phase began -/
  written : List Row
  deriving DecidableEq, Repr

/-- The pass of a bundle an operation takes part in: on its own; the checks that read no scalar (R469
step 2); the checks that do (step 4); or the effect. -/
inductive Pass where
  | alone | static | scalar | go
  deriving DecidableEq, Repr

/-- A failing check: slot number, code and detail (R454, R455), and the core-local word that it consumed. -/
structure FoundFault where
  slot : Nat
  code : BitVec 16
  detail : BitVec 16
  saw : Option Saw := none
  deriving DecidableEq, Repr

/-- A fault raised by a register write or at the local port: slot, code, detail, bundle, and the core-local word consumed. -/
structure LateFault where
  slot : Nat
  code : BitVec 16
  detail : BitVec 16
  pc : Word
  btag : Byte
  saw : Option Saw
  deriving DecidableEq, Repr

/-- Control state of a core (R171, R189, R266, R304). -/
structure Ctl where
  pc : Word
  /-- PC and tag of the bundle being issued -/
  curPc : Word
  btag : Byte
  /-- the header G bit of the bundle being issued -/
  g : Bool
  /-- target set by a taken transfer, a loop, TRAP or ERET of the bundle being issued -/
  npc : Option Word
  trap : Bool
  trapRet : Word
  replay : Bool
  replayRet : Word
  /-- bundles issued since the last group mark -/
  since : Nat
  /-- the next bundle is a group mark (R189, R293) -/
  mark : Bool
  /-- the first cycle in which the next bundle may issue -/
  ready : Nat
  wait : Option Wait
  /-- PCs of bundles that the controller has released and that have not issued since: their break is ignored (R381) -/
  brkDone : List Word
  /-- first free cycle of each busy unit (R184) -/
  busyS : Nat
  busyV0 : Nat
  busyV1 : Nat
  busyX : Nat
  busyPort : Nat
  latchEpoch : Nat
  /-- the first cycle in which the core has not yet come up for issue -/
  turn : Nat
  /-- how exec treats a slot operation: alone, or as part of a bundle in its check or issue pass -/
  pass : Pass
  /-- faults the check pass of the bundle found, and whether a poisoned register is read -/
  found : List FoundFault
  reads : List (Nat × Mark)
  /-- faults that a register write raised, not yet taken: a marked word covered in part (R399), or the
  mark of a late load with an error reply cleared (R422) -/
  late : List LateFault
  deriving DecidableEq, Repr

/-- The answer to an engine's read of a line of another node or of the host, kept until its command has used it: an error's
code and DETAIL, or the bytes (R277, R346, R447). -/
structure Got where
  cmd : Nat
  line : Nat
  host : Bool
  code : BitVec 16
  detail : BitVec 16
  bytes : List Byte
  deriving DecidableEq, Repr

/-- Engines of a core. -/
structure Engines where
  mn : Vector Word 9
  pcw : Vector Word 16
  act : Option MCmd
  pend : Option MCmd
  blk : Block
  standby : Block
  standbyLoaded : Bool
  /-- the cycle in which the standby block became loaded, and in which the active one became active or its
  command did (R159) -/
  standbyAt : Nat
  blkAt : Nat
  /-- a load of the B FIFO's first block under way, and its last cycle -/
  loading : Option Nat
  afifo : List ARow
  bfifo : List Block
  cq : List CopyCmd
  oc4 : BitVec 16
  oc5 : BitVec 16
  ds4 : Word
  dd4 : Word
  ds5 : Word
  dd5 : Word
  shadow : List Shadow
  got : List Got
  /-- the next group sum of the array meets a residue mismatch (R170) -/
  residue : Bool
  /-- CPY and CHST commands issued since the last SWAPB (R408) -/
  hist : List CopyCmd
  /-- commands complete, and those also waited on, whose writes are unpublished -/
  complete : List Done
  waited : List Nat
  /-- Hadamard and recirculation have no state; the next command number -/
  nextCmd : Nat
  cidx : BitVec 16
  tokens : Vector (BitVec 8) 16
  deriving DecidableEq, Repr

/-- Curd metadata and dictionary banks (R94, R99). -/
structure Curd where
  summary : BitVec 32
  hdr : Vector (BitVec 32) 512
  dict0 : Vector Line 16
  dict1 : Vector Line 16
  bank : Bool
  flip : Bool
  /-- bytes that a DICTLD has read and not yet written to its bank (R310) -/
  load : List Byte
  deriving DecidableEq, Repr

/-- What a core does with its task: none here; runs it; halted for pre-emption; being restored (R55 to R58). -/
inductive CoreMode where
  | free | running | halted | resuming
  deriving DecidableEq, Repr

/-- One core. -/
structure Core where
  regs : Regs
  sys : SysRegs
  ctl : Ctl
  loops : Loops
  flight : List Landing
  port : List PortEntry
  track : Vector (Option Track) 16
  /-- poisoned physical scalar registers (R265) -/
  poison : BitVec 64
  pend : List Access
  nextAcc : Nat
  /-- reply of the waiting load: code, detail, value -/
  ldwReply : Option (BitVec 16 × BitVec 16 × Word)
  eng : Engines
  curd : Curd
  spad : Memory
  side : Memory
  /-- core-local words and registers with an uncorrectable error (R399) -/
  marks : List Mark
  phase : Option Phase
  /-- BSPs issued, by scope (R60) -/
  bsps : Vector Nat 4
  /-- what the core does: it is idle, runs a task, or is halted (R58, R60) -/
  mode : CoreMode
  /-- task running here -/
  task : Option Nat
  /-- context of the last task (R47) -/
  lastAsid : Option (BitVec 13)
  preempt : Option Nat
  yieldF : Option Nat
  /-- an error that the save microcode met has been answered by a rollback: the save reads on over it (R420) -/
  saveOver : Bool
  /-- instruction buffer (R22): bundles fetched, by VA -/
  ibuf : List (Word × Line)
  /-- control-store bank in use, and a load not yet switched to (R315) -/
  csBank : Bool
  csPending : Bool
  retired : Bool
  /-- DTIMEs of severity-1 machine checks (R416) -/
  checks : List Nat
  deriving DecidableEq, Repr

/-- Task states (R58). -/
inductive TState where
  | running | halting | saved | resuming | ended | cancelled | killed
  deriving DecidableEq, Repr

/-- A task that has started (R58); `status` is its record's status (R405). -/
structure Task where
  id : Nat
  region : Nat
  ord : Nat
  core : Nat
  st : TState
  /-- tasks of its gang or together region, in rank order -/
  peers : List Nat
  /-- tasks of its gang, in rank order -/
  gang : List Nat
  late : Bool
  status : Byte
  fcount : Nat
  fcode : BitVec 16
  /-- output entries reserved, filled in order -/
  outBase : Nat
  outLeft : Nat
  inEntry : Option Nat
  /-- published weight-store writes before it started: it sees those alone (R328) -/
  wseen : Nat
  deriving DecidableEq, Repr

/-- The fields in force at a node (R35, R36, R38). -/
structure Force where
  cores : Nat
  spadb : Nat
  sideb : Nat
  quota : Nat
  prio : BitVec 3
  dies : BitVec 4
  kill : Bool
  killNode : Nat
  asid : BitVec 13
  hbase : Word
  hlim : Word
  hoff : Word
  hattr : Word
  ptroot : Word
  sec : Bool
  entry : Word
  ndim : Nat
  ext0 : Nat
  ext1 : Nat
  ext2 : Nat
  ring : Byte
  taskRec : Bool
  stageRec : Bool
  minc : Nat
  maxc : Nat
  gang : Nat
  enqn : Nat
  deriving DecidableEq, Repr

/-- Queue slots that are not free (R42, R43): reserved for a task; filled by an ENQ that issued with
access number `upto` and before command `cmd`; filled and available; taken by a task. -/
inductive QSlot where
  | reserved (task : Nat) | filled (task upto cmd : Nat) | avail | taken (task : Nat)
  deriving DecidableEq, Repr

/-- A queue known to the hub, by descriptor DPA. -/
structure Queue where
  desc : Nat
  logcap : Nat
  qbase : Nat
  /-- next entry to reserve -/
  tail : Nat
  /-- entries not free, by entry number -/
  slots : List (Nat × QSlot)
  deriving DecidableEq, Repr

/-- Region states (R62): 0 launched, 1 running, 2 draining, 3 complete. -/
structure Region where
  id : Nat
  launch : Nat
  rcb : Nat
  gran : BitVec 2
  parent : Option Nat
  /-- 0 leaf, 1 pipeline, 2 group -/
  kind : Nat
  stage : Option Nat
  depth : Nat
  together : Bool
  inq : Nat
  outq : Nat
  f : Force
  effdl : Nat
  cil : Bool
  arrival : Nat
  tag : Word
  rring : Byte
  st : Nat
  late : Bool
  /-- next coordinate (linear); the status of the tasks it will no longer start (R52, R413); passed-over count, and
  when it reached 64 -/
  next : Nat
  cancelled : Option Byte
  passed : Nat
  passedAt : Nat
  tstart : Nat
  tdone : Nat
  status : Byte
  fcount : Nat
  fcode : BitVec 16
  spawner : Option Nat
  recorded : Bool
  deriving DecidableEq, Repr

/-- A record waiting to be written (R65, R68): its ring, bytes and how it counts. -/
structure Rec where
  ring : Byte
  bytes : List Byte
  /-- two slots (fault and service records) -/
  wide : Bool
  /-- a service record of this task, or none -/
  service : Option Nat
  /-- the region it reports on; regions whose records come first; tasks whose accesses come first (R65) -/
  owner : Option Nat
  covers : List Nat
  tasks : List Nat
  deriving DecidableEq, Repr

/-- The CTIME, CVEC and CCNT that govern a record: those its ring had when it was written (R69). -/
structure Govern where
  time : BitVec 32
  vec : BitVec 16
  cnt : Byte
  deriving DecidableEq, Repr

/-- A ring descriptor (R66). -/
structure Ring where
  ctail : BitVec 32
  chead : BitVec 32
  cdrop : BitVec 32
  ctime : BitVec 32
  cdev : Bool
  cen : Bool
  cvec : BitVec 16
  ccnt : Byte
  clog : BitVec 5
  cbase : Dpa
  /-- pending records, the DTIME of the oldest, and what governs the oldest and the newest (R67, R69) -/
  pending : Nat
  oldest : Nat
  first : Govern
  last : Govern
  deriving DecidableEq, Repr

/-- An outstanding service record (R432). -/
structure Service where
  ring : Byte
  slot : Nat
  task : Nat
  cmd : Option Nat
  info : FaultInfo
  deriving DecidableEq, Repr

/-- Frame pools (R382). -/
structure Pool where
  rbase : Dpa
  log : BitVec 5
  tail : BitVec 32
  head : BitVec 32
  deriving DecidableEq, Repr

/-- Page states of a migration engine (R89). -/
inductive MigState where
  | pending | copying | dwell (until_ : Nat)
  deriving DecidableEq, Repr

/-- Who asked for a migration. -/
inductive MigWho where
  | cmd (core cmd : Nat) | host (i : BitVec 2)
  deriving DecidableEq, Repr

/-- A page under move. -/
structure Mig where
  engine : Nat
  leaf : Nat
  old : Dpa
  new : Dpa
  gran : BitVec 2
  oldG : BitVec 2
  relay : Bool
  who : MigWho
  asid : BitVec 13
  st : MigState
  deriving DecidableEq, Repr

/-- A request not yet taken by an engine. -/
structure MigReq where
  who : MigWho
  ptroot : Word
  va : Nat
  far : Bool
  gran : BitVec 2
  relay : Bool
  asid : BitVec 13
  inHeap : Bool
  quota : Nat
  deriving DecidableEq, Repr

/-- A host migration request register (R384). -/
structure MigReg where
  va : BitVec 30
  tier : Bool
  g : BitVec 2
  op : Bool
  asid : BitVec 13
  busy : Bool
  code : BitVec 32
  root : BitVec 40
  deriving DecidableEq, Repr

/-- A multicast group entry (R352) and the member's and sequencer's state for it (R355, R445). -/
structure Group where
  wbase : Dpa
  wlen : BitVec 32
  applied : BitVec 32
  nextseq : BitVec 32
  seqnode : BitVec 10
  mbase : BitVec 10
  mmask : BitVec 10
  wg : BitVec 2
  mem : Bool
  v : Bool
  gap : Bool
  /-- stores held, by sequence number: offset and bytes -/
  held : List (BitVec 32 × BitVec 32 × List Byte)
  /-- last reports received at the sequencer with their DTIMEs, and members given up (R446) -/
  reports : List (BitVec 10 × BitVec 32 × Nat)
  lost : List (BitVec 10)
  /-- stores waiting at the sequencer for a stamp: issuer, offset, bytes and expiry (R441) -/
  queue : List (BitVec 10 × BitVec 32 × List Byte × Nat)
  /-- the entry has lost V: a store still in flight to it is a gap (R445) -/
  lostV : Bool
  sinceReport : Nat
  /-- DTIMEs: when V was set, of the last application or report, and since when a store waits out of turn -/
  since : Nat
  appliedAt : Nat
  waitAt : Nat
  /-- NEXTSEQ − 1 when V was set: APPLIED of a member that has not reported -/
  start : BitVec 32
  deriving DecidableEq, Repr

/-- A router port (R341 to R344, R439, R440). -/
structure Port where
  up : Bool
  /-- the channel from which the next return of slots looks on (R344) -/
  cursor : Nat
  /-- the flit sent last -/
  last : Option Flit
  credit : Vector Nat 8
  txSeq : BitVec 12
  rxSeq : BitVec 12
  ackSeen : BitVec 12
  retry : List Flit
  /-- flits held by the receiver and slots to return -/
  rx : List Flit
  owe : Vector Nat 8
  /-- how often flits of the retry buffer have been replayed, by SEQ (R440) -/
  tries : List (BitVec 12 × Nat)
  /-- DTIMEs of retrains that have failed, newest first -/
  failedTrains : List Nat
  /-- the receiver has asked for a replay that has not arrived (R439) -/
  asked : Bool
  /-- three retrains have failed: the port stays down until software relabels it (R440) -/
  down : Bool
  /-- channels whose message is being discarded, until its tail (R441) -/
  skip : List (BitVec 3)
  tx : BitVec 64
  rxn : BitVec 64
  deriving DecidableEq, Repr

/-- A line this node owns (R350), or one of its own lines another node owns. -/
structure Owned where
  dpa : Nat
  /-- the owner's coordinate when this node is home; none when this node is the owner -/
  owner : Option (BitVec 10)
  g : BitVec 2
  bytes : List Byte
  /-- the home has asked for it back -/
  recalled : Bool
  deriving DecidableEq, Repr

/-- What a message of this module to another node carries (R341): a request or multicast store of one of its accesses; a
stamped store; a recall, a returned line, a granted line; a response; a report of APPLIED. -/
inductive MsgBody where
  | access (core id : Nat)
  | stamped (g : BitVec 12) (n off : BitVec 32) (bs : List Byte)
  | recall (line : Nat)
  | line (line : Nat) (bytes : List Byte)
  | grant (line : Nat) (bytes : List Byte)
  | reply (code detail : BitVec 16) (v : Nat)
  | report (g : BitVec 12) (applied : BitVec 32)
  /-- to the neighbour of a port: the last SEQ received intact there (R439) -/
  | retry (port : Nat) (seq : BitVec 12)
  /-- to the neighbour of a port that retrains: the free slots of each channel there (R440) -/
  | counts (port : Nat) (free : List Nat)
  /-- the reference's DTIME (R388) -/
  | time (dtime : Word)
  deriving DecidableEq, Repr

/-- A message to another node: destination, channel and lane (R341, R345). -/
structure Msg where
  dst : BitVec 10
  vc : BitVec 3
  lane : BitVec 4
  body : MsgBody
  deriving DecidableEq, Repr

/-- A request of another node that waits at this home; an atomic with the contention counter it met (R349). -/
inductive Held where
  | req (r : RemoteReq)
  | atom (a : RemoteAtom) (c : Nat)
  deriving DecidableEq, Repr

/-- A host CXL.mem access that waits for a line to come back (R350). -/
inductive HostMem where
  | read (hdm : BitVec 40) (n : Nat)
  | write (hdm : BitVec 40) (bytes : List Byte)
  deriving DecidableEq, Repr

/-- A host-window descriptor (R363) and its unpublished lines (R364). -/
structure Window where
  vaddr : Word
  vcur : Word
  dbase : Dpa
  len : BitVec 24
  hdmoff : BitVec 22
  g : BitVec 2
  sec : Bool
  en : Bool
  deriving DecidableEq, Repr

/-- A byte the host still sees in its published version: the key, its published value, and the task whose write is
not yet published (R364). -/
structure Unpub where
  key : Nat
  old : Byte
  task : Option Nat
  deriving DecidableEq, Repr

/-- A leaf entry that the TLB of compute die `die` holds (R79): its context, its level (0 to 2), the number of its page
there, its DPA, and the entry. -/
structure Tlb where
  die : Nat
  asid : BitVec 13
  lvl : Nat
  page : Nat
  ea : Dpa
  entry : Word
  deriving DecidableEq, Repr

/-- A saved task (R56): the whole core as it halted. -/
structure Saved where
  core : Nat
  depth : Nat
  task : Nat
  image : Core
  deriving DecidableEq, Repr

/-- Fabric state. -/
structure Fabric where
  node : BitVec 10
  ndim : BitVec 4
  qreq : Bool
  fq : Bool
  portmap : BitVec 48
  ports : Vector Port 12
  cthresh : Byte
  hmbase : BitVec 25
  groups : List (BitVec 12 × Group)
  /-- contention counters by frame key (R347) -/
  counters : List (Nat × Byte)
  owned : List Owned
  /-- lines of this node that something here waits for while another node owns them (R350) -/
  asked : List Nat
  /-- the value of the next atomic that this home performs for another node is lost on its way into the response (R442) -/
  replyLost : Bool
  /-- writes of the hub to such a line, applied when it has come back: DPA, granule and bytes -/
  patches : List (Dpa × BitVec 2 × List Byte)
  /-- messages that have left for other nodes, oldest first, and those that wait for a credit, a port or the end of a
  quiesce; requests of this module await their replies in core.pend -/
  sent : List Msg
  out : List Msg
  /-- requests of other nodes held at this home, during a recall or a quiesce, in the order they came -/
  held : List Held
  /-- DTIME has taken its first step to the reference; the DTIME of the last slew; what the clock still holds
  back, in units of 1/189 ns (R388) -/
  trained : Bool
  syncAt : Nat
  slow : Nat
  /-- multiples of 16,000 ns at which the counters have been halved (R347) -/
  halved : Nat
  deriving DecidableEq, Repr

/-- Host side (R360 to R373, R447). -/
structure HostPort where
  up : Bool
  mem : Memory
  written : List Nat
  windows : Vector Window 64
  unpub : List Unpub
  /-- task and window of every store that no publication has covered yet (R300) -/
  wrote : List (Option Nat × Nat)
  ide : Bool
  spdm : Bool
  /-- MSI-X vectors raised -/
  msix : List (BitVec 16)
  /-- answers to host CXL.mem accesses: data bytes and the poison indication -/
  answers : List (List Byte × Bool)
  /-- CXL.mem accesses that wait, oldest first -/
  waiting : List HostMem
  responses : List (List Byte)
  deriving DecidableEq, Repr

/-- What decoding a unit gives: good data; an error corrected; an error detected; wrong data taken for good (R424). -/
inductive Decoded where
  | clean | corrected | wrong | failed
  deriving DecidableEq, Repr

/-- Who reads a unit that is found uncorrectable: a core of this module, another node or the host, or nobody (R406, R425). -/
inductive Consumer where
  | core (n : Nat) | outside | nobody
  deriving DecidableEq, Repr

/-- Hub state (R30 to R70, R374 to R387). -/
structure Hub where
  drst : BitVec 4
  din : BitVec 4
  stage : BitVec 4
  /-- step 0 is complete, the boot ROM has run; and a boot step failed (R377, R451) -/
  rom : Bool
  bootFailed : Bool
  /-- an error of the hub or of a path that every die uses: the module has given up every context (R397, R398) -/
  fatal : Bool
  /-- writes of the launch aperture dropped, and reported, for their size (R361) -/
  apertureDrops : Nat
  savebase : Word
  dbgEn : Bool
  dbgAsid : BitVec 13
  pools : Vector Pool 8
  migregs : Vector MigReg 4
  plim : BitVec 12
  stby : Bool
  clk : BitVec 2
  pst : BitVec 2
  stepUs : Vector Nat 4
  /-- DTIMEs from which the clock is lowered, and raised, by the next step: none while its condition does not hold (R386) -/
  hotAt : Option Nat
  coolAt : Option Nat
  /-- DTIME of the last patrol of every unit (R426) -/
  patrolAt : Nat
  /-- the latest readings of the power and temperature telemetry, by register offset (R389) -/
  sensed : List (Nat × Word)
  /-- hits and misses of each near die's memory-side buffer (R389) -/
  msbHit : Vector Nat 8
  msbMiss : Vector Nat 8
  seccl : BitVec 8
  /-- secure regions, near die k entry i at 16·k + i -/
  regions : Vector Word 128
  rings : Vector Ring 256
  recs : List Rec
  services : List Service
  launches : Nat
  arrivals : Nat
  /-- launch packets that wait for a line of their tree to come back from another node, and whether each came through
  the aperture, with their arrival numbers (R33, R350) -/
  inbox : List (Line × Bool × Nat)
  regs : List Region
  tasks : List Task
  queues : List Queue
  decisions : Nat
  saves : List Saved
  migq : List MigReq
  migs : List Mig
  lostFar : BitVec 4
  /-- dies whose rind has closed and whose weight store is given up (R418, R438) -/
  rind : BitVec 4
  wLost : BitVec 4
  /-- contained dies that failed the self-test of their release, until DRST is set again (R419) -/
  failedTest : BitVec 4
  /-- WCSLD loads since reset (measurement index 8) and measurements 1–7 (R378) -/
  wcslds : Nat
  measures : Vector (BitVec 256) 8
  /-- machine-check records kept by the management controller, newest last (R407) -/
  mclog : List (List Byte)
  mcCount : List (Nat × Nat)
  /-- what decoding the units that the hub and the walkers read has found, for its next action to report: granule, key and
  finding (R406, R424) -/
  found : List (BitVec 2 × Nat × Decoded)
  /-- net near frames gained by CMIG, by ASID (R287) -/
  quotaUsed : List (BitVec 13 × Int)
  /-- cores reserved for a gang or together region (R48) -/
  reserved : List (Nat × Nat)
  /-- tasks reported to the management controller as stopped: core, PC, BTAG (R316, R381) -/
  stops : List (Nat × Word × Byte)
  deriving DecidableEq, Repr

/-- One turn of the agenda: what happens next when more than one thing may (the manual fixes no
order), and everything that arrives from outside. -/
inductive Turn where
  | event (i : Instr)
  /-- the pending access number `id` of core `core` performs -/
  | perform (core id : Nat)
  | focus (core : Nat)
  /-- core `core` fetches the bundle at `va` into its instruction buffer before it is due (R22) -/
  | prefetch (core va : Nat)
  /-- the TLB of the die of core `core` takes the leaf that its context's walk of `va` reaches, or gives up its entry
  number `n`, counted over the module (R79) -/
  | tlbFill (core va : Nat)
  | tlbDrop (n : Nat)
  | tick
  /-- an error in a core-local structure (R399): unit code of R406, unit-local address, and whether it
  is corrected -/
  | upset (core unit addr : Nat) (corrected : Bool)
  /-- the hub, or a path that every die uses, fails (R398) -/
  | hubFails
  /-- an uncorrectable error in the response path of the home's remote atomics (R442) -/
  | replyLost
  /-- bits of a stored byte of a memory die go wrong (R424) -/
  | flip (key : Nat) (bits : Byte)
  /-- a near die's memory-side buffer takes a line, gives one up, or finds an error in one (R16, R428) -/
  | bufTake (line : Nat)
  | bufDrop (line : Nat)
  | bufUpset (line : Nat) (corrected : Bool)
  /-- a reading of the power or temperature telemetry (R389) -/
  | sense (reg : Nat) (v : Word)
  /-- core `core` comes up for issue while accesses of its own wait (R335) -/
  | issue (core : Nat)
  /-- the beats that wait at the local port of core `core` perform up to three cycles late (R335) -/
  | portLag (core n : Nat)
  /-- a port sends an idle flit (R343) -/
  | linkSlot (port : Nat)
  /-- the response to read `id` of an engine of core `core` comes in: an error's code and DETAIL, or the line (R346, R447) -/
  | engineReply (core id : Nat) (code detail : BitVec 16) (line : List Byte)
  /-- the time reference sends its DTIME to another node (R388) -/
  | timeBase (dst : BitVec 10)
  /-- the host writes host memory; reads BAR0, or the launch aperture; or writes the aperture in another size than 64
  bytes (R30, R361, R367) -/
  | hostMemory (a : Nat) (bs : List Byte)
  | barRead (off n : Nat)
  | apertureRead (n : Nat)
  | apertureWrite (n : Nat)
  deriving DecidableEq, Repr

/-- The state of the module. -/
structure State where
  /-- the core in focus: cluster · 64 + index -/
  cur : Nat
  core : Core
  /-- every other core that differs from its reset state, by number -/
  parked : List (Nat × Core)
  /-- memory of N0–N7 and F0–F3: key die · 2^39 + die-local offset -/
  mem : Memory
  /-- poisoned units: key and size (R425) -/
  poison : List (Nat × Nat)
  /-- bits of stored bytes that the cells hold in error, by key (R424) -/
  flips : Memory
  /-- 1 + the granule under which the check bits of a 32-byte block were last written, by key / 32; 0 since reset under
  none (R86) -/
  codes : Memory
  /-- 64-byte lines that the near dies' memory-side buffers hold, by key / 64, and whether they are modified (R16, R428) -/
  buf : List (Nat × Bool)
  /-- the weight store of each compute die (R104) -/
  wstore : Vector Memory 4
  /-- weight-store words marked uncorrectable, by die (R399) -/
  wmarks : List (Nat × Nat)
  /-- published weight-store writes in order: die, offset and the byte replaced (R328) -/
  wlog : List (Nat × Nat × Byte)
  /-- leaf entries that the TLBs hold (R79) -/
  tlb : List Tlb
  hub : Hub
  fab : Fabric
  host : HostPort
  /-- PCYC (R24) -/
  pcyc : Nat
  /-- DTIME in units of 1/189 ns (R25, R386) -/
  dsub : Nat
  /-- the next free value's number: the model's own -/
  fresh : Nat
  agenda : List Turn
  deriving DecidableEq, Repr

/-- Why the model stops with a fault. -/
inductive Fault where
  /-- raised by the memory operations of Ops: an access by DPA to an offset beyond the range that R81
  gives its die code. The manual forbids it to software and gives no outcome. Safe: the run stops. -/
  | noSuchMemory
  deriving DecidableEq, Repr

/-- Why the model refuses. -/
inductive Refusal where
  /-- an instruction without a meaning yet; raised by exec only. Safe: the run stops. -/
  | notModelled (mnemonic : String)
  deriving DecidableEq, Repr

/-! ### Reset values -/

def Regs.reset : Regs :=
  { s := Vector.replicate 64 0, p := (Vector.replicate 16 false).set 0 true,
    h := Vector.replicate 32 0, k := (Vector.replicate 8 0).set 0 (BitVec.allOnes 512),
    a := Vector.replicate 256 0, b := Vector.replicate 8 none }

def SysRegs.reset : SysRegs :=
  { asid := 0, sec := false, heapbase := 0, heaplim := 0, heapoff := 0, heapattr := 0, ptroot := 0,
    tcoord := 0, rcbptr := 0, rpladdr := 0, trapaddr := 0, status := 0, rrbs := 0, rrba := 0,
    rrbp := 0 }

def LoopLvl.reset : LoopLvl :=
  { active := false, lc := 0, n := 0, begun := 0, isR := false, start := 0, len := 0, desc := none }

def Loops.reset : Loops :=
  { l0 := LoopLvl.reset, l1 := LoopLvl.reset, l2 := LoopLvl.reset, buf := [], le := 0 }

def Ctl.reset : Ctl :=
  { pc := 0, curPc := 0, btag := 0, g := false, npc := none, trap := false, trapRet := 0,
    replay := false, replayRet := 0, since := 0, mark := true, ready := 0, wait := none,
    brkDone := [], busyS := 0, busyV0 := 0, busyV1 := 0, busyX := 0, busyPort := 0,
    latchEpoch := 0, turn := 0, pass := .alone,
    found := [], reads := [], late := [] }

/-- The all-zero weight block of a task start (R47, R289). -/
def Block.zero : Block :=
  { k := 0, n := 0, size := 0, codes := [], scales := [], mus := [], cmd := none, pos := 0,
    bad := false }

def Engines.reset : Engines :=
  { mn := Vector.replicate 9 0, pcw := Vector.replicate 16 0, act := none, pend := none,
    blk := Block.zero, standby := Block.zero, standbyLoaded := false, standbyAt := 0, blkAt := 0, loading := none, afifo := [], bfifo := [],
    cq := [], oc4 := 0, oc5 := 0, ds4 := 0, dd4 := 0, ds5 := 0, dd5 := 0, shadow := [], got := [], residue := false,
    hist := [], complete := [], waited := [], nextCmd := 0, cidx := 0, tokens := Vector.replicate 16 0 }

/-- Summary bits 1; header entries at their Reset column: PLAIN = 1, LEN = 0x80, START = 0 (R94). -/
def Curd.reset : Curd :=
  { summary := BitVec.allOnes 32, hdr := Vector.replicate 512 0x80800000#32,
    dict0 := Vector.replicate 16 0, dict1 := Vector.replicate 16 0, bank := false, flip := false, load := [] }

def Core.reset : Core :=
  { regs := Regs.reset, sys := SysRegs.reset, ctl := Ctl.reset, loops := Loops.reset, flight := [],
    port := [], track := Vector.replicate 16 none, poison := 0, pend := [], nextAcc := 0,
    ldwReply := none, eng := Engines.reset, curd := Curd.reset, spad := [], side := [], marks := [],
    phase := none, bsps := Vector.replicate 4 0, mode := .free, task := none,
    lastAsid := none, preempt := none, yieldF := none, saveOver := false, ibuf := [], csBank := false,
    csPending := false, retired := false, checks := [] }

def Ring.reset : Ring :=
  { ctail := 0, chead := 0, cdrop := 0, ctime := 0, cdev := false, cen := false, cvec := 0, ccnt := 1,
    clog := 4, cbase := 0, pending := 0, oldest := 0, first := ⟨0, 0, 1⟩, last := ⟨0, 0, 1⟩ }

def Pool.reset : Pool := { rbase := 0, log := 4, tail := 0, head := 0 }

def MigReg.reset : MigReg :=
  { va := 0, tier := false, g := 0, op := false, asid := 0, busy := false, code := 0, root := 0 }

def Port.reset : Port :=
  { up := false, cursor := 0, last := none, credit := Vector.replicate 8 0, txSeq := 0, rxSeq := 0, ackSeen := 0, retry := [],
    rx := [], owe := Vector.replicate 8 0, tries := [], failedTrains := [], asked := false, down := false, skip := [], tx := 0, rxn := 0 }

/-- A group entry at its Reset column: NEXTSEQ 1, the rest zero (R352). -/
def Group.reset : Group :=
  { wbase := 0, wlen := 0, applied := 0, nextseq := 1, seqnode := 0, mbase := 0, mmask := 0, wg := 0,
    mem := false, v := false, gap := false, held := [], reports := [], lost := [], queue := [], lostV := false,
    sinceReport := 0, since := 0, appliedAt := 0, waitAt := 0,
    start := 0 }

def Window.reset : Window :=
  { vaddr := 0, vcur := 0, dbase := 0, len := 0, hdmoff := 0, g := 0, sec := false, en := false }

def Fabric.reset : Fabric :=
  { node := 0, ndim := 0, qreq := false, fq := false, portmap := 0xFF9876543210,
    ports := Vector.replicate 12 Port.reset, cthresh := 0x40, hmbase := 0, groups := [],
    counters := [], owned := [], asked := [], replyLost := false, patches := [], sent := [], out := [], held := [],
    trained := false, syncAt := 0, slow := 0, halved := 0 }

def HostPort.reset : HostPort :=
  { up := false, mem := [], written := [], windows := Vector.replicate 64 Window.reset, unpub := [], wrote := [],
    ide := false, spdm := false, msix := [], answers := [], waiting := [], responses := [] }

def Hub.reset : Hub :=
  { drst := 0, din := 0, stage := 0, rom := false, bootFailed := false, fatal := false, apertureDrops := 0, savebase := 0, dbgEn := false, dbgAsid := 0,
    pools := Vector.replicate 8 Pool.reset, migregs := Vector.replicate 4 MigReg.reset,
    plim := 0x960, stby := false, clk := 0, pst := 0, stepUs := Vector.replicate 4 0, hotAt := none, coolAt := none,
    patrolAt := 0, sensed := [],
    msbHit := Vector.replicate 8 0, msbMiss := Vector.replicate 8 0,
    seccl := 0, regions := Vector.replicate 128 0, rings := Vector.replicate 256 Ring.reset,
    recs := [], services := [], launches := 0, arrivals := 0, inbox := [], regs := [], tasks := [], queues := [],
    decisions := 0, saves := [], migq := [], migs := [], lostFar := 0, rind := 0, wLost := 0, failedTest := 0,
    wcslds := 0, measures := Vector.replicate 8 0, mclog := [], mcCount := [], found := [], quotaUsed := [],
    reserved := [], stops := [] }

/-- The module right after a module reset (R376, R377): every register at its Reset value, all memory
zero, boot stage 0, no task. -/
def State.reset : State :=
  { cur := 0, core := Core.reset, parked := [], mem := [], poison := [], flips := [], codes := [], buf := [],
    wstore := Vector.replicate 4 [], wmarks := [], wlog := [], tlb := [], hub := Hub.reset, fab := Fabric.reset, host := HostPort.reset,
    pcyc := 0, dsub := 0, fresh := 0, agenda := [] }

end Sys2Proof.Machine
end

