-- ==== Sys2Proof/Machine/Flags.lean ====
section
/-! DEFINITION. Values, rounding and the five status flags: the helpers of R110 to R130, R137 that
every unit shares. A value is an exact dyadic number, an infinity or NaN; a flag set is the low five
bits of STATUS (R138). -/

namespace Sys2Proof.Machine

/-! ### Flag bits (R138) -/

def flagINV : BitVec 5 := 1
def flagOVF : BitVec 5 := 2
def flagUDF : BitVec 5 := 4
def flagINX : BitVec 5 := 8
def flagNAN : BitVec 5 := 16

/-- A flag set from one condition. -/
def flagIf (b : Bool) (f : BitVec 5) : BitVec 5 := if b then f else 0

/-! ### Values -/

/-- A value: NaN, ±Inf, or (−1)^neg · mag · 2^exp, with the sign of a zero kept (R111). -/
inductive Val where
  | nan
  | inf (neg : Bool)
  | fin (neg : Bool) (mag : Nat) (exp : Int)
  deriving DecidableEq, Repr

def Val.zero : Val := .fin false 0 0

def Val.ofInt (i : Int) : Val := .fin (decide (i < 0)) i.natAbs 0

def Val.isNan : Val → Bool
  | .nan => true
  | _ => false

def Val.isInf : Val → Bool
  | .inf _ => true
  | _ => false

def Val.isZero : Val → Bool
  | .fin _ 0 _ => true
  | _ => false

def Val.neg? : Val → Bool
  | .inf n => n
  | .fin n _ _ => n
  | .nan => false

def Val.abs : Val → Val
  | .nan => .nan
  | .inf _ => .inf false
  | .fin _ m e => .fin false m e

def Val.negate : Val → Val
  | .nan => .nan
  | .inf n => .inf (!n)
  | .fin n m e => .fin (!n) m e

/-- Multiplication by 2^k, exact. -/
def Val.scale (k : Int) : Val → Val
  | .fin n m e => .fin n m (e + k)
  | v => v

/-- floor(log2 |v|) of a nonzero finite value. -/
def Val.expo : Val → Int
  | .fin _ m e => (Nat.log2 m : Int) + e
  | _ => 0

/-- The value as an integer count of 2^e, for e not above its exponent. -/
def Val.units (e : Int) : Val → Int
  | .fin n m x => let k : Int := (m <<< (x - e).toNat : Nat); if n then -k else k
  | _ => 0

def Val.exp? : Val → Int
  | .fin _ m e => if m = 0 then 0 else e
  | _ => 0

/-- Comparison of real values: zeros of both signs are equal. Infinities at the ends; not for NaN. -/
def Val.cmpReal (a b : Val) : Ordering :=
  match a, b with
  | .inf n, .inf m => if n = m then .eq else if n then .lt else .gt
  | .inf n, _ => if n then .lt else .gt
  | _, .inf n => if n then .gt else .lt
  | a, b =>
    let e := if a.isZero then b.exp? else if b.isZero then a.exp? else min a.exp? b.exp?
    compare (a.units e) (b.units e)

/-- The order of R117: −0 below +0. Not for NaN. -/
def Val.cmpTotal (a b : Val) : Ordering :=
  match cmpReal a b with
  | .eq => if a.neg? = b.neg? then .eq else if a.neg? then .lt else .gt
  | o => o


/-- Exact sum under a rounding mode (the mode decides the sign of an exact zero, R112); +Inf + −Inf
sets INV (R130). -/
def addVal (rm : RMode) (a b : Val) : Val × BitVec 5 :=
  match a, b with
  | .nan, _ => (.nan, 0)
  | _, .nan => (.nan, 0)
  | .inf n, .inf m => if n = m then (.inf n, 0) else (.nan, flagINV)
  | .inf n, _ => (.inf n, 0)
  | _, .inf n => (.inf n, 0)
  | .fin n m x, .fin n' m' x' =>
    if m = 0 ∧ m' = 0 then
      (.fin (if n = n' then n else decide (rm = .rdn)) 0 0, 0)
    else if m = 0 then (.fin n' m' x', 0)
    else if m' = 0 then (.fin n m x, 0)
    else
      let e := min x x'
      let t := Val.units e (.fin n m x) + Val.units e (.fin n' m' x')
      if t = 0 then (.fin (decide (rm = .rdn)) 0 0, 0)
      else (.fin (decide (t < 0)) t.natAbs e, 0)

/-- Exact product; 0 × ±Inf sets INV (R130). -/
def mulVal (a b : Val) : Val × BitVec 5 :=
  match a, b with
  | .nan, _ => (.nan, 0)
  | _, .nan => (.nan, 0)
  | .inf n, b => if b.isZero then (.nan, flagINV) else (.inf (n != b.neg?), 0)
  | a, .inf n => if a.isZero then (.nan, flagINV) else (.inf (n != a.neg?), 0)
  | .fin n m x, .fin n' m' x' => (.fin (n != n') (m * m') (if m * m' = 0 then 0 else x + x'), 0)

/-! ### Rounding (R110, R112) -/

/-- mag · 2^exp rounded to a whole number of 2^e: the count and whether it is inexact. -/
def roundUnits (rm : RMode) (neg : Bool) (mag : Nat) (exp e : Int) : Nat × Bool :=
  if e ≤ exp then (mag <<< (exp - e).toNat, false)
  else
    let sh := (e - exp).toNat
    let q := mag >>> sh
    let r := mag - (q <<< sh)
    let half := 1 <<< (sh - 1)
    let up := match rm with
      | .rne => decide (half < r) || (decide (r = half) && decide (q % 2 = 1))
      | .rz => false
      | .rdn => neg && decide (r ≠ 0)
      | .rup => !neg && decide (r ≠ 0)
    (if up then q + 1 else q, decide (r ≠ 0))

/-- A format with sign, eb exponent bits and mb fraction bits. -/
structure FloatFmt where
  eb : Nat
  mb : Nat
  bias : Nat
  deriving DecidableEq, Repr

def fp32F : FloatFmt := ⟨8, 23, 127⟩
def bf16F : FloatFmt := ⟨8, 7, 127⟩
def fp16F : FloatFmt := ⟨5, 10, 15⟩
def e4m3F : FloatFmt := ⟨4, 3, 7⟩
def e5m2F : FloatFmt := ⟨5, 2, 15⟩
def e3m2F : FloatFmt := ⟨3, 2, 3⟩
def e2m3F : FloatFmt := ⟨2, 3, 1⟩
def e2m1F : FloatFmt := ⟨2, 1, 1⟩

def FloatFmt.width (f : FloatFmt) : Nat := 1 + f.eb + f.mb

/-- Sign bit in place. -/
def FloatFmt.sign (f : FloatFmt) (neg : Bool) : Nat := if neg then 1 <<< (f.eb + f.mb) else 0

/-- Decode by the finite rules: subnormal when e = 0, hidden bit otherwise (R113, R118). -/
def FloatFmt.decFin (f : FloatFmt) (c : Nat) : Val :=
  let m := c % 2 ^ f.mb
  let e := (c >>> f.mb) % 2 ^ f.eb
  let neg := decide ((c >>> (f.eb + f.mb)) % 2 = 1)
  if e = 0 then .fin neg m (if m = 0 then 0 else 1 - (f.bias : Int) - f.mb)
  else .fin neg (2 ^ f.mb + m) ((e : Int) - f.bias - f.mb)

/-- Decode with an all-ones exponent as Inf or NaN (R113, and E5M2 of R118). -/
def FloatFmt.decode (f : FloatFmt) (c : Nat) : Val :=
  let m := c % 2 ^ f.mb
  let e := (c >>> f.mb) % 2 ^ f.eb
  if e = 2 ^ f.eb - 1 then
    (if m = 0 then .inf (decide ((c >>> (f.eb + f.mb)) % 2 = 1)) else .nan)
  else f.decFin c

/-- Code of q · 2^e, where q < 2^(mb+1) and e ≥ 1 − bias − mb, q < 2^mb only at the lowest e. -/
def FloatFmt.enc (f : FloatFmt) (neg : Bool) (q : Nat) (e : Int) : Nat :=
  f.sign neg + (if q < 2 ^ f.mb then q else
    let e' := (e + f.mb + f.bias).toNat
    (e' <<< f.mb) + (q - 2 ^ f.mb))

/-- The code of ±Inf and the canonical NaN (R116). -/
def FloatFmt.infCode (f : FloatFmt) (neg : Bool) : Nat :=
  f.sign neg + ((2 ^ f.eb - 1) <<< f.mb)
def FloatFmt.nanCode (f : FloatFmt) : Nat :=
  ((2 ^ f.eb - 1) <<< f.mb) + 2 ^ (f.mb - 1)
/-- The code of ±MaxFin of an IEEE format. -/
def FloatFmt.maxCode (f : FloatFmt) (neg : Bool) : Nat :=
  f.sign neg + ((2 ^ f.eb - 2) <<< f.mb) + (2 ^ f.mb - 1)

/-- RoundTo onto FP32, BF16 or FP16, with Encode, and the flags of R130 (R112). -/
def FloatFmt.round (f : FloatFmt) (rm : RMode) (v : Val) : Nat × BitVec 5 :=
  match v with
  | .nan => (f.nanCode, 0)
  | .inf n => (f.infCode n, 0)
  | .fin n m x =>
    if m = 0 then (f.sign n, 0)
    else
      let emin : Int := 1 - (f.bias : Int)
      let top := max ((Nat.log2 m : Int) + x) emin
      let e := top - f.mb
      let (q, inx) := roundUnits rm n m x e
      let (q, e) := if q = 2 ^ (f.mb + 1) then (2 ^ f.mb, e + 1) else (q, e)
      if (f.bias : Int) < e + f.mb then
        let code := match rm with
          | .rne => f.infCode n
          | .rz => f.maxCode n
          | .rdn => if n then f.infCode n else f.maxCode n
          | .rup => if n then f.maxCode n else f.infCode n
        (code, flagOVF ||| flagINX)
      else
        (f.enc n q e,
          flagIf inx flagINX ||| flagIf (inx && decide (q ≠ 0) && decide (q < 2 ^ f.mb)) flagUDF)

/-- RoundTo integer (R110): the integer and whether it is inexact; not for NaN or Inf. -/
def roundInt (rm : RMode) (v : Val) : Int × Bool :=
  match v with
  | .fin n m x => let (q, i) := roundUnits rm n m x 0; (if n then -(q : Int) else q, i)
  | _ => (0, false)

/-- A value to an integer range by R129: nearest end when out of range, NaN to 0; INX, INV. -/
def valToInt (rm : RMode) (lo hi : Int) (v : Val) : Int × BitVec 5 :=
  match v with
  | .nan => (0, flagINV)
  | .inf n => (if n then lo else hi, flagINV)
  | v =>
    let (i, inx) := roundInt rm v
    if i < lo then (lo, flagINV) else if hi < i then (hi, flagINV) else (i, flagIf inx flagINX)

/-! ### Special functions (R137) -/

/-- Newton's integer square root from above. -/
def isqrtGo : Nat → Nat → Nat → Nat
  | 0, _, x => x
  | fuel + 1, n, x => let y := (x + n / x) / 2; if x ≤ y then x else isqrtGo fuel n y

/-- floor(√n). -/
def isqrt (n : Nat) : Nat := if n = 0 then 0 else isqrtGo 600 n (2 ^ (Nat.log2 n / 2 + 1))

/-- 1/v of a nonzero finite value, kept to 40 bits and a sticky bit below them. -/
def rcpVal (n : Bool) (m : Nat) (e : Int) : Val :=
  let k := Nat.log2 m + 40
  let q := 2 ^ k / m
  .fin n (2 * q + if q * m = 2 ^ k then 0 else 1) (-e - k - 1)

/-- 1/√v of a positive value, with a sticky bit. -/
def rsqrtVal (m : Nat) (e : Int) : Val :=
  let (m, e) := if e % 2 = 0 then (m, e) else (2 * m, e - 1)
  let k := Nat.log2 m / 2 + 42
  let q := isqrt (2 ^ (2 * k) / m)
  .fin false (2 * q + if q * q * m = 2 ^ (2 * k) then 0 else 1) (-(e / 2) - k - 1)

/-- 2^(r/2^k) for the bits of r from the top, in fixed point of 256 fraction bits: c is 2^(2^-i). -/
def exp2Go : Nat → Nat → Nat → Nat → Nat
  | 0, _, _, acc => acc
  | k + 1, r, c, acc =>
    let c' := isqrt (c <<< 256)
    exp2Go k r c' (if (r >>> k) % 2 = 1 then (acc * c') >>> 256 else acc)

/-- 2^v of a finite value: exact for integers, otherwise with a sticky bit. -/
def exp2Val (v : Val) : Val :=
  match v with
  | .fin n m x =>
    if m = 0 then .fin false 1 0
    else if 2 ^ 12 ≤ m <<< x.toNat ∧ 0 ≤ x ∨ 12 < (Nat.log2 m : Int) + x then
      .fin false 3 (if n then -5000 else 5000)
    else if 0 ≤ x then
      .fin false 1 (if n then -((m <<< x.toNat : Nat) : Int) else ((m <<< x.toNat : Nat) : Int))
    else if (Nat.log2 m : Int) + x < -40 then
      .fin false (if n then 2 ^ 64 - 1 else 2 ^ 64 + 1) (-64)
    else
      let k := (-x).toNat
      let t : Int := if n then -(m : Int) else m
      let i := t / (2 ^ k : Nat)
      let r := (t - i * (2 ^ k : Nat)).toNat
      if r = 0 then .fin false 1 i
      else .fin false (2 * exp2Go k r (2 <<< 256) (1 <<< 256) + 1) (i - 257)
  | v => v

/-- Fraction bits of log2 y, y in [1, 2) with 320 fraction bits, by repeated squaring. -/
def log2Go : Nat → Nat → Nat → Nat
  | 0, _, acc => acc
  | k + 1, y, acc =>
    let z := (y * y) >>> 320
    if 2 ^ 321 ≤ z then log2Go k (z >>> 1) (2 * acc + 1) else log2Go k z (2 * acc)

/-- log2 of a positive value: exact for powers of two, otherwise with a sticky bit. -/
def log2Val (m : Nat) (e : Int) : Val :=
  let l := Nat.log2 m
  if m = 2 ^ l then Val.ofInt (l + e)
  else
    let f := log2Go 120 ((m <<< 320) >>> l) 0
    let t : Int := (l + e) * (2 ^ 120 : Nat) + f
    if 0 ≤ t then .fin false (2 * t.toNat + 1) (-121)
    else .fin true (2 * (-t).toNat - 1) (-121)

/-- VSFU's exact function and the INV flag of the special cases (R137). -/
def sfuVal (f : SfuFn) (v : Val) : Val × BitVec 5 :=
  match f, v with
  | _, .nan => (.nan, 0)
  | .exp2, .inf n => (if n then .fin false 0 0 else .inf false, 0)
  | .exp2, v => (exp2Val v, 0)
  | .log2, .inf n => if n then (.nan, flagINV) else (.inf false, 0)
  | .log2, .fin n m e =>
    if m = 0 then (.inf true, 0) else if n then (.nan, flagINV) else (log2Val m e, 0)
  | .rcp, .inf n => (.fin n 0 0, 0)
  | .rcp, .fin n m e => if m = 0 then (.inf n, 0) else (rcpVal n m e, 0)
  | .rsqrt, .inf n => if n then (.nan, flagINV) else (.fin false 0 0, 0)
  | .rsqrt, .fin n m e =>
    if m = 0 then (.inf n, 0) else if n then (.nan, flagINV) else (rsqrtVal m e, 0)

end Sys2Proof.Machine
end

