-- ==== Sys2Proof/Machine/Operands.lean ====
section
/-! DEFINITION. Operand forms as pure functions: lanes and rows (R9, R177), formats and their codes
(R107, R113 to R127), the group quantisers (R123, R126), conversions (R129), scalar helpers (R203 to
R214), reductions and scans (R135, R136), matrix sums (R131 to R134, R147). -/

namespace Sys2Proof.Machine

/-! ### Lanes and rows -/

/-- Element i of width w of a row (R9). -/
def lane (v : RowVal) (i w : Nat) : Nat := (v.toNat >>> (i * w)) % 2 ^ w

/-- The number whose w-bit digits from lane i on are f i, f (i+1), … -/
def packGo (w : Nat) (f : Nat → Nat) : Nat → Nat → Nat
  | 0, _ => 0
  | n + 1, i => f i % 2 ^ w + (packGo w f n (i + 1) <<< w)

/-- The row of n lanes of width w. -/
def mkRow (n w : Nat) (f : Nat → Nat) : RowVal := BitVec.ofNat 4096 (packGo w f n 0)

/-- A list of w-bit digits as a number, first lowest. -/
def packList (w : Nat) (l : List Nat) : Nat := l.foldr (fun x acc => x % 2 ^ w + (acc <<< w)) 0

/-- Bytes as a little-endian number (R2). -/
def leNat (bs : List Byte) : Nat := packList 8 (bs.map BitVec.toNat)

/-- n little-endian bytes of a number. -/
def leBytes : Nat → Nat → List Byte
  | 0, _ => []
  | n + 1, v => BitVec.ofNat 8 v :: leBytes n (v >>> 8)

/-- A row's bit mask for a lane mask k at lane width w (R187). -/
def laneMask (k : Line) (w : Nat) : RowVal :=
  mkRow (4096 / w) w (fun i => if k.getLsbD i then 2 ^ w - 1 else 0)

/-- Bits of `m` from `v`, the others from `old`. -/
def mergeRow (old v m : RowVal) : RowVal := (old &&& ~~~m) ||| (v &&& m)

def typeW : VType → Nat
  | .f32 | .i32 | .n32 => 32
  | .bf16 | .i16 => 16
  | .i8 | .n8 => 8
  | .i64 => 64

def typeFloat : VType → Bool
  | .f32 | .bf16 => true
  | _ => false

def typeSigned : VType → Bool
  | .i32 | .i16 | .i8 | .i64 => true
  | _ => false

def laneWN : LaneW → Nat
  | .w32 => 32
  | .w16 => 16
  | .w8 => 8
  | .w64 => 64

/-- Two's complement reading of a w-bit pattern. -/
def toS (w c : Nat) : Int := if 2 ^ (w - 1) ≤ c then (c : Int) - 2 ^ w else c

/-- Trunc of an integer to w bits. -/
def trunc (w : Nat) (x : Int) : Nat := (x % (2 ^ w : Nat)).toNat

/-- The range of an integer type. -/
def intLo (sgn : Bool) (w : Nat) : Int := if sgn then -(2 ^ (w - 1) : Nat) else 0
def intHi (sgn : Bool) (w : Nat) : Int := if sgn then (2 ^ (w - 1) : Nat) - 1 else (2 ^ w : Nat) - 1

def clamp (lo hi x : Int) : Int := if x < lo then lo else if hi < x then hi else x

/-! ### Formats -/

/-- FormatBits of R107. -/
def fmtBits : Fmt → Nat
  | .fp32 | .int32 | .n32 => 32
  | .bf16 | .fp16 | .int16 | .n16 => 16
  | .e4m3 | .e5m2 | .mxint8 | .px9 | .int8 | .n8 | .bytes => 8
  | .e3m2 | .e2m3 => 6
  | .e2m1 => 4
  | .px6 => 5
  | .px4 => 3
  | .int64 => 64

/-- Integer formats: signedness and width. -/
def fmtInt : Fmt → Option (Bool × Nat)
  | .int8 => some (true, 8)
  | .int16 => some (true, 16)
  | .int32 => some (true, 32)
  | .int64 => some (true, 64)
  | .n8 => some (false, 8)
  | .n16 => some (false, 16)
  | .n32 => some (false, 32)
  | _ => none

/-- Magnitude bits m of a PX format (R124). -/
def pxBits : Fmt → Nat
  | .px9 => 7
  | .px6 => 4
  | _ => 2

/-- The float layout of a floating format. -/
def fmtFloat : Fmt → FloatFmt
  | .fp32 => fp32F
  | .bf16 => bf16F
  | .fp16 => fp16F
  | .e4m3 => e4m3F
  | .e5m2 => e5m2F
  | .e3m2 => e3m2F
  | .e2m3 => e2m3F
  | _ => e2m1F

def gsN : GSize → Nat
  | .g32 => 32
  | .g64 => 64
  | .g128 => 128

/-- Group length: 16 for PX, the MX group size otherwise. -/
def groupLen (f : Fmt) (g : Nat) : Nat := if fmtPx f then 16 else g

/-- Decode of an element code without its scale; `mu` matters for PX only (R113 to R127, R131). -/
def decodeElem (f : Fmt) (c mu : Nat) : Val :=
  match f with
  | .fp32 => fp32F.decode c
  | .bf16 => bf16F.decode c
  | .fp16 => fp16F.decode c
  | .e4m3 => if c % 128 = 127 then .nan else e4m3F.decFin c
  | .e5m2 => e5m2F.decode c
  | .e3m2 => e3m2F.decFin c
  | .e2m3 => e2m3F.decFin c
  | .e2m1 => e2m1F.decFin c
  | .mxint8 => (Val.ofInt (toS 8 c)).scale (-6)
  | .px9 | .px6 | .px4 =>
    let m := pxBits f
    .fin (decide ((c >>> m) % 2 = 1)) (c % 2 ^ m) (-(mu : Int) - (m - 1 : Nat))
  | .int8 => Val.ofInt (toS 8 c)
  | .int16 => Val.ofInt (toS 16 c)
  | .int32 => Val.ofInt (toS 32 c)
  | .int64 => Val.ofInt (toS 64 c)
  | .n8 | .n16 | .n32 | .bytes => Val.ofInt c

/-- Decode with a scale or E code (R122, R124): 0xFF is NaN; formats without scales ignore it. -/
def decodeScaled (f : Fmt) (c sc mu : Nat) : Val :=
  if fmtMx f || fmtPx f then
    (if sc = 0xFF then .nan else (decodeElem f c mu).scale ((sc : Int) - 127))
  else decodeElem f c mu

/-- Emax of an MX format (R118, R119). -/
def emaxOf : Fmt → Int
  | .e4m3 => 8
  | .e5m2 => 15
  | .e3m2 => 4
  | .e2m3 => 2
  | .e2m1 => 2
  | _ => 0

/-- MaxFin of an MX floating format as (count, exponent). -/
def maxFinOf : Fmt → Nat × Int
  | .e4m3 => (14, 5)
  | .e5m2 => (7, 13)
  | .e3m2 => (7, 2)
  | .e2m3 => (15, -1)
  | _ => (3, 1)

/-- SatToFormat(RoundRne(y)) and Encode of an MX element: code and inexactness (R111, R112). -/
def encMx (f : Fmt) (y : Val) : Nat × Bool :=
  match y with
  | .fin n m x =>
    if m = 0 then (0, false)
    else if f = .mxint8 then
      let (q, i) := roundUnits .rne n m x (-6)
      let v : Int := if n then -(q : Int) else q
      let c := clamp (-128) 127 v
      (trunc 8 c, i || decide (c ≠ v))
    else
      let ff := fmtFloat f
      let top := min (max ((Nat.log2 m : Int) + x) (1 - (ff.bias : Int))) (emaxOf f)
      let e := top - ff.mb
      let (q, i) := roundUnits .rne n m x e
      let (mq, me) := maxFinOf f
      -- both on the finer grid, to compare with MaxFin
      if mq <<< (me - e).toNat < q then (ff.enc n mq me, true)
      else
        let (q, e) := if q = 2 ^ (ff.mb + 1) then (2 ^ ff.mb, e + 1) else (q, e)
        (if q = 0 then 0 else ff.enc n q e, i)
  | _ => (0, false)

/-- A quantised group: its scale or E code, μ bits, codes and flags. -/
structure QGroup where
  sc : Nat
  mus : List Nat
  codes : List Nat
  fl : BitVec 5
  deriving DecidableEq, Repr

/-- The largest magnitude of a list of finite values. -/
def maxAbs (l : List Val) : Val :=
  l.foldl (fun m v => if Val.cmpReal m v.abs = .lt then v.abs else m) Val.zero

/-- X of the quantisers, clamped, with UDF and OVF (R123, R126). -/
def quantX (x : Int) : Int × BitVec 5 :=
  if x < -127 then (-127, flagUDF) else if 127 < x then (127, flagOVF) else (x, 0)

/-- QuantMx (R123). -/
def quantMx (f : Fmt) (xs : List Val) : QGroup :=
  if xs.any (fun v => v.isNan || v.isInf) then ⟨0xFF, [], xs.map (fun _ => 0), flagNAN⟩
  else
    let mx := maxAbs xs
    if mx.isZero then ⟨0x7F, [], xs.map (fun _ => 0), 0⟩
    else
      let (x, fl) := quantX (mx.expo - emaxOf f)
      let r := xs.map (fun v => encMx f (v.scale (-x)))
      ⟨(x + 127).toNat, [], r.map Prod.fst, fl ||| flagIf (r.any Prod.snd) flagINX⟩

/-- One PX element of R126. -/
def encPx (m : Nat) (x : Int) (mu : Nat) (v : Val) : Nat × Bool :=
  let (q, i) := match v.abs.scale ((m : Int) - 1 - x + mu) with
    | .fin _ a e => roundUnits .rne false a e 0
    | _ => (0, false)
  let mag := min q (2 ^ m - 1)
  ((if v.neg? && decide (mag ≠ 0) then 2 ^ m else 0) + mag, i || decide (mag ≠ q))

/-- μ of pair p (R126). -/
def pxMu (x : Int) (a b : Val) : Nat :=
  if Val.cmpReal (maxAbs [a, b]) (.fin false 1 x) = .lt then 1 else 0

/-- μ bits of a block, one per pair. -/
def pxMus (x : Int) : List Val → List Nat
  | a :: b :: rest => pxMu x a b :: pxMus x rest
  | _ => []

/-- QuantPx (R126). -/
def quantPx (f : Fmt) (xs : List Val) : QGroup :=
  if xs.any (fun v => v.isNan || v.isInf) then
    ⟨0xFF, List.replicate 8 0, xs.map (fun _ => 0), flagNAN⟩
  else
    let mx := maxAbs xs
    if mx.isZero then ⟨0x7F, List.replicate 8 0, xs.map (fun _ => 0), 0⟩
    else
      let (x, fl) := quantX mx.expo
      let mus := pxMus x xs
      let r := xs.zipIdx.map (fun (v, i) => encPx (pxBits f) x (mus.getD (i / 2) 0) v)
      ⟨(x + 127).toNat, mus, r.map Prod.fst, fl ||| flagIf (r.any Prod.snd) flagINX⟩

/-- Cut a list into groups of g (the last may be short). -/
def groupsOf (g : Nat) : Nat → List α → List (List α)
  | 0, _ => []
  | fuel + 1, l => if l.isEmpty then [] else l.take g :: groupsOf g fuel (l.drop g)

/-- A run of elements with its scales: per group of `gs` for MX, per block of 16 for PX (μ 8 per block). -/
structure Elems where
  fmt : Fmt
  g : Nat
  codes : List Nat
  scales : List Nat
  mus : List Nat
  deriving DecidableEq, Repr

def Elems.scaleAt (e : Elems) (i : Nat) : Nat := e.scales.getD (i / groupLen e.fmt e.g) 0
def Elems.muAt (e : Elems) (i : Nat) : Nat := e.mus.getD (i / 2) 0

/-- The values with scale. -/
def Elems.vals (e : Elems) : List Val :=
  e.codes.zipIdx.map (fun (c, i) => decodeScaled e.fmt c (e.scaleAt i) (e.muAt i))

/-- Encode values into a format without scales (R129): source integers wrap or saturate, others round. -/
def encPlain (f : Fmt) (srcInt : Bool) (rm : RMode) (sat : Bool) (v : Val) : Nat × BitVec 5 :=
  match fmtInt f with
  | some (sgn, w) =>
    if srcInt then
      let x := (roundInt .rne v).1
      (trunc w (if sat then clamp (intLo sgn w) (intHi sgn w) x else x), 0)
    else
      let (x, fl) := valToInt rm (intLo sgn w) (intHi sgn w) v
      (trunc w x, fl)
  | none => (fmtFloat f).round rm v

/-- Flags joined over a list. -/
def joinFlags (l : List (BitVec 5)) : BitVec 5 := l.foldl (· ||| ·) 0

/-- Values into a format: plain element by element, MX and PX by group quantisers (R123, R126, R129). -/
def encodeElems (f : Fmt) (g : Nat) (srcInt : Bool) (rm : RMode) (sat : Bool) (vs : List Val) :
    Elems × BitVec 5 :=
  if fmtMx f || fmtPx f then
    let qs := (groupsOf (groupLen f g) (vs.length + 1) vs).map
      (fun x => if fmtMx f then quantMx f x else quantPx f x)
    (⟨f, g, (qs.map QGroup.codes).flatten, qs.map QGroup.sc, (qs.map QGroup.mus).flatten⟩,
      joinFlags (qs.map QGroup.fl))
  else
    let r := vs.map (encPlain f srcInt rm sat)
    (⟨f, g, r.map Prod.fst, [], []⟩, joinFlags (r.map Prod.snd))

/-- A conversion of R129 over a run. The same format without scales copies the bits; the same MX or PX
format and group size, whole groups onto whole groups, copies as stored. -/
def convElems (e : Elems) (f : Fmt) (g : Nat) (rm : RMode) (sat : Bool) : Elems × BitVec 5 :=
  if e.fmt = f ∧ (groupLen f g = groupLen e.fmt e.g ∨ ¬ (fmtMx f ∨ fmtPx f)) then (e, 0)
  else encodeElems f g (fmtInt e.fmt).isSome rm sat e.vals

/-! ### Scalar helpers (R203, R206 to R214) -/

/-- Narrow (R203). -/
def narrow (m : AMode) (x : Int) : Word :=
  BitVec.ofInt 64 (match m with
    | .wrap => x
    | .sat => clamp (intLo true 64) (intHi true 64) x
    | .satn => clamp 0 (intHi false 64) x)

/-- An operand read per R203: unsigned under m = 2, signed otherwise. -/
def readM (m : AMode) (v : Word) : Int :=
  match m with
  | .satn => v.toNat
  | _ => v.toInt

/-- Carry-less product of two w-bit patterns (R206, R235). -/
def clmulGo (x y : Nat) : Nat → Nat
  | 0 => 0
  | n + 1 => clmulGo x y n ^^^ (if (y >>> n) % 2 = 1 then x <<< n else 0)

def clmul (w x y : Nat) : Nat := clmulGo x y w

/-- Quotient and remainder of R207. -/
def divRem (sgn : Bool) (x y : Int) : Int × Int :=
  if y = 0 then (-1, x)
  else if sgn ∧ x = -(2 ^ 63 : Int) ∧ y = -1 then (-(2 ^ 63 : Int), 0)
  else (x.tdiv y, x.tmod y)

/-- Shifts by any amount (R210, R231), on w-bit patterns. -/
def shlN (w x n : Nat) : Nat := if w ≤ n then 0 else (x <<< n) % 2 ^ w
def shrN (w x n : Nat) : Nat := if w ≤ n then 0 else x >>> n
def sarN (w x n : Nat) : Nat := trunc w (toS w x / (2 ^ (min n w) : Nat))

def rolN (x n : Nat) : Nat := let k := n % 64; ((x <<< k) ||| (x >>> (64 - k))) % 2 ^ 64

/-- Field f of R212 (bits beyond the word are zero). -/
def fieldOf (x pos len : Nat) : Nat := (x >>> pos) % 2 ^ len

/-- Zero bits above the highest 1 (R213, R236). -/
def clzN (w x : Nat) : Nat := if x = 0 then w else w - 1 - Nat.log2 x

def ctzGo : Nat → Nat → Nat
  | 0, _ => 0
  | n + 1, x => if x % 2 = 1 then 0 else 1 + ctzGo n (x / 2)

def popcGo : Nat → Nat → Nat
  | 0, _ => 0
  | n + 1, x => x % 2 + popcGo n (x / 2)

def brevGo : Nat → Nat → Nat → Nat
  | 0, _, acc => acc
  | n + 1, x, acc => brevGo n (x / 2) (2 * acc + x % 2)

def bitWN : BitW → Nat
  | .w64 => 64
  | .w32 => 32
  | .w16 => 16
  | .w8 => 8

/-- Cond of R214. -/
def cond (c : CCond) (x y : Word) : Bool :=
  match c with
  | .eq => decide (x = y)
  | .ne => decide (x ≠ y)
  | .lt => decide (x.toInt < y.toInt)
  | .ge => decide (y.toInt ≤ x.toInt)
  | .ltn => decide (x.toNat < y.toNat)
  | .gen => decide (y.toNat ≤ x.toNat)
  | .le => decide (x.toInt ≤ y.toInt)
  | .gt => decide (y.toInt < x.toInt)
  | .len => decide (x.toNat ≤ y.toNat)
  | .gtn => decide (y.toNat < x.toNat)
  | .tst => decide (x &&& y ≠ 0)
  | .ntst => decide (x &&& y = 0)

/-! ### Handles (R106, R107, R108) -/

/-- Bits [hi:lo] of a handle as a number. -/
def hbits (h : Handle) (lo w : Nat) : Nat := (h.toNat >>> lo) % 2 ^ w

/-- Place of a handle field: lowest bit and width (R106, R218). -/
def hfieldAt : HField → Nat × Nat
  | .base => (0, 56)
  | .space => (56, 2)
  | .fmt => (58, 5)
  | .lay => (63, 1)
  | .ex0 => (64, 16)
  | .ex1 => (80, 16)
  | .ex2 => (96, 16)
  | .ex3 => (112, 16)
  | .st1 => (128, 32)
  | .st2 => (160, 32)
  | .st3 => (192, 32)
  | .side => (224, 20)
  | .gs => (244, 2)
  | .curd => (246, 1)
  | .off => (247, 9)

def hget (h : Handle) (f : HField) : Nat := hbits h (hfieldAt f).1 (hfieldAt f).2

/-- The bit mask of a field at (lo, w). -/
def hmask (lo w : Nat) : Handle := BitVec.ofNat 256 ((2 ^ w - 1) <<< lo)

/-- A handle with bits [lo + w − 1 : lo] replaced. -/
def hput (h : Handle) (lo w v : Nat) : Handle :=
  (h &&& ~~~hmask lo w) ||| (BitVec.ofNat 256 ((v % 2 ^ w) <<< lo) &&& hmask lo w)

/-- A stride as a signed integer. -/
def hstride (h : Handle) (f : HField) : Int := toS 32 (hget h f)

def hfmt (h : Handle) : Option Fmt := fmtOf (hget h .fmt)

/-- Group length of a handle's tensor. -/
def hgroup (h : Handle) : Nat :=
  match hget h .gs with
  | 0 => 32
  | 1 => 64
  | 2 => 128
  | _ => 16

/-- Elements of a handle. -/
def hcount (h : Handle) : Nat := hget h .ex0 * hget h .ex1 * hget h .ex2 * hget h .ex3

/-- Coordinates of element q, i0 fastest (R276). -/
def hcoord (h : Handle) (q : Nat) : Nat × Nat × Nat × Nat :=
  let e0 := hget h .ex0; let e1 := hget h .ex1; let e2 := hget h .ex2
  (q % e0, q / e0 % e1, q / e0 / e1 % e2, q / e0 / e1 / e2)

/-- ElemPlace of R107: byte address and bit position. -/
def elemPlace (h : Handle) (i0 i1 i2 i3 : Nat) : Int × Nat :=
  let w := match hfmt h with
    | some f => fmtBits f
    | none => 8
  let bit := (hget h .off + i0) * w
  ((hget h .base : Int) + (bit / 8 : Nat) + i1 * hstride h .st1 + i2 * hstride h .st2
    + i3 * hstride h .st3, bit % 8)

/-- PlanePlace of R107: address of plane j's line and the bit index in it. -/
def planePlace (h : Handle) (j i0 i1 i2 i3 : Nat) : Int × Nat :=
  ((hget h .base : Int) + 64 * (i1 * hstride h .st1 + i2 * hstride h .st2 + i3 * hstride h .st3 + j),
    hget h .off + i0)

/-- SideRecord of R107. -/
def sideRecord (h : Handle) (i1 i2 i3 : Nat) : Nat :=
  hget h .side + 128 * (i1 + hget h .ex1 * (i2 + hget h .ex2 * i3))

/-- The lowest and highest byte offset of a tensor from BASE, by the signs of its strides, where its first row runs
from byte `first` to byte `last`. -/
def hspan (h : Handle) (unit first last : Int) : Int × Int :=
  let part (f : HField) (e : Nat) : Int := unit * hstride h f * ((e : Int) - 1)
  let ps := [part .st1 (hget h .ex1), part .st2 (hget h .ex2), part .st3 (hget h .ex3)]
  (ps.foldl (fun a p => a + min p 0) first, ps.foldl (fun a p => a + max p 0) last)

/-- The size of a handle's space in bytes (R108). -/
def spaceSize (sp : Nat) : Nat :=
  match sp with
  | 0 => 2 ^ 48
  | 1 => 2 ^ 21
  | 2 => 2 ^ 27
  | _ => 2 ^ 29

/-- The first condition of R108 that fails, numbered from 1; none when the handle is legal. -/
def handleFault (h : Handle) : Option Nat :=
  match hfmt h with
  | none => some 1
  | some f =>
    let w := fmtBits f
    let plane := hget h .lay = 1
    let off := hget h .off
    let base := hget h .base
    let size := spaceSize (hget h .space)
    let ex := [hget h .ex0, hget h .ex1, hget h .ex2, hget h .ex3]
    if ex.any (fun e => decide (e = 0)) then some 2
    else if size ≤ base then some 3
    else
      let (lo, hi) := if plane then hspan h 64 0 (64 * (w : Int) - 1)
        else hspan h 1 (off * w / 8 : Nat) (((off + hget h .ex0) * w - 1) / 8 : Nat)
      if (base : Int) + lo < 0 ∨ (size : Int) ≤ base + hi then some 4
      else if plane ∧ 262144 < hget h .side + 128 * (hget h .ex1 * hget h .ex2 * hget h .ex3) then
        some 5
      else if hget h .curd = 1 ∧ ¬ ((hget h .space = 1 ∨ hget h .space = 2) ∧ base % 4096 = 0) then
        some 6
      else if ¬ (if fmtPx f then hget h .gs = 3 else if fmtMx f then hget h .gs ≠ 3
          else hget h .gs = 0) then some 7
      else if ¬ plane ∧ (fmtPx f ∨ (off * w) % 8 ≠ 0 ∨ (8 ≤ w ∧ off ≠ 0)) then some 8
      else if plane ∧ ¬ (fmtPlane f ∧ base % 64 = 0 ∧ off + hget h .ex0 ≤ 512) then some 9
      else none

/-! ### Vector lanes (R226 to R251) -/

/-- The exact value of a lane. -/
def laneVal (ty : VType) (c : Nat) : Val :=
  match ty with
  | .f32 => fp32F.decode c
  | .bf16 => bf16F.decode c
  | _ => Val.ofInt (if typeSigned ty then toS (typeW ty) c else c)

def typeF (ty : VType) : FloatFmt :=
  match ty with
  | .bf16 => bf16F
  | _ => fp32F

/-- ToType of R226 for an integer type. -/
def toIntType (ty : VType) (sat : Bool) (x : Int) : Nat :=
  let w := typeW ty
  trunc w (if sat then clamp (intLo (typeSigned ty) w) (intHi (typeSigned ty) w) x else x)

/-- An integer lane's value. -/
def laneInt (ty : VType) (c : Nat) : Int := if typeSigned ty then toS (typeW ty) c else c

/-- Floating or integer result of an exact lane operation. -/
def arith (ty : VType) (md : VMode) (fl : RMode → Val × BitVec 5) (it : Int) : Nat × BitVec 5 :=
  if typeFloat ty then
    let (v, f1) := fl md.rm
    let (c, f2) := (typeF ty).round md.rm v
    (c, f1 ||| f2)
  else (toIntType ty md.sat it, 0)

/-- Minimum or maximum under R117; the NaN answer is canonical. -/
def pickLane (ty : VType) (max : Bool) (a b : Nat) : Nat :=
  if typeFloat ty then
    let x := laneVal ty a; let y := laneVal ty b
    if x.isNan || y.isNan then (typeF ty).nanCode
    else if Val.cmpTotal x y = (if max then .lt else .gt) then b else a
  else if max then (if laneInt ty a < laneInt ty b then b else a)
  else (if laneInt ty b < laneInt ty a then b else a)

/-- Identity of a reduction (R135, R243). -/
def identSum (ty : VType) : Nat := if typeFloat ty then (typeF ty).sign true else 0
def identMax (ty : VType) : Nat :=
  if typeFloat ty then (typeF ty).infCode true
  else trunc (typeW ty) (intLo (typeSigned ty) (typeW ty))
def identMin (ty : VType) : Nat :=
  if typeFloat ty then (typeF ty).infCode false
  else trunc (typeW ty) (intHi (typeSigned ty) (typeW ty))

/-- One addition step of a reduction or scan. -/
def addStep (ty : VType) (sat : Bool) (a b : Nat) : Nat × BitVec 5 :=
  arith ty ⟨.rne, sat⟩ (fun rm => addVal rm (laneVal ty a) (laneVal ty b)) (laneInt ty a + laneInt ty b)

/-- One level of TreeReduce. -/
def treeStep (op : Nat → Nat → Nat × BitVec 5) : List Nat → List Nat × BitVec 5
  | a :: b :: rest =>
    let (c, f) := op a b
    let (cs, fs) := treeStep op rest
    (c :: cs, f ||| fs)
  | l => (l, 0)

/-- TreeReduce (R135), at most `fuel` levels. -/
def treeReduce (op : Nat → Nat → Nat × BitVec 5) : Nat → List Nat → Nat × BitVec 5
  | 0, l => (l.headD 0, 0)
  | fuel + 1, l =>
    match l with
    | [a] => (a, 0)
    | l =>
      let (l', f) := treeStep op l
      let (r, f') := treeReduce op fuel l'
      (r, f ||| f')

/-- ScanSeq (R136): running results and flags of the enabled lanes. -/
def scanSeq (op : Nat → Nat → Nat × BitVec 5) (acc : Nat) : List Nat → List (Nat × BitVec 5)
  | [] => []
  | x :: xs => let (y, f) := op acc x; (y, f) :: scanSeq op y xs

/-! ### Matrix sums (R131 to R134, R145 to R147) -/

/-- Sign, significand, its width and its exponent unit of a weight or activation code (R145); NaN and
infinite codes give none. -/
def sigOf (f : Fmt) (c mu : Nat) : Option (Bool × Nat × Nat × Int) :=
  match decodeElem f c mu with
  | .fin n m x =>
    let w := match f with
      | .e2m1 | .px4 => 2
      | .e3m2 | .e5m2 => 3
      | .e2m3 | .e4m3 | .px6 => 4
      | .px9 => 7
      | _ => 8
    some (n, m, w, x)
  | _ => none

/-- Significand width w of a weight format (R145). -/
def sigWidth (f : Fmt) : Nat :=
  match f with
  | .e2m1 | .px4 => 2
  | .e3m2 | .e5m2 => 3
  | .e2m3 | .e4m3 | .px6 => 4
  | .px9 => 7
  | _ => 8

/-- TruncW: the significand bits of dropped steps set to 0 (R147). `keep j` says whether bit j, counted
from the most significant, stays. -/
def truncSig (w m : Nat) (keep : Nat → Bool) : Nat :=
  packGo 1 (fun i => if keep (w - 1 - i) then (m >>> i) % 2 else 0) w 0

def truncW (f : Fmt) (c mu : Nat) (keep : Nat → Bool) : Val :=
  match sigOf f c mu with
  | some (n, m, w, x) => .fin n (truncSig w m keep) x
  | none => decodeElem f c mu

/-- A product list's sum inside the 80-bit window (R132): the value and INX. -/
def windowSum (ps : List Val) : Val × BitVec 5 :=
  let nz := ps.filter (fun p => !p.isZero)
  if nz.isEmpty then (.fin false 0 0, 0)
  else
    let e := nz.foldl (fun m p => max m p.expo) (-100000)
    let u := e - 73
    let t : Int := nz.foldl (fun (acc : Int) p => match p with
      | .fin n m x => let (q, _) := roundUnits .rz n m x u; acc + (if n then -(q : Int) else q)
      | _ => acc) 0
    let ex := nz.any (fun p => match p with
      | .fin n m x => (roundUnits .rz n m x u).2
      | _ => false)
    -- the truncated parts could only cancel exactly if the sums agree
    let exact := (nz.foldl (fun acc p => (addVal .rne acc p).1) Val.zero)
    let tv := Val.fin (decide (t < 0)) t.natAbs u
    (if t = 0 then .fin false 0 0 else tv,
      flagIf (ex && decide (Val.cmpReal exact tv ≠ .eq)) flagINX)

/-- GroupSum (R132); scale codes as exponents, none for a NaN scale. -/
def groupSum (as bs : List Val) (sA sB : Option Int) : Val × BitVec 5 :=
  match sA, sB with
  | some x, some y =>
    if as.any Val.isNan || bs.any Val.isNan then (.nan, 0)
    else
      let prs := as.zip bs
      if prs.any (fun (a, b) => (a.isInf && b.isZero) || (a.isZero && b.isInf)) then (.nan, flagINV)
      else
        let ps := prs.map (fun (a, b) => (mulVal a b).1)
        let pos := ps.any (fun p => p.isInf && !p.neg?)
        let neg := ps.any (fun p => p.isInf && p.neg?)
        if pos && neg then (.nan, flagINV)
        else if pos then (.inf false, 0)
        else if neg then (.inf true, 0)
        else let (v, f) := windowSum ps; (v.scale (x + y), f)
  | _, _ => (.nan, 0)

/-- Accumulate (R134). -/
def accumulate (i32 : Bool) (c : Nat) (s : Val) : Nat × BitVec 5 :=
  if i32 then (trunc 32 (toS 32 c + (roundInt .rne s).1), 0)
  else
    let (v, f1) := addVal .rne (fp32F.decode c) s
    let (r, f2) := fp32F.round .rne v
    (r, f1 ||| f2)

end Sys2Proof.Machine
end

