-- ==== Sys2Proof/Machine/Ops.lean ====
section
/-! DEFINITION. The named operations every meaning is written over: memories, registers, results in
flight, translation, records and machine checks, and the two shared ways a task leaves its course:
taking a fault (R398, R401 to R413) and returning from replay or trap (R266, R305). -/

namespace Sys2Proof.Machine

/-! ### Memories -/

/-- The byte at an address; 0 where nothing is listed (R376). -/
def Memory.get : Memory → Nat → Byte
  | [], _ => 0
  | (k, v) :: rest, a => if k = a then v else if a < k then 0 else Memory.get rest a

/-- Write a byte, keeping the canonical form: a zero byte is not listed. -/
def Memory.set : Memory → Nat → Byte → Memory
  | [], a, v => if v = 0 then [] else [(a, v)]
  | (k, w) :: rest, a, v =>
    if k = a then (if v = 0 then rest else (a, v) :: rest)
    else if a < k then (if v = 0 then (k, w) :: rest else (a, v) :: (k, w) :: rest)
    else (k, w) :: Memory.set rest a v

/-- The canonical form: addresses strictly rising, no zero byte. -/
def Memory.wfFrom : Nat → Memory → Bool
  | _, [] => true
  | lo, (k, v) :: rest => decide (lo ≤ k) && decide (v ≠ 0) && Memory.wfFrom (k + 1) rest

def Memory.wf (m : Memory) : Bool := Memory.wfFrom 0 m

/-- n bytes from an address. -/
def Memory.read (m : Memory) : Nat → Nat → List Byte
  | _, 0 => []
  | a, n + 1 => m.get a :: Memory.read m (a + 1) n

/-- Store bytes from an address on. -/
def Memory.write (m : Memory) (a : Nat) : List Byte → Memory
  | [] => m
  | b :: bs => Memory.write (m.set a b) (a + 1) bs

/-! ### Parts of the state -/

/-- Change the core in focus. -/
def State.mc (s : State) (f : Core → Core) : State := { s with core := f s.core }
def State.mhub (s : State) (f : Hub → Hub) : State := { s with hub := f s.hub }
def State.mfab (s : State) (f : Fabric → Fabric) : State := { s with fab := f s.fab }
def State.mhost (s : State) (f : HostPort → HostPort) : State := { s with host := f s.host }
def Core.mctl (c : Core) (f : Ctl → Ctl) : Core := { c with ctl := f c.ctl }
def Core.meng (c : Core) (f : Engines → Engines) : Core := { c with eng := f c.eng }
def Core.mregs (c : Core) (f : Regs → Regs) : Core := { c with regs := f c.regs }

/-- A parked core, or its reset state when none is listed. -/
def parkedGet : List (Nat × Core) → Nat → Core
  | [], _ => Core.reset
  | (k, c) :: rest, n => if k = n then c else if n < k then Core.reset else parkedGet rest n

/-- Park a core; a core at its reset state is not listed. -/
def parkedSet : List (Nat × Core) → Nat → Core → List (Nat × Core)
  | [], n, c => if c = Core.reset then [] else [(n, c)]
  | (k, d) :: rest, n, c =>
    if k = n then (if c = Core.reset then rest else (n, c) :: rest)
    else if n < k then (if c = Core.reset then (k, d) :: rest else (n, c) :: (k, d) :: rest)
    else (k, d) :: parkedSet rest n c

/-- Any core of the module. -/
def State.getCore (s : State) (n : Nat) : Core := if n = s.cur then s.core else parkedGet s.parked n

/-- Replace any core of the module. -/
def State.setCore (s : State) (n : Nat) (c : Core) : State :=
  if n = s.cur then { s with core := c } else { s with parked := parkedSet s.parked n c }

def State.modCore (s : State) (n : Nat) (f : Core → Core) : State := s.setCore n (f (s.getCore n))

/-- Bring a core into focus. -/
def State.focus (s : State) (n : Nat) : State :=
  if n = s.cur then s
  else
    let c := parkedGet s.parked n
    { s with cur := n, core := c, parked := parkedSet (parkedSet s.parked n Core.reset) s.cur s.core }

/-- The next free value's number, and the state that has used it. -/
def State.draw (s : State) : Nat × State := (s.fresh, { s with fresh := s.fresh + 1 })

/-- Cluster and compute die of a core (R13, R19). -/
def clusterOf (core : Nat) : Nat := core / 64
def dieOf (core : Nat) : Nat := core / 128

/-- DTIME in ns (R25). -/
def State.ns (s : State) : Nat := s.dsub / 189
def State.dtime (s : State) : Word := BitVec.ofNat 64 s.ns

/-! ### Registers (R177, R178, R186) -/

def rotS (r : SysRegs) (i : SReg) : SReg :=
  if i.toNat < 48 then i else BitVec.ofNat 6 (48 + (i.toNat - 48 + r.rrbs.toNat) % 16)
def rotP (r : SysRegs) (i : PReg) : PReg :=
  if i.toNat < 8 then i else BitVec.ofNat 4 (8 + (i.toNat - 8 + r.rrbp.toNat) % 8)
def rotA (r : SysRegs) (i : Row) : Row :=
  if i.toNat < 192 then i else BitVec.ofNat 8 (192 + (i.toNat - 192 + r.rrba.toNat) % 64)

/-- A physical scalar register; s0 reads 0 (R10). -/
def Regs.getS (r : Regs) (i : SReg) : Word := if i = 0 then 0 else r.s[i.toNat]'(i.isLt)
/-- A physical predicate; p0 reads 1. -/
def Regs.getP (r : Regs) (i : PReg) : Bool := if i = 0 then true else r.p[i.toNat]'(i.isLt)
def Regs.getH (r : Regs) (i : HReg) : Handle := r.h[i.toNat]'(i.isLt)
/-- A lane mask; k0 reads all ones. -/
def Regs.getK (r : Regs) (i : KReg) : Line := if i = 0 then BitVec.allOnes 512 else r.k[i.toNat]'(i.isLt)
def Regs.getA (r : Regs) (i : Row) : RowVal := r.a[i.toNat]'(i.isLt)
def Regs.getB (r : Regs) (i : BitVec 3) : Option RowVal := r.b[i.toNat]'(i.isLt)

def Regs.setS (r : Regs) (i : SReg) (v : Word) : Regs :=
  if i = 0 then r else { r with s := r.s.set i.toNat v i.isLt }
def Regs.setP (r : Regs) (i : PReg) (v : Bool) : Regs :=
  if i = 0 then r else { r with p := r.p.set i.toNat v i.isLt }
def Regs.setH (r : Regs) (i : HReg) (v : Handle) : Regs := { r with h := r.h.set i.toNat v i.isLt }
def Regs.setK (r : Regs) (i : KReg) (v : Line) : Regs :=
  if i = 0 then r else { r with k := r.k.set i.toNat v i.isLt }
def Regs.setA (r : Regs) (i : Row) (v : RowVal) : Regs := { r with a := r.a.set i.toNat v i.isLt }
def Regs.setB (r : Regs) (i : BitVec 3) (v : Option RowVal) : Regs := { r with b := r.b.set i.toNat v i.isLt }

/-- Sreg and Preg of an operand name: renamed, then read (R202). -/
def State.sreg (s : State) (i : SReg) : Word := s.core.regs.getS (rotS s.core.sys i)
def State.preg (s : State) (i : PReg) : Bool := s.core.regs.getP (rotP s.core.sys i)
def State.hreg (s : State) (h : HReg) : Handle := s.core.regs.getH h
def State.kreg (s : State) (k : KReg) : Line := s.core.regs.getK k
/-- A row by name. -/
def State.arow (s : State) (r : Row) : RowVal := s.core.regs.getA (rotA s.core.sys r)

/-! ### Results in flight (R182, R183) -/

def slotNum : Slot → Nat
  | .s => 0 | .v0 => 1 | .v1 => 2 | .m => 3 | .x => 4 | .l => 5 | .w => 6 | .c => 7 | .y => 8

/-- Put a result in flight. -/
def State.land (s : State) (lat : Nat) (slot : Slot) (d : Dest) (fl : BitVec 5) : State :=
  s.mc (fun c => { c with flight := c.flight ++ [⟨s.pcyc + lat, slotNum slot, d, fl, c.ctl.curPc, c.ctl.btag⟩] })

/-- A scalar result of latency lat, in the physical register named at issue; none for s0 (R10). -/
def State.landS (s : State) (lat : Nat) (slot : Slot) (d : SReg) (v : Word) : State :=
  if d = 0 then s else s.land lat slot (.s (rotS s.core.sys d) v) 0

def State.landP (s : State) (lat : Nat) (slot : Slot) (d : PReg) (v : Bool) : State :=
  if d = 0 then s else s.land lat slot (.p (rotP s.core.sys d) v) 0

/-- A field of a handle result. -/
def State.landH (s : State) (lat : Nat) (slot : Slot) (h : HReg) (v m : Handle) : State :=
  s.land lat slot (.h h v m) 0

/-- A tracker entry after another write took its poisoned register: dropped on arrival, or free when the
reply is held (R265). -/
def dropTrack (r : SReg) : Option Track → Option Track
  | some t =>
    if t.reg = r ∧ t.late ∧ !t.drop then (match t.reply with
      | some _ => none
      | none => some { t with drop := true, cons := true })
    else some t
  | none => none

/-- What an error reply carries for its value: 0, or the core, counted from 1, and the address of the core-local word it
consumed. -/
def sawKey (core addr : Nat) : Nat := 2 ^ 32 * (core + 1) + addr
def sawOf (v : Nat) : Option Saw := if v = 0 then none else some ⟨some (v / 2 ^ 32 - 1), v % 2 ^ 32⟩

/-- The error that an entry so freed holds (R422). -/
def dropError (r : SReg) : Option Track → Option LateFault
  | some t =>
    if t.reg = r ∧ t.late ∧ !t.drop then (match t.reply with
      | some (code, v) => if code = 0 then none else some ⟨12, code, t.detail, t.pc, t.btag, sawOf v.toNat⟩
      | none => none)
    else none
  | none => none

/-- The unit that holds a word or register, and its address there (R406): a byte address, or for a register its kind · 256
and its number. -/
def Mark.place : Mark → Nat × Nat
  | .spad w => (0, 8 * w)
  | .side w => (1, 8 * w)
  | .row r w => (2, 512 * r.toNat + 8 * w)
  | .s r => (12, r.toNat)
  | .p r => (12, 256 + r.toNat)
  | .h r => (12, 512 + r.toNat)
  | .k r => (12, 768 + r.toNat)
  | .pcw n => (12, 1024 + n.toNat)
  | .mn n => (12, 1280 + n)
  | .latch n => (12, 1536 + n.toNat)
  | .outer l5 => (12, 1792 + if l5 then 1 else 0)
  | .lc n => (12, 2048 + n)

def Mark.addr (m : Mark) : Nat := m.place.2

/-- Whether a core-local word is marked (R399). -/
def Core.hasMark (c : Core) (m : Mark) : Bool := c.marks.contains m

def Core.unmark (c : Core) (m : Mark) : Core :=
  { c with marks := c.marks.filter (fun x => decide (x ≠ m)) }

/-- A write that covers a marked word only in part is a consumption at the slot of its writer (R399). -/
def Core.lateFault (c : Core) (f : LateFault) : Core :=
  { c with ctl := { c.ctl with late := c.ctl.late ++ [f] } }

/-- A write of a physical scalar register by an operation: the value, and the poison mark cleared. -/
def Core.writeS (c : Core) (r : SReg) (v : Word) : Core :=
  let c := { c with regs := c.regs.setS r v, marks := c.marks.filter (fun x => decide (x ≠ Mark.s r)) }
  if c.poison.getLsbD r.toNat then
    { c with poison := c.poison &&& ~~~(1#64 <<< r.toNat), track := c.track.map (dropTrack r),
             ctl := { c.ctl with late := c.ctl.late ++ c.track.toList.filterMap (dropError r) } }
  else c

/-- A masked write of a handle or lane mask under R399: whole, or refused when the register is marked. -/
def Core.partly (c : Core) (f : LateFault) (m : Mark) (whole : Bool) (wr : Core → Core) : Core :=
  if c.hasMark m && !whole then c.lateFault { f with saw := some ⟨none, m.addr⟩ } else (wr c).unmark m

/-- The bits of a row that marked words hold, and the words. -/
def wordBits (w : Nat) : RowVal := BitVec.ofNat 4096 ((2 ^ 64 - 1) <<< (64 * w))

/-- A masked row write: a marked word is cleared when covered whole, kept when covered in part (R399). -/
def Core.writeRow (c : Core) (f : LateFault) (r : Row) (v m : RowVal) : Core :=
  let bad := c.marks.filterMap (fun x => match x with
    | .row q w => if q = r then some w else none
    | _ => none)
  let part := bad.filter (fun w => decide (m &&& wordBits w ≠ 0) && decide (m &&& wordBits w ≠ wordBits w))
  let full := bad.filter (fun w => decide (m &&& wordBits w = wordBits w))
  let m := part.foldl (fun m w => m &&& ~~~wordBits w) m
  let c := { c with regs := c.regs.setA r (mergeRow (c.regs.getA r) v m),
                    phase := c.phase.map (fun p => { p with written := r :: p.written.filter (· ≠ r) }) }
  let c := full.foldl (fun c w => c.unmark (.row r w)) c
  match part with
  | [] => c
  | w :: _ => c.lateFault { f with saw := some ⟨none, (Mark.row r w).addr⟩ }

/-- The writable bits of a system register, and the whole register after a write (R179, R180). -/
def SysRegs.write (r : SysRegs) (n : SysReg) (v : Word) : SysRegs :=
  let priv := decide (r.asid = 0)
  let m48 : Word := 0x0000FFFFFFFC0000
  match n with
  | .heapbase => if priv then { r with heapbase := v &&& m48 } else r
  | .heaplim => if priv then { r with heaplim := v &&& m48 } else r
  | .heapoff => if priv then { r with heapoff := v &&& 0xFFFFFFFFFFFC0000 } else r
  | .heapattr => if priv then { r with heapattr := v &&& 0x3F } else r
  | .ptroot => if priv then { r with ptroot := v &&& 0x001FFFFFFFFFE000 } else r
  | .rpladdr => { r with rpladdr := v &&& 0x0000FFFFFFFFFFC0 }
  | .trapaddr => { r with trapaddr := v &&& 0x0000FFFFFFFFFFC0 }
  | .status => { r with status := v.extractLsb' 0 5 }
  | .rrbs => { r with rrbs := v.extractLsb' 0 4 }
  | .rrba => { r with rrba := v.extractLsb' 0 6 }
  | .rrbp => { r with rrbp := v.extractLsb' 0 3 }
  | .ctxid | .tcoord | .rcbptr | .dtime | .pcyc | .wstate => r

/-- One landing takes effect. -/
def Core.applyDest (c : Core) (x : Landing) : Core :=
  let parity : LateFault := ⟨x.ord, 0x0303, 0, x.pc, x.btag, none⟩
  match x.dest with
  | .none => c
  | .s r v => c.writeS r v
  | .p r v => (c.mregs (fun g => g.setP r v)).unmark (.p r)
  | .h r v m => c.partly parity (.h r) (decide (m = BitVec.allOnes 256))
      (fun c => c.mregs (fun g => g.setH r ((g.getH r &&& ~~~m) ||| (v &&& m))))
  | .k r v m => c.partly parity (.k r) (decide (m = BitVec.allOnes 512))
      (fun c => c.mregs (fun g => g.setK r ((g.getK r &&& ~~~m) ||| (v &&& m))))
  | .row r v m => c.writeRow ⟨x.ord, 0x0103, 2, x.pc, x.btag, none⟩ r v m
  | .latch n v e =>
    if e = c.ctl.latchEpoch then (c.mregs (fun g => g.setB n (some v))).unmark (.latch n) else c
  | .sys n v => { c with sys := c.sys.write n v }
  | .pcw n v => (c.meng (fun e => { e with pcw := e.pcw.set n.toNat v n.isLt })).unmark (.pcw n)
  | .mn n v => (c.meng (fun e => { e with mn := e.mn.setIfInBounds n.toNat v })).unmark (.mn n.toNat)
  | .nest l5 n ds dd => (c.meng (fun e =>
      if l5 then { e with oc5 := n, ds5 := ds, dd5 := dd } else { e with oc4 := n, ds4 := ds, dd4 := dd })).unmark (.outer l5)
  | .poison r => { c with poison := c.poison ||| (1#64 <<< r.toNat) }
  | .retTrap pc => c.mctl (fun k => { k with trap := true, trapRet := pc })
  | .deltaS r v =>
    let q := rotS c.sys r
    if r = 0 then c else c.partly parity (.s q) false (fun c => c.writeS q (c.regs.getS q + v))
  | .deltaH h lo w v => c.partly parity (.h h) false (fun c => c.mregs (fun g =>
      g.setH h (hput (g.getH h) lo w (hbits (g.getH h) lo w + v.toNat))))
  | .rotate p8 =>
    let c := { c with sys := { c.sys with rrbs := c.sys.rrbs - 1, rrba := c.sys.rrba - 1,
                                          rrbp := c.sys.rrbp - 1 } }
    (c.mregs (fun g => g.setP (rotP c.sys 8) p8)).unmark (.p (rotP c.sys 8))

/-- Flags are sticky (R138, R140). -/
def Core.raise (c : Core) (f : BitVec 5) : Core :=
  { c with sys := { c.sys with status := c.sys.status ||| f } }

/-- Insert a landing by cycle and slot order, after its equals. -/
def insLanding (x : Landing) : List Landing → List Landing
  | [] => [x]
  | y :: ys =>
    if x.cyc < y.cyc ∨ (x.cyc = y.cyc ∧ x.ord < y.ord) then x :: y :: ys else y :: insLanding x ys

def sortLandings (l : List Landing) : List Landing := l.foldl (fun acc x => insLanding x acc) []

/-- Landings of one cycle take effect, writes first and then the flags, so that a flag raised with a WRSR that
clears it stays 1 (R139, R183). -/
def Core.landSet (c : Core) (l : List Landing) : Core :=
  ((sortLandings l).foldl Core.applyDest c).raise (joinFlags (l.map Landing.flags))

/-- Every landing due by cycle t takes effect: those of earlier cycles first. -/
def Core.landDue (c : Core) (t : Nat) : Core :=
  let due := c.flight.filter (fun x => decide (x.cyc ≤ t))
  (({ c with flight := c.flight.filter (fun x => decide (t < x.cyc)) }).landSet
    (due.filter (fun x => decide (x.cyc < t)))).landSet (due.filter (fun x => decide (x.cyc = t)))

/-- The flags of a command that completes in cycle `now` become visible with that cycle's landings (R139). -/
def Core.landFlags (c : Core) (now : Nat) (fl : BitVec 5) : Core :=
  { c with flight := c.flight ++ [⟨now, 9, .none, fl, 0, 0⟩] }

/-! ### Device physical addresses (R81, R82) -/

def dieCode (pa : Dpa) : Nat := (pa.extractLsb' 39 4).toNat
def nodeOf (pa : Dpa) : BitVec 10 := pa.extractLsb' 43 10
def offOf (pa : Dpa) : Nat := (pa.extractLsb' 0 39).toNat

/-- Granule size in bytes (R82). -/
def granSize (g : BitVec 2) : Nat :=
  match g.toNat with
  | 0 => 32
  | 1 => 64
  | 2 => 256
  | _ => 1024

/-- The key of a byte of this module's memory: die (0–7 near, 8–11 far) · 2^39 + die-local offset;
none for an offset beyond the die's range or a code that is no memory (R81, R82). -/
def dpaKey (g : BitVec 2) (pa : Dpa) : Option Nat :=
  let o := offOf pa
  let c := dieCode pa
  if c = 0 then
    if o < 384 * 2 ^ 30 then
      let f := o / 2 ^ 18
      let w := o % 2 ^ 18
      let sz := granSize g
      some ((w / sz % 8) * 2 ^ 39 + 2 ^ 15 * f + w / (8 * sz) * sz + w % sz)
    else none
  else if c ≤ 8 then (if o < 48 * 2 ^ 30 then some ((c - 1) * 2 ^ 39 + o) else none)
  else if c ≤ 12 then (if o < 256 * 2 ^ 30 then some ((c - 1) * 2 ^ 39 + o) else none)
  else none

/-- The DPA of a unit of `size` bytes that starts at key k: in the near stripe for a near die, else in the far die's own
range (R82, R406). -/
def unitDpa (node : BitVec 10) (k size : Nat) : Dpa :=
  let die := k / 2 ^ 39
  let o := k % 2 ^ 39
  let r := o % 2 ^ 15
  node ++ (if die < 8 then BitVec.ofNat 43 (2 ^ 18 * (o / 2 ^ 15) + r / size * (8 * size) + die * size + r % size)
    else BitVec.ofNat 43 ((die + 1) * 2 ^ 39 + o))

/-- DPA plus n. -/
def dpaAdd (pa : Dpa) (n : Nat) : Dpa := pa + BitVec.ofNat 53 n

/-! ### Units, their codes and their errors (R85 to R87, R424 to R426) -/

/-- DPAs of the units that n bytes at pa touch under a granule. -/
def unitsOf (g : BitVec 2) (pa : Dpa) (n : Nat) : List Dpa :=
  let sz := granSize g
  let o := offOf pa
  if n = 0 then [] else
    (List.range ((o + n - 1) / sz - o / sz + 1)).map (fun i =>
      (pa.extractLsb' 39 14) ++ BitVec.ofNat 39 ((o / sz + i) * sz))

/-- The unit of granule g that holds a key: units are aligned on every die (R82). -/
def unitAt (g : BitVec 2) (k : Nat) : Nat := k / granSize g * granSize g

/-- Keys of the units that n bytes at pa touch. -/
def unitKeys (g : BitVec 2) (pa : Dpa) (n : Nat) : List Nat := (unitsOf g pa n).filterMap (dpaKey g)

/-- The value that `State.codes` holds for a block written under a granule. -/
def codeOf (g : BitVec 2) : Byte := BitVec.ofNat 8 (1 + g.toNat)

/-- The check bits of a unit are written under granule g. -/
def codeUnit (g : BitVec 2) (m : Memory) (u : Nat) : Memory :=
  (List.range (granSize g / 32)).foldl (fun m i => m.set (u / 32 + i) (codeOf g)) m

/-- No check bits of the unit were last written under another granule (R86). -/
def State.ownCode (s : State) (g : BitVec 2) (u : Nat) : Bool :=
  (List.range (granSize g / 32)).all (fun i =>
    let v := s.codes.get (u / 32 + i)
    decide (v = 0) || decide (v = codeOf g))

/-- A poisoned unit that meets the n bytes at key k (R425). -/
def State.poisoned (s : State) (k n : Nat) : Bool :=
  s.poison.any (fun u => decide (u.1 < k + n) && decide (k < u.1 + u.2))

/-- Units with nothing amiss: no error, no poison, no code of another granule. -/
def State.quiet (s : State) (g : BitVec 2) (us : List Nat) : Bool :=
  s.poison.isEmpty && s.flips.isEmpty && us.all (s.ownCode g)

def Decoded.rank : Decoded → Nat
  | .clean => 0
  | .corrected => 1
  | .wrong => 2
  | .failed => 3

/-- The worse of two: the outcome for a unit is that of its worst codeword. -/
def Decoded.worse (a b : Decoded) : Decoded := if a.rank < b.rank then b else a

/-- Bytes, and bits, in error among the n at key k. -/
def badBytes (f : Memory) (k n : Nat) : Nat :=
  (f.filter (fun e => decide (k ≤ e.1) && decide (e.1 < k + n))).length
def badBits (f : Memory) (k n : Nat) : Nat :=
  ((f.filter (fun e => decide (k ≤ e.1) && decide (e.1 < k + n))).map (fun e => popcGo 8 e.2.toNat)).sum

/-- Whether a near die's memory-side buffer holds every line of a unit, so that the stack is not read (R16). -/
def State.buffered (s : State) (u n : Nat) : Bool :=
  !s.buf.isEmpty && (List.range ((n + 63) / 64)).all (fun i => s.buf.any (fun l => decide (l.1 = u / 64 + i)))

/-- What the manual does not guarantee is a free choice between detection and a wrong correction (R424). -/
def State.loose (s : State) (k : Nat) : Decoded := if Config.freeBit (Nat.pair s.fresh k) then .failed else .wrong

/-- The outcome of n symbols in error in one code word: of two of them `two`, of more `more`. -/
def Decoded.ofCount (n : Nat) (two more : Decoded) : Decoded :=
  match n with
  | 0 => .clean
  | 1 => .corrected
  | 2 => two
  | _ => more

/-- Pieces of n bytes in error among the bytes of a unit of granule g at key k. -/
def badPieces (f : Memory) (g : BitVec 2) (k n : Nat) : Nat :=
  ((List.range (granSize g / n)).filter (fun i => decide (badBytes f (k + n * i) n ≠ 0))).length

/-- Bytes of a code word of a granule: its data that one decoding covers (R85). -/
def wordLen (g : BitVec 2) : Nat :=
  match g.toNat with
  | 0 => 8
  | 1 => 16
  | _ => granSize g

/-- R85, R424: a code word counts its bits in error under G0, its bytes under G1, its 64-byte channel slices under G2, and
under G3 its pseudo-channels, 32 bytes each (R84). -/
def State.wordDecodes (s : State) (g : BitVec 2) (k : Nat) : Decoded :=
  match g.toNat with
  | 0 => .ofCount (badBits s.flips k 8) .failed (s.loose k)
  | 1 => .ofCount (badBytes s.flips k 16) (s.loose k) (s.loose k)
  | 2 => .ofCount (badPieces s.flips g k 64) .failed (s.loose k)
  | _ => .ofCount (badPieces s.flips g k 32) .failed (s.loose k)

/-- A unit is read under another granule than its own, or a poisoned one of another granule overlaps it and it has not been
written since: outside the guarantees (R86, R425). -/
def State.astray (s : State) (g : BitVec 2) (u : Nat) : Bool :=
  !s.ownCode g u || (s.poisoned u (granSize g) &&
    !(List.range (granSize g / 32)).all (fun i => decide (s.codes.get (u / 32 + i) = codeOf g)))

/-- What decoding a unit gives: the worst of its code words. -/
def State.decodes (s : State) (g : BitVec 2) (u : Nat) : Decoded :=
  let sz := granSize g
  if s.poison.contains (u, sz) then .failed
  else if s.astray g u then s.loose u
  else if s.flips.isEmpty || s.buffered u sz then .clean
  else (List.range (sz / wordLen g)).foldl (fun d i => d.worse (s.wordDecodes g (u + wordLen g * i))) .clean

/-- A stored byte as a read under granule g gets it: what a wrong correction gives is free, in the code word that has it. -/
def State.memByte (s : State) (g : BitVec 2) (k : Nat) : Byte :=
  let u := unitAt g k
  if s.quiet g [u] then s.mem.get k
  else if s.decodes g u = .wrong ∧ (s.astray g u ∨ s.wordDecodes g (k / wordLen g * wordLen g) = .wrong) then
    Config.freeByte (Nat.pair s.fresh k)
  else s.mem.get k

/-- Whether a read of a unit finds it uncorrectable. -/
def State.unitBad (s : State) (g : BitVec 2) (u : Dpa) : Bool :=
  match dpaKey g u with
  | some k => !s.quiet g [k] && decide (s.decodes g k = .failed)
  | none => false

/-- Bytes of this module's memory by DPA; a byte that does not exist reads as a free byte. -/
def State.dpaRead (s : State) (g : BitVec 2) (pa : Dpa) : Nat → List Byte
  | 0 => []
  | n + 1 =>
    (match dpaKey g pa with
      | some k => s.memByte g k
      | none => Config.freeByte pa.toNat) :: State.dpaRead s g (pa + 1) n

/-- Store bytes by DPA; bytes that do not exist are dropped. -/
def dpaWriteMem (m : Memory) (g : BitVec 2) (pa : Dpa) : List Byte → Memory
  | [] => m
  | b :: bs =>
    dpaWriteMem (match dpaKey g pa with
      | some k => m.set k b
      | none => m) g (pa + 1) bs

/-- Read n bytes of this module's memory: the bytes, and the failing unit when there is one. -/
def State.memRead (s : State) (g : BitVec 2) (pa : Dpa) (n : Nat) : List Byte × Option Dpa :=
  (s.dpaRead g pa n, (unitsOf g pa n).find? (s.unitBad g))

/-- Poisoned ranges that a write of keys covers whole leave the list. -/
def clearPoison (covered : Nat → Bool) (l : List (Nat × Nat)) : List (Nat × Nat) :=
  l.filter (fun u => !(List.range u.2).all (fun i => covered (u.1 + i)))

/-- Units of granule g are rewritten with a fresh code: their errors leave, and where only a part was covered of a unit
whose data were taken wrongly for good, the rest of it is the wrong data (R87, R424). -/
def State.recode (s : State) (g : BitVec 2) (us : List Nat) (whole : Nat → Bool) : State :=
  let sz := granSize g
  let wrong := us.filter (fun u => !whole u && decide (s.decodes g u = .wrong))
  { s with
    mem := wrong.foldl (fun m u => (List.range sz).foldl (fun m i => m.set (u + i) (s.memByte g (u + i))) m) s.mem,
    flips := s.flips.filter (fun e => !us.contains (unitAt g e.1)),
    codes := us.foldl (codeUnit g) s.codes }

/-- Store bytes of this module's memory unit by unit: a unit found uncorrectable and covered in part stays (R425).
The answer names the first such unit. -/
def State.memWrite (s : State) (g : BitVec 2) (pa : Dpa) (bs : List Byte) : State × Option Dpa :=
  let us := unitKeys g pa bs.length
  if s.quiet g us then
    ({ s with mem := dpaWriteMem s.mem g pa bs, codes := us.foldl (codeUnit g) s.codes }, none)
  else
    let keys := (List.range bs.length).filterMap (fun i => dpaKey g (dpaAdd pa i))
    let whole (u : Nat) : Bool := (List.range (granSize g)).all (fun i => keys.contains (u + i))
    let stuck := us.filter (fun u => !whole u && decide (s.decodes g u = .failed))
    let s' := s.recode g (us.filter (fun u => !stuck.contains u)) whole
    ({ s' with
        poison := clearPoison (fun k => keys.contains k) s'.poison,
        mem := (bs.zipIdx.foldl (fun m (b, i) => match dpaKey g (dpaAdd pa i) with
          | some k => if stuck.contains (unitAt g k) then m else m.set k b
          | none => m) s'.mem) },
      (unitsOf g pa bs.length).find? (fun d => match dpaKey g d with
        | some u => stuck.contains u
        | none => false))

/-- A write by the device itself, outside any task. -/
def State.dpaWrite (s : State) (g : BitVec 2) (pa : Dpa) (bs : List Byte) : State := (s.memWrite g pa bs).1

/-- A far die that is lost (R429). -/
def State.farLost (s : State) (pa : Dpa) : Bool :=
  decide (9 ≤ dieCode pa) && decide (dieCode pa ≤ 12) && s.hub.lostFar.getLsbD (dieCode pa - 9)

/-- A line owned by another node must be recalled before any access here (R350). -/
def State.lineAway (s : State) (pa : Dpa) (n : Nat) : Bool :=
  s.fab.owned.any (fun o => o.owner.isSome && decide (o.dpa < pa.toNat + n) && decide (pa.toNat < o.dpa + 64))

/-- Memory keys of n bytes at a DPA. -/
def keysOf (g : BitVec 2) (pa : Dpa) (n : Nat) : List Nat :=
  (List.range n).filterMap (fun i => dpaKey g (dpaAdd pa i))

/-- Lines of n bytes here that other nodes own are wanted: the home recalls them (R350). -/
def State.askLines (s : State) (pa : Dpa) (n : Nat) : State :=
  (s.fab.owned.filter (fun o => o.owner.isSome && decide (o.dpa < pa.toNat + n) && decide (pa.toNat < o.dpa + 64))).foldl
    (fun s o => if s.fab.asked.contains o.dpa then s else s.mfab (fun f => { f with asked := f.asked ++ [o.dpa] })) s

def State.askLine (s : State) (pa : Dpa) : State := s.askLines pa 1

/-- What the hub reads of its own structures (R32, R41, R382): bytes under a coordinate other than NODE are another
module's and free here (R337), as are those of a far die that is lost (R429); a write that waits for its line to come back is seen. -/
def State.hubRead (s : State) (g : BitVec 2) (pa : Dpa) (n : Nat) : List Byte :=
  if nodeOf pa ≠ s.fab.node ∨ s.farLost pa then (List.range n).map (fun i => Config.freeByte (Nat.pair s.fresh (pa.toNat + i)))
  else if s.fab.patches.isEmpty then s.dpaRead g pa n
  else (s.dpaRead g pa n).zipIdx.map (fun (b, i) =>
    (s.fab.patches.reverse.findSome? (fun p => if p.1.toNat ≤ pa.toNat + i then p.2.2[pa.toNat + i - p.1.toNat]? else none)).getD b)

def State.hubNat (s : State) (g : BitVec 2) (pa : Dpa) (n : Nat) : Nat := leNat (s.hubRead g pa n)

/-- What decoding the units of n bytes gives now. -/
def State.decodeAll (s : State) (g : BitVec 2) (us : List Nat) : List (Nat × Decoded) :=
  if s.quiet g us then [] else us.map (fun u => (u, s.decodes g u))

/-- The units at key u that a write of n bytes covers only in part are read first (R87). -/
def partUnits (g : BitVec 2) (pa : Dpa) (n : Nat) : List Nat :=
  (unitKeys g pa n).filter (fun u => !(List.range (granSize g)).all (fun i => (keysOf g pa n).contains (u + i)))

/-- Accesses of lines: a near die's memory-side buffer counts a hit or a miss, and a line it holds and that is written is
modified (R16, R389). -/
def State.bufferLines (s : State) (wr : Bool) (lines : List Nat) : State :=
  (lines.filter (fun l => decide (l * 64 / 2 ^ 39 < 8))).foldl (fun s l =>
    let d := l * 64 / 2 ^ 39
    if s.buf.any (fun b => decide (b.1 = l)) then
      { s with buf := if wr then s.buf.map (fun b => if b.1 = l then (l, true) else b) else s.buf,
               hub := { s.hub with msbHit := s.hub.msbHit.setIfInBounds d ((s.hub.msbHit.getD d 0 + 1) % 2 ^ 64) } }
    else { s with hub := { s.hub with msbMiss := s.hub.msbMiss.setIfInBounds d ((s.hub.msbMiss.getD d 0 + 1) % 2 ^ 64) } })
    s

def State.buffers (s : State) (wr : Bool) (keys : List Nat) : State :=
  s.bufferLines wr (keys.map (fun k => k / 64)).eraseDups

/-- What an agent outside the cores finds in units is kept for the hub to report (R406, R424). -/
def State.note (s : State) (g : BitVec 2) (ds : List (Nat × Decoded)) : State :=
  if ds.all (fun d => decide (d.2 = .clean)) then s
  else s.mhub (fun h => { h with found := h.found ++ (ds.filter (fun d => decide (d.2 ≠ .clean))).map (fun d => (g, d)) })

/-- The effects on the memory dies of a read of n bytes by the hub. -/
def State.hubSaw (s : State) (g : BitVec 2) (pa : Dpa) (n : Nat) : State :=
  if nodeOf pa ≠ s.fab.node ∨ s.farLost pa then s
  else (s.note g (s.decodeAll g (unitKeys g pa n))).buffers false (keysOf g pa n)

/-- A write by the hub: one under another coordinate leaves the module, one to a far die that is lost writes nothing; one
to a line that another node owns waits for its recall (R337, R350, R429). -/
def State.hubWrite (s : State) (g : BitVec 2) (pa : Dpa) (bs : List Byte) : State :=
  if nodeOf pa ≠ s.fab.node ∨ s.farLost pa then s
  else if s.lineAway pa bs.length then
    (s.askLines pa bs.length).mfab (fun f => { f with patches := f.patches ++ [(pa, g, bs)] })
  else ((s.dpaWrite g pa bs).note g (s.decodeAll g (partUnits g pa bs.length))).buffers true (keysOf g pa bs.length)

/-- This module's place of a DPA whose node field is ignored (R32, R66). -/
def State.onNode (s : State) (pa : Dpa) : Dpa := s.fab.node ++ pa.extractLsb' 0 43

/-- A number of n bytes by DPA. -/
def State.dpaNat (s : State) (g : BitVec 2) (pa : Dpa) (n : Nat) : Nat := leNat (s.dpaRead g pa n)

/-! ### Translation (R71 to R80, R430) -/

/-- What translating an address gives. -/
inductive Xl where
  | ok (pa : Dpa) (g : BitVec 2) (ap : BitVec 2) (rap : Bool)
  | noLeaf
  | perm
  /-- the leaf has MP = 1: wait and walk again (R91) -/
  | moving
  /-- an uncorrectable page-table entry at this DPA (R430) -/
  | uncorr (ea : Dpa)
  /-- a page-table entry in a line that another node owns: it is recalled, and the walk begins again (R350) -/
  | away (ea : Dpa)
  /-- a DPA beyond its die's range -/
  | hole
  deriving DecidableEq, Repr

/-- R78 on the three permission bits, RAP, aperture and die code. -/
def permOk (kind : AKind) (rd wr at_ rap : Bool) (ap : BitVec 2) (die : Nat) : Bool :=
  match kind with
  | .rd => rd
  | .wr => wr
  | .at => at_ && (decide (ap ≠ 1) || rap) && decide (ap ≠ 2) && decide (die ≠ 0xE)

/-- A local DPA that lies in memory must exist. -/
def xlCheck (pa : Dpa) (g ap : BitVec 2) (rap : Bool) : Xl :=
  if ap = 0 ∧ dieCode pa ≤ 12 ∧ dpaKey g pa = none then .hole else .ok pa g ap rap

/-- Whether the die field is one R77 allows for the aperture. -/
def dieAllowed (ap : BitVec 2) (die : Nat) : Bool :=
  match ap.toNat with
  | 0 => decide (die ≤ 12) || decide (die = 14)
  | 1 => decide (die ≤ 12)
  | 2 => decide (die = 13)
  | _ => false

/-- DETAIL of UNCORR: 15 for a near die, 16 for a far die (R425). -/
def uncorrDetail (key : Nat) : BitVec 16 := if key / 2 ^ 39 < 8 then 15 else 16

/-- Where a walk ends: at no leaf, for the reason given, or at a valid leaf: its level, its DPA and the entry. -/
inductive Walked where
  | stop (x : Xl)
  | leaf (lvl : Nat) (ea : Dpa) (e : Word)
  deriving DecidableEq, Repr

/-- The walk from level `lvl` (0 to 2) down (R75 to R77, R80, R430). -/
def State.walk (s : State) (va : Nat) : Nat → Dpa → Walked
  | lvl, t =>
    let idx := (va >>> (18 + 10 * lvl)) % 1024
    let ea := dpaAdd t (8 * idx)
    if 12 < dieCode t ∨ nodeOf t ≠ s.fab.node then .stop .noLeaf
    else
      match dpaKey 1 ea with
      | none => .stop .hole
      | some _ =>
        if s.farLost ea || s.unitBad 1 ((unitsOf 1 ea 8).headD ea) then .stop (.uncorr ea)
        else if s.lineAway ea 8 then .stop (.away ea)
        else
          let e := BitVec.ofNat 64 (s.dpaNat 1 ea 8)
          let sz := (e.extractLsb' 1 2).toNat
          if !e.getLsbD 0 then .stop .noLeaf
          else if sz = 0 then
            match lvl with
            | 0 => .stop .noLeaf
            | l + 1 => State.walk s va l (e.extractLsb' 13 40 ++ (0 : BitVec 13))
          else
            let fr : Dpa := e.extractLsb' 18 35 ++ (0 : BitVec 18)
            if sz ≠ lvl + 1 ∨ fr.toNat % 2 ^ (18 + 10 * lvl) ≠ 0 ∨ ¬ dieAllowed (e.extractLsb' 5 2) (dieCode fr) then
              .stop .noLeaf
            else .leaf lvl ea e

/-- What a leaf of level lvl gives an access (R77, R78, R91). -/
def State.leafXl (s : State) (sec : Bool) (va : Nat) (kind : AKind) (lvl : Nat) (e : Word) : Xl :=
  let ap := e.extractLsb' 5 2
  let fr : Dpa := e.extractLsb' 18 35 ++ (0 : BitVec 18)
  let bit (i : Nat) : Bool := e.getLsbD i
  if bit 12 then .moving
  else if (bit 11 && !sec) || !permOk kind (bit 8) (bit 9) (bit 10) (bit 7) ap (dieCode fr) then .perm
  else
    let pa := dpaAdd fr (va % 2 ^ (18 + 10 * lvl))
    let pa : Dpa := if ap = 0 then s.fab.node ++ pa.extractLsb' 0 43 else pa
    xlCheck pa (e.extractLsb' 3 2) ap (bit 7)

/-- The entry of the TLB of the focus core's die that maps va for a context (R79). -/
def State.tlbHit (s : State) (asid : BitVec 13) (va : Nat) : Option Tlb :=
  s.tlb.find? (fun t => decide (t.die = dieOf s.cur) && decide (t.asid = asid) && decide (t.page = va >>> (18 + 10 * t.lvl)))

/-- Leaf entries that an INVAL removes (R314). -/
def Tlb.named (t : Tlb) (kind : InvKind) (va : Nat) (asid : BitVec 13) : Bool :=
  match kind with
  | .page => decide (t.asid = asid) && decide (t.page = va >>> (18 + 10 * t.lvl))
  | .asid => decide (t.asid = asid)
  | .all => true

def Via.named (v : Via) (kind : InvKind) (va : Nat) (asid : BitVec 13) : Bool :=
  Tlb.named ⟨0, v.asid, v.lvl, v.page, 0, 0⟩ kind va asid

/-- Whether an address lies in the heap (R72). -/
def inHeap (x : XlatRegs) (va : Nat) : Bool :=
  decide (x.heapbase.toNat ≤ va) && decide (va < x.heapbase.toNat + x.heaplim.toNat)

/-- Translate (R80): heap first, then the entry that the TLB holds, or the tables. -/
def State.translate (s : State) (x : XlatRegs) (va : Nat) (kind : AKind) : Xl :=
  if 2 ^ 48 ≤ va then .noLeaf
  else if inHeap x va then
    let pa : Dpa := BitVec.ofNat 53 (va + x.heapoff.toNat)
    let bit (i : Nat) : Bool := x.heapattr.getLsbD i
    if 12 < dieCode pa ∨ nodeOf pa ≠ s.fab.node then .noLeaf
    else if (bit 2 && !x.sec) || !permOk kind (bit 3) (bit 4) (bit 5) false 0 (dieCode pa) then .perm
    else xlCheck pa (x.heapattr.extractLsb' 0 2) 0 false
  else
    match s.tlbHit x.asid va with
    | some t => s.leafXl x.sec va kind t.lvl t.entry
    | none =>
      match s.walk va 2 (x.ptroot.extractLsb' 0 53) with
      | .stop r => r
      | .leaf lvl _ e => s.leafXl x.sec va kind lvl e

/-- The table entries that the walk of an address reads, down from level `lvl` (R75 to R77). -/
def State.entries (s : State) (va : Nat) : Nat → Dpa → List Dpa
  | lvl, t =>
    let ea := dpaAdd t (8 * ((va >>> (18 + 10 * lvl)) % 1024))
    if 12 < dieCode t ∨ nodeOf t ≠ s.fab.node ∨ dpaKey 1 ea = none ∨ s.farLost ea ∨ s.lineAway ea 8 then []
    else
      let e := BitVec.ofNat 64 (s.dpaNat 1 ea 8)
      match lvl with
      | 0 => [ea]
      | l + 1 =>
        if e.getLsbD 0 ∧ e.extractLsb' 1 2 = 0 ∧ ¬ s.unitBad 1 ((unitsOf 1 ea 8).headD ea) then
          ea :: State.entries s va l (e.extractLsb' 13 40 ++ (0 : BitVec 13))
        else [ea]

/-- The table entries that a translation reads: none in the heap, and none when the TLB maps the address. -/
def State.walkReads (s : State) (x : XlatRegs) (va : Nat) : List Dpa :=
  if 2 ^ 48 ≤ va || inHeap x va || (s.tlbHit x.asid va).isSome then [] else s.entries va 2 (x.ptroot.extractLsb' 0 53)

/-- A walker has read table entries, under G1 (R424, R468). An uncorrectable one is its access's to report (R430). -/
def State.sawEntries (s : State) (eas : List Dpa) : State :=
  eas.foldl (fun s ea => (s.note 1 ((s.decodeAll 1 (unitKeys 1 ea 8)).filter (fun d => decide (d.2 ≠ .failed)))).buffers
    false (keysOf 1 ea 8)) s

/-- A translation has taken place. -/
def State.walked (s : State) (x : XlatRegs) (va : Nat) : State := s.sawEntries (s.walkReads x va)

/-- The leaf that maps an address outside the heap. -/
def State.viaOf (s : State) (x : XlatRegs) (va : Nat) : Option Via :=
  if inHeap x va then none
  else match s.tlbHit x.asid va with
    | some t => some ⟨t.lvl, t.page, x.asid, s.pcyc⟩
    | none => match s.walk va 2 (x.ptroot.extractLsb' 0 53) with
      | .leaf lvl _ _ => some ⟨lvl, va >>> (18 + 10 * lvl), x.asid, s.pcyc⟩
      | .stop _ => none

/-- The translation registers in force on the focus core (R179). -/
def SysRegs.xlat (r : SysRegs) : XlatRegs :=
  ⟨r.asid, r.sec, r.heapbase, r.heaplim, r.heapoff, r.heapattr, r.ptroot⟩

def kindNum : AKind → BitVec 16
  | .rd => 0
  | .wr => 1
  | .at => 2

/-! ### Fault codes (R400) -/

def fcTRANS : BitVec 16 := 0x0101
def fcPERM : BitVec 16 := 0x0102
def fcUNCORR : BitVec 16 := 0x0103
def fcTARGET_RESET : BitVec 16 := 0x0104
def fcDIE_LOST : BitVec 16 := 0x0105
def fcREMOTE_REFUSED : BitVec 16 := 0x0106
def fcATOMIC_APPLIED : BitVec 16 := 0x0107
def fcPATH_LOST : BitVec 16 := 0x0108
def fcHOST_ERROR : BitVec 16 := 0x0109
def fcMCAST_GAP : BitVec 16 := 0x010A
def fcWINDOW_FULL : BitVec 16 := 0x010B
def fcOPCODE : BitVec 16 := 0x0201
def fcRESERVED : BitVec 16 := 0x0202
def fcHANDLE : BitVec 16 := 0x0203
def fcOPERAND : BitVec 16 := 0x0204
def fcSCHEDULE : BitVec 16 := 0x0205
def fcLOOP : BitVec 16 := 0x0206
def fcPRIVILEGE : BitVec 16 := 0x0207
def fcUSER_TRAP : BitVec 16 := 0x0208
def fcREPLAY : BitVec 16 := 0x0209
def fcQUEUE : BitVec 16 := 0x020A
def fcCHECK : BitVec 16 := 0x0301
def fcRESIDUE : BitVec 16 := 0x0302
def fcPARITY : BitVec 16 := 0x0303
def fcPARTNER : BitVec 16 := 0x0401
def fcSUBTREE : BitVec 16 := 0x0402
def fcCONTEXT : BitVec 16 := 0x0403
def fcCONTAINED : BitVec 16 := 0x0404
def fcASID0 : BitVec 16 := 0x0501
def fcBAD_RCB : BitVec 16 := 0x0502
def fcWORLD : BitVec 16 := 0x0503
def fcCORES : BitVec 16 := 0x0504

/-! ### Rings and records (R63 to R69, R401, R402) -/

def ringOf (h : Hub) (i : Byte) : Ring := h.rings[i.toNat]'(i.isLt)
def setRing (h : Hub) (i : Byte) (r : Ring) : Hub := { h with rings := h.rings.set i.toNat r i.isLt }

/-- Free slots of a ring (R68). -/
def ringRoom (r : Ring) : Nat := 2 ^ r.clog.toNat - (r.chead - r.ctail).toNat

/-- PHASE of the record at index k: 1 on the first pass, then alternating (R63). -/
def ringPhase (r : Ring) : Bool := decide (r.chead.toNat >>> r.clog.toNat % 2 = 0)

/-- Set bit 95 (PHASE) of a record. -/
def withPhase (p : Bool) (bs : List Byte) : List Byte :=
  if p then bs.set 11 (bs.getD 11 0 ||| 0x80) else bs

/-- Write record bytes at slot CHEAD of a ring, in device or host memory (R66). -/
def State.slotWrite (s : State) (r : Ring) (bs : List Byte) : State :=
  let off := 32 * (r.chead.toNat % 2 ^ r.clog.toNat)
  let a := dpaAdd r.cbase off
  if dieCode r.cbase = 13 then
    let h := s.fab.hmbase.toNat * 2 ^ 39 + offOf a
    s.mhost (fun p => { p with mem := p.mem.write h bs,
                               written := p.written ++ (List.range bs.length).map (· + h) })
  else s.hubWrite 1 (s.onNode a) bs

/-- Raise an MSI-X vector when the pending count or age asks for it (R67): by the count and vector that govern the
newest record, or the time and vector that govern the oldest (R69). -/
def State.coalesce (s : State) (i : Byte) (aged : Bool) : State :=
  let r := ringOf s.hub i
  let full := decide (r.last.cnt.toNat ≤ r.pending) && decide (0 < r.pending)
  let old := aged && decide (r.first.time ≠ 0) && decide (0 < r.pending) &&
    decide (r.oldest + r.first.time.toNat ≤ s.ns)
  if (full || old) && !r.cdev && s.host.up then
    let v := if full then r.last.vec else r.first.vec
    let s := s.mhub (fun h => setRing h i { r with pending := 0 })
    if v.toNat < 2048 then s.mhost (fun p => { p with msix := p.msix ++ [v] }) else s
  else s

/-- Whether some core still has an access of one of these tasks to perform. -/
def State.tasksPend (s : State) (ts : List Nat) : Bool :=
  !ts.isEmpty && (s.core :: s.parked.map Prod.snd).any (fun c =>
    c.pend.any (fun a => a.task.any (fun t => ts.contains t)) ||
      c.port.any (fun a => a.task.any (fun t => ts.contains t)))

/-- Whether a record can be written now: room, the host port up for a host ring (R68, R447), and what R65
makes it wait for done. -/
def State.recFits (s : State) (r : Rec) : Bool :=
  let g := ringOf s.hub r.ring
  let need := if r.wide then 2 + g.chead.toNat % 2 else 1
  decide (need ≤ ringRoom g) && (decide (dieCode g.cbase ≠ 13) || s.host.up) &&
    !s.tasksPend r.tasks &&
    !s.hub.recs.any (fun x => x.owner.any (fun o => r.covers.contains o))

/-- Write one record; a wide one takes an even slot pair behind a filler when CHEAD is odd (R402). -/
def State.recWrite (s : State) (r : Rec) : State :=
  let g := ringOf s.hub r.ring
  let s :=
    if r.wide ∧ g.chead.toNat % 2 = 1 then
      let fill := (List.replicate 32 (0 : Byte)).set 10 4
      let s := s.slotWrite g (withPhase (ringPhase g) fill)
      s.mhub (fun h => setRing h r.ring { g with chead := g.chead + 1 })
    else s
  let g := ringOf s.hub r.ring
  let s := s.slotWrite g (withPhase (ringPhase g) r.bytes)
  let g' := { g with chead := g.chead + (if r.wide then 2 else 1), pending := g.pending + 1,
                     oldest := if g.pending = 0 then s.ns else g.oldest,
                     first := if g.pending = 0 then ⟨g.ctime, g.cvec, g.ccnt⟩ else g.first,
                     last := ⟨g.ctime, g.cvec, g.ccnt⟩ }
  let s := s.mhub (fun h => setRing h r.ring g')
  let s := match r.service with
    | some t => s.mhub (fun h => { h with services := h.services.map (fun (v : Service) =>
        if v.task = t ∧ v.ring = r.ring then Service.mk v.ring g.chead.toNat v.task v.cmd v.info
        else v) })
    | none => s
  s.coalesce r.ring false

/-- Bring a record to its ring: discarded and counted when CEN = 0, written when it fits and nothing of
the ring waits before it, held otherwise (R68, R69). Ring 255 does not exist. -/
def State.putRec (s : State) (r : Rec) : State :=
  if r.ring = 255 then s
  else
    let g := ringOf s.hub r.ring
    if !g.cen then
      s.mhub (fun h => setRing h r.ring
        { g with cdrop := if g.cdrop = BitVec.allOnes 32 then g.cdrop else g.cdrop + 1 })
    else if s.hub.recs.any (fun x => x.ring = r.ring) || !s.recFits r then
      s.mhub (fun h => { h with recs := h.recs ++ [r] })
    else s.recWrite r

/-- The first held record that can be written: the oldest of its ring, and ready. -/
def State.nextRec (s : State) : Option Rec :=
  s.hub.recs.find? (fun r =>
    (s.hub.recs.find? (fun x => decide (x.ring = r.ring))) = some r && s.recFits r)

/-- Records held for a ring whose CEN is cleared are discarded and counted (R69). -/
def State.dropRing (s : State) (i : Byte) : State :=
  let n := (s.hub.recs.filter (fun r => decide (r.ring = i))).length
  s.mhub (fun h =>
    let g := ringOf h i
    setRing { h with recs := h.recs.filter (fun r => decide (r.ring ≠ i)) } i
      { g with cdrop := BitVec.ofNat 32 (min (g.cdrop.toNat + n) (2 ^ 32 - 1)) })

/-- A record from fields (lowest bit, width, value). -/
def recBits (l : List (Nat × Nat × Nat)) : Nat :=
  l.foldl (fun acc f => acc ||| ((f.2.2 % 2 ^ f.2.1) <<< f.1)) 0

/-! ### Tasks and regions -/

def State.task? (s : State) (id : Nat) : Option Task := s.hub.tasks.find? (fun t => t.id = id)
def State.region? (s : State) (id : Nat) : Option Region := s.hub.regs.find? (fun r => r.id = id)

def State.modTask (s : State) (id : Nat) (f : Task → Task) : State :=
  s.mhub (fun h => { h with tasks := h.tasks.map (fun t => if t.id = id then f t else t) })
def State.modRegion (s : State) (id : Nat) (f : Region → Region) : State :=
  s.mhub (fun h => { h with regs := h.regs.map (fun r => if r.id = id then f r else r) })

/-- A region and its ancestors, innermost first (R62, R34). -/
def State.chain (s : State) : Nat → Nat → List Nat
  | 0, _ => []
  | n + 1, id =>
    id :: (match (s.region? id).bind Region.parent with
      | some p => State.chain s n p
      | none => [])

/-- Regions that lie below a region, itself included; with `spawned`, regions its tasks spawned too. -/
def State.below (s : State) (id : Nat) (spawned : Bool) : Nat → List Nat
  | 0 => [id]
  | n + 1 =>
    let up := State.below s id spawned n
    up ++ ((s.hub.regs.filter (fun r => !up.contains r.id &&
      ((match r.parent with
        | some p => up.contains p
        | none => false) ||
       (spawned && (match r.spawner with
        | some p => up.contains p
        | none => false))))).map Region.id)

/-- A region, its ancestors, and those of its spawner, the spawner of that tree and so on (R308). -/
def State.chainAll (s : State) : Nat → Nat → List Nat
  | 0, _ => []
  | n + 1, id =>
    id :: (match s.region? id with
      | some r => (match r.parent, r.spawner with
        | some p, _ => State.chainAll s n p
        | none, some p => State.chainAll s n p
        | none, none => [])
      | none => [])

/-- The leaf region of a task. -/
def State.leafOf (s : State) (t : Task) : Option Region := s.region? t.region

/-- The task running on the core in focus. -/
def State.curTask (s : State) : Option Task := s.core.task.bind s.task?

/-- The fields in force at the focus core's task, when it runs one. -/
def State.curForce (s : State) : Option Force := (s.curTask.bind s.leafOf).map Region.f

/-- SPADB and SIDEB of the running task; the whole memories when no task is recorded. -/
def State.spadb (s : State) : Nat := (s.curForce.map Force.spadb).getD (2 ^ 21)
def State.sideb (s : State) : Nat := (s.curForce.map Force.sideb).getD (2 ^ 18)

/-! ### Machine checks (R406, R407, R416) -/

/-- What a machine-check record's COUNT is kept by: the unit, with its die and, in a core, the core, and the kind of error. -/
def mcKey (unit die : Nat) (mcode : BitVec 16) (core : Option Nat) : Nat :=
  ((unit * 32 + die) * 1024 + (if unit ≤ 13 then core.elim 0 (· + 1) else 0)) * 65536 + mcode.toNat

/-- SYND: the two residues of a mismatch, which differ, in [2:0] and [10:8]; any other syndrome is a free value. -/
def mcSynd (mcode : BitVec 16) (k : Nat) : Nat :=
  let w := (Config.syndrome k).toNat
  if mcode = fcRESIDUE then w % 7 + 256 * ((w % 7 + 1 + w / 8 % 6) % 7) else w

def Hub.mcSeen (h : Hub) (key : Nat) : Nat := ((h.mcCount.find? (fun p => decide (p.1 = key))).map Prod.snd).getD 0

def Hub.countMc (h : Hub) (key : Nat) : Hub :=
  { h with mcCount := (key, h.mcSeen key + 1) :: h.mcCount.filter (fun p => decide (p.1 ≠ key)) }

/-- A machine-check record of severity `sev`; it goes to the controller's log, and to ring 254 when that
is enabled. `core` names the consuming or failing core, `who` the core whose task consumes. -/
def State.machineCheck (s : State) (sev unit die : Nat) (mcode : BitVec 16) (addr : Nat)
    (core : Option Nat) (who : Option Nat := core) : State :=
  let key := mcKey unit die mcode core
  let cnt := s.hub.mcSeen key + 1
  let asid := match who.map s.getCore with
    | some c => if c.task.isSome then c.sys.asid.toNat else 0
    | none => 0
  let (k, s) := s.draw
  let cc := core.getD 0
  let v := recBits [(0, 64, s.ns), (64, 16, mcode.toNat), (80, 8, 5), (96, 3, sev), (104, 5, die),
    (112, 3, clusterOf cc), (116, 6, cc % 64), (128, 16, unit), (144, 13, asid),
    (160, 32, min cnt (2 ^ 32 - 1)), (192, 64, addr), (256, 64, mcSynd mcode k)]
  let bs := leBytes 64 v
  let s := s.mhub (fun h => { h.countMc key with mclog := (h.mclog ++ [bs]).drop ((h.mclog.length + 1) - 1024) })
  let s := if (ringOf s.hub 254).cen then s.putRec ⟨254, bs, true, none, none, [], []⟩ else s
  match core with
  | some c =>
    if sev = 1 ∧ 2 ≤ unit ∧ unit ≤ 13 then s.modCore c (fun k => { k with checks := s.ns :: k.checks })
    else s
  | none => s

/-! ### Completion and fault records -/

/-- Count a started or finished task in its region and every ancestor, and in the RCBs (R40, R58). -/
def State.rcbWord (s : State) (id off : Nat) (v : Nat) (n : Nat) : State :=
  match s.region? id with
  | some r => s.hubWrite r.gran (s.onNode (BitVec.ofNat 53 (r.rcb + off))) (leBytes n v)
  | none => s

def State.countStart (s : State) (region : Nat) : State :=
  (s.chain 8 region).foldl (fun s id =>
    let s := s.modRegion id (fun r => { r with tstart := r.tstart + 1 })
    s.rcbWord id 0xB0 (((s.region? id).map Region.tstart).getD 0) 8) s

def State.countDone (s : State) (region : Nat) : State :=
  (s.chain 8 region).foldl (fun s id =>
    let s := s.modRegion id (fun r => { r with tdone := r.tdone + 1 })
    s.rcbWord id 0xB8 (((s.region? id).map Region.tdone).getD 0) 8) s

/-- The place of a status in the precedence list of R405. -/
def statusRank (b : Byte) : Nat :=
  match b.toNat with
  | 0x84 => 7
  | 0x83 => 6
  | 0x82 => 5
  | 0x81 => 4
  | 0x80 => 3
  | 2 => 2
  | 1 => 1
  | _ => 0

def worse (a b : Byte) : Byte := if statusRank a < statusRank b then b else a

/-- A region takes the status of a task it covers: in itself, every ancestor, and what spawned them (R405). -/
def State.addStatus (s : State) (region : Nat) (st : Byte) : State :=
  (s.chainAll 16 region).foldl (fun s id => s.modRegion id (fun r => { r with status := worse r.status st })) s

/-- A completion record (R63). -/
def complRec (ord stage tag fcount fcode kindr status time : Nat) : List Byte :=
  leBytes 32 (recBits [(208, 48, ord), (200, 8, stage), (128, 64, tag), (120, 8, min fcount 255),
    (96, 16, fcode), (80, 8, kindr), (64, 8, status), (0, 64, time)])

/-- The task record, when the leaf asks for one (R63, R405). -/
def State.taskRecord (s : State) (t : Task) (r : Region) : State :=
  if r.f.taskRec then
    s.putRec ⟨r.f.ring, complRec t.ord (r.stage.getD 0) r.tag.toNat t.fcount t.fcode.toNat 2
      t.status.toNat s.ns, false, none, some r.id, [], [t.id]⟩
  else s

/-- The fault record of a task, with ACT: written to its leaf's ring, and counted in FCOUNT of the task and
every region that covers it (R401, R404). -/
def State.faultRecord (s : State) (tid : Nat) (f : FaultInfo) (act : Nat) : State :=
  match s.task? tid with
  | none => s
  | some t =>
    match s.leafOf t with
    | none => s
    | some r =>
      let v := recBits [(496, 16, f.detail.toNat), (488, 4, f.tok), (480, 8, r.stage.getD 0),
        (432, 48, t.ord), (416, 16, f.cidx.toNat), (384, 32, min f.rem (2 ^ 32 - 1)),
        (320, 64, f.coord1), (256, 64, f.coord0), (192, 64, f.pc.toNat), (128, 64, r.tag.toNat),
        (116, 1, if f.applied then 1 else 0), (112, 4, f.slot), (104, 8, f.btag.toNat), (96, 3, act),
        (80, 8, 3), (64, 16, f.code.toNat), (0, 64, s.ns)]
      let s := s.modTask tid (fun t => { t with
        fcount := t.fcount + 1, fcode := if t.fcount = 0 then f.code else t.fcode })
      let s := (s.chainAll 16 t.region).foldl (fun s id => s.modRegion id (fun r => { r with
        fcount := r.fcount + 1, fcode := if r.fcount = 0 then f.code else r.fcode })) s
      s.putRec ⟨r.f.ring, leBytes 64 v, true, none, some r.id, [], []⟩

/-! ### Queue slots (R42) -/

def State.modQueue (s : State) (desc : Nat) (f : Queue → Queue) : State :=
  s.mhub (fun h => { h with queues := h.queues.map (fun q => if q.desc = desc then f q else q) })

/-- A task's reserved slots become skipped and its taken slot free; leading skipped slots are free (R42). -/
def freeSlots (task : Nat) (q : Queue) : Queue :=
  { q with slots := q.slots.filter (fun p => decide (p.2 ≠ .reserved task) && decide (p.2 ≠ .taken task)) }

/-- Available entries of a queue whose consumer takes no more are freed. -/
def dropAvail (q : Queue) : Queue := { q with slots := q.slots.filter (fun p => decide (p.2 ≠ .avail)) }

/-! ### Killing (R411 to R413) -/

/-- Marks that restoring or leaving the register state does not clear: those of the memories and the rows, and with
`nest` those of the nest registers, which the snapshot of R301 does not hold. -/
def keepMarks (nest : Bool) (l : List Mark) : List Mark :=
  l.filter (fun m => match m with
    | .spad _ | .side _ | .row .. => true
    | .mn _ | .outer _ => nest
    | _ => false)

/-- The core a killed, ended or saved task leaves: free, its engines and waits emptied, its stores kept to
perform (R411). -/
def Core.stopTask (c : Core) : Core :=
  { c with
    mode := .free, task := none, preempt := none, yieldF := none, saveOver := false, phase := none,
    flight := [], poison := 0, marks := keepMarks false c.marks, ldwReply := none,
    port := c.port.filter (fun e => match e.op with
      | .st .. => true
      | _ => false),
    track := Vector.replicate 16 none,
    pend := c.pend.filterMap (fun a => match a.op with
      | .store _ | .mst .. | .published .. => some a
      | .atomic op e v x _ => some { a with op := .atomic op e v x none }
      | _ => none),
    lastAsid := some c.sys.asid,
    loops := Loops.reset, ibuf := [],
    ctl := { Ctl.reset with latchEpoch := c.ctl.latchEpoch + 1, turn := c.ctl.turn,
                            busyPort := c.ctl.busyPort, pass := c.ctl.pass },
    eng := { Engines.reset with nextCmd := c.eng.nextCmd } }

/-- Kill one task that has started: its core stops, its slots are freed, it enters Killed (R411). -/
def State.killTask (s : State) (tid : Nat) (status : Byte) : State :=
  match s.task? tid with
  | none => s
  | some t =>
    match t.st with
    | .ended | .cancelled | .killed => s
    | _ =>
      let s := if (s.getCore t.core).task = some tid then s.modCore t.core Core.stopTask else s
      let s := s.mhub (fun h => { h with
        saves := h.saves.filter (fun v => decide (v.task ≠ tid)),
        queues := h.queues.map (freeSlots tid) })
      let s := s.modTask tid (fun t => { t with st := .killed, status := status })
      let s := s.addStatus t.region status
      let s := s.countDone t.region
      match s.task? tid, s.leafOf t with
      | some t, some r => s.taskRecord t r
      | _, _ => s

/-- The record of a task that another task's fault kills (R401). -/
def State.victimInfo (s : State) (tid : Nat) (code : BitVec 16) : FaultInfo :=
  match s.task? tid with
  | none => ⟨code, 0, 8, 0, 0, 0, 0, 0, 0, 0, false, none⟩
  | some t =>
    let c := match s.hub.saves.find? (fun v => v.task = tid) with
      | some v => v.image
      | none => s.getCore t.core
    let bt := match (c.ibuf ++ c.loops.buf).find? (fun p => p.1 = c.ctl.pc) with
      | some (_, w) => w.extractLsb' 496 8
      | none => 0
    ⟨code, 0, 8, 0, 0, 0, 0, c.eng.cidx, c.ctl.pc, bt, false, none⟩

def TState.live : TState → Bool
  | .ended | .cancelled | .killed => false
  | _ => true

/-- Tasks of a coordinate-fed leaf (R46). -/
def Region.total (r : Region) : Nat := r.f.ext0 * r.f.ext1 * r.f.ext2

/-- Entries of a queue that are available, by number. -/
def State.availIn (s : State) (desc : Nat) : List Nat :=
  (s.hub.queues.filter (fun q => decide (q.desc = desc))).flatMap (fun q =>
    (q.slots.filter (fun p => decide (p.2 = .avail))).map Prod.fst)

/-- Tasks of a leaf, by ordinal, leave Pending for Cancelled or Killed: they count in TDONE, write task records when
asked, and their status joins the region's (R52, R58, R63, R405, R411). Those of a refused region write none: REFUSED is no
status of a task record (R405). -/
def State.dropTasks (s : State) (r : Region) (ords : List Nat) (st : Byte) : State :=
  if ords.isEmpty then s
  else
    let s := s.addStatus r.id st
    let s := ords.foldl (fun s _ => s.countDone r.id) s
    if r.f.taskRec && decide (st ≠ 0x84) then
      ords.foldl (fun s o => s.putRec ⟨r.f.ring, complRec o (r.stage.getD 0) r.tag.toNat 0 0 2 st.toNat s.ns,
        false, none, some r.id, [], []⟩) s
    else s

/-- A unit all of whose leaves start no further task gives its reservations up (R48, R49, R70). -/
def Hub.unreserve (h : Hub) : Hub :=
  { h with reserved := h.reserved.filter (fun p => h.regs.any (fun r =>
      decide (r.kind = 0) && (decide (r.id = p.2) || decide (r.parent = some p.2)) && r.cancelled.isNone)) }

/-- A leaf starts no further task: those of its coordinates, or of its queue's available entries, are dropped with a
status (R52, R413). -/
def State.dropPending (s : State) (id : Nat) (st : Byte) : State :=
  match s.region? id with
  | none => s
  | some r =>
    let open_ := decide (r.kind = 0) && decide (r.st ≠ 3)
    let n := if open_ && decide (r.inq = 0) then r.total - r.next else 0
    let ords := if r.inq = 0 then (List.range n).map (r.next + ·) else if open_ then s.availIn r.inq else []
    let s := s.modRegion id (fun r => { r with cancelled := r.cancelled.or (some st), next := r.next + n })
    let s := s.mhub (fun h => { h.unreserve with queues := h.queues.map (fun q =>
      if r.inq ≠ 0 ∧ q.desc = r.inq then dropAvail q else q) })
    s.dropTasks r ords st

/-- Kill every live task of a list of regions with a record of `code`, and cancel what they have not
started (R413). -/
def State.killRegions (s : State) (ids : List Nat) (code : BitVec 16) (act : Nat) (status : Byte) :
    State :=
  let victims := (s.hub.tasks.filter (fun t => ids.contains t.region && t.st.live)).map Task.id
  let s := victims.foldl (fun s v => (s.faultRecord v (s.victimInfo v code) act).killTask v status) s
  ids.foldl (fun s id => s.dropPending id status) s

/-- Kill a task by its own fault, then its gang or together region (R411, R412). -/
def State.killPeers (s : State) (t : Task) : State :=
  t.peers.foldl (fun s p =>
    if decide (p ≠ t.id) && (match s.task? p with
      | some x => x.st.live
      | none => false) then
      (s.faultRecord p (s.victimInfo p fcPARTNER) 3).killTask p 0x80
    else s) (s.killTask t.id 0x80)

/-- Kill a task and its partners, then what KILL names (R411 to R413). -/
def State.killWide (s : State) (tid : Nat) : State :=
  match s.task? tid with
  | none => s
  | some t =>
    let s := s.killPeers t
    match s.leafOf t with
    | none => s
    | some r =>
      if r.f.kill then
        s.killRegions ((s.hub.regs.filter (fun x => x.f.asid = r.f.asid && decide (x.st ≠ 3))).map
          Region.id) fcCONTEXT 5 0x82
      else s.killRegions (s.below r.f.killNode true 8) fcSUBTREE 4 0x81

/-! ### Phase rollback (R408 to R410) -/

/-- Whether R398 chooses the phase for an error of the focus core consumed by a command numbered `cmd`
(none for an operation). -/
def Core.canRoll (c : Core) (cmd : Option Nat) : Bool :=
  match c.phase with
  | none => false
  | some p => p.restartable && !p.rolled && (match cmd with
      | some n => decide (p.firstCmd ≤ n)
      | none => true)

/-- Steps 1 to 5 of R409: commands of the phase discarded, the snapshot restored, the input commands
issued again; issue waits for them. -/
def Core.rollback (c : Core) (now : Nat) : Core :=
  match c.phase with
  | none => c
  | some p =>
    let old (n : Nat) : Bool := decide (n < p.firstCmd)
    let keepM (m : Option MCmd) : Option MCmd := m.filter (fun x => old x.id)
    let carried := c.eng.cq.filter (fun q => old q.id)
    let n := c.eng.nextCmd
    let again := p.inputs.zipIdx.map (fun (q, i) =>
      { q with id := n + i, pos := 0, hold := .restart, fl := 0, born := now })
    let open_ (m : MCmd) : Bool := match m.stage with
      | .done _ => false
      | _ => true
    let cnt (t : Nat) : Nat :=
      ((carried ++ again).filter (fun q => q.tok.toNat = t)).length +
        ((([keepM c.eng.act, keepM c.eng.pend].filterMap id).filter (fun m => open_ m && m.tok.toNat = t)).length)
    { c with
      regs := { p.regs with a := c.regs.a, b := Vector.replicate 8 none },
      loops := p.loops, poison := 0, marks := keepMarks true c.marks, ldwReply := none,
      -- the flags of a command that has completed are set (R139)
      flight := c.flight.filter (fun x => decide (x.dest = .none) && decide (x.ord = 9)),
      port := c.port.filter (fun e => match e.op with
        | .st .. | .at .. | .enq _ => true
        | _ => false),
      track := c.track.map (fun t => t.bind (fun x =>
        if x.reply.isSome then none else some { x with drop := true, late := true, cons := false })),
      pend := c.pend.filter (fun a => match a.op with
        | .ldWait .. | .ldHandle _ | .ldPcw _ => false
        | .engRead cmd .. => old cmd
        | _ => true),
      sys := { c.sys with rrbs := p.rrbs, rrba := p.rrba, rrbp := p.rrbp },
      eng := { c.eng with
        pcw := p.pcw, cq := carried ++ again, act := keepM c.eng.act, pend := keepM c.eng.pend,
        shadow := c.eng.shadow.filter (fun w => old w.cmd),
        got := c.eng.got.filter (fun x => old x.cmd), complete := c.eng.complete.filter (fun d => old d.id),
        waited := c.eng.waited.filter old, afifo := c.eng.afifo.filter (fun r => old r.cmd),
        bfifo := c.eng.bfifo.filter (fun b => b.cmd.all old), nextCmd := n + again.length,
        loading := if c.eng.bfifo.head?.all (fun b => b.cmd.all old) then c.eng.loading else none, hist := [],
        tokens := Vector.ofFn (fun (i : Fin 16) => BitVec.ofNat 8 (cnt i.val)) },
      ctl := { c.ctl with
        pc := p.pc, npc := none, trap := p.trap, trapRet := p.trapRet, replay := false, mark := true,
        since := 0, latchEpoch := c.ctl.latchEpoch + 1, found := [], ready := now + 1,
        wait := some (.rollback (again.map CopyCmd.id)), busyS := now, busyV0 := now, busyV1 := now,
        busyX := now },
      phase := some { p with rolled := true } }

/-! ### Taking a fault (R398, R403) -/

/-- A fault that a rollback may undo: an uncorrectable error, a failed check or a residue mismatch. -/
def rollable (code : BitVec 16) : Bool :=
  decide (code = fcUNCORR) || decide (code = fcPARITY) || decide (code = fcCHECK) ||
    decide (code = fcRESIDUE)

/-- The machine check of an error that a core's hardware detected as its task consumed it: it names the core that holds the
word, and the context of the consumer (R399, R406, R414, R415). A failed check names the S unit, because it cannot tell which
copy failed; the units of the memory dies and links are recorded by their homes. -/
def State.coreCheck (s : State) (f : FaultInfo) : State :=
  let core := (f.saw.bind Saw.core).getD s.cur
  let at_ (unit : Nat) : State := s.machineCheck 1 unit (dieOf core) f.code ((f.saw.map Saw.addr).getD 0) (some core) (some s.cur)
  if f.code = fcCHECK then s.machineCheck 1 8 (dieOf s.cur) fcCHECK 0 (some s.cur)
  else if f.code = fcPARITY then at_ 12
  else if f.code = fcRESIDUE then s.machineCheck 1 5 (dieOf s.cur) fcRESIDUE 0 (some s.cur)
  else if f.code = fcUNCORR ∧ f.detail.toNat < 14 then at_ f.detail.toNat
  else s

/-- The machine checks of the faults of one detection: a failed check is recorded once. -/
def State.coreChecks (s : State) (fs : List FaultInfo) : State :=
  let one := fs.find? (fun f => decide (f.code = fcCHECK))
  (one.toList ++ fs.filter (fun f => decide (f.code ≠ fcCHECK))).foldl State.coreCheck s

/-- Faults of one detection by a task of the core in focus, in slot order: each raises its record; then the
phase is rolled back, or the task killed and the kill widened (R398, R403). A core that runs no task has
nothing to give up. `cmd` is the consuming command, when one consumed the error. -/
def State.takeFaults (s : State) (cmd : Option Nat) (fs : List FaultInfo) : State :=
  match s.core.task with
  | none => s
  | some tid =>
    match fs with
    | [] => s
    | f :: rest =>
      let s := s.coreChecks (f :: rest)
      if (f :: rest).all (fun f => rollable f.code) && s.core.canRoll cmd then
        let s := (f :: rest).foldl (fun s f => s.faultRecord tid f 2) s
        s.mc (fun c => c.rollback s.pcyc)
      else
        let s := (f :: rest).foldl (fun s f => s.faultRecord tid f 3) s
        s.killWide tid

/-- Faults of a saved task, also while it resumes: each raises its record; then the phase of the saved image is rolled back, or
the task killed (R398, R403). -/
def State.takeSaved (s : State) (v : Saved) (cmd : Option Nat) (fs : List FaultInfo) : State :=
  let s := s.coreChecks fs
  if fs.all (fun f => rollable f.code) && v.image.canRoll cmd then
    (fs.foldl (fun s f => s.faultRecord v.task f 2) s).mhub (fun h => { h with saves := h.saves.map (fun x =>
      if x.task = v.task then Saved.mk x.core x.depth x.task (x.image.rollback s.pcyc) else x) })
  else (fs.foldl (fun s f => s.faultRecord v.task f 3) s).killWide v.task

/-- An error that an access of a task brings to the core in focus: the fault of that task, wherever it now is; of a task that
has left its core for good, nobody's. `fs` is given CIDX of the task. -/
def State.faultOf (s : State) (task cmd : Option Nat) (fs : BitVec 16 → List FaultInfo) : State :=
  match task with
  | none => s
  | some t =>
    match s.hub.saves.find? (fun v => decide (v.task = t)) with
    | some v => s.takeSaved v cmd (fs v.image.eng.cidx)
    | none => if s.core.task = some t then s.takeFaults cmd (fs s.core.eng.cidx) else s

/-- A fault of an operation at the bundle being issued. -/
def State.opInfo (s : State) (slot : Nat) (code detail : BitVec 16) : FaultInfo :=
  ⟨code, detail, slot, 0, 0, 0, 0, s.core.eng.cidx, s.core.ctl.curPc, s.core.ctl.btag, false, none⟩

/-- Take the fault of one operation. -/
def State.takeFault (s : State) (slot : Nat) (code detail : BitVec 16) : State :=
  s.takeFaults none [s.opInfo slot code detail]

/-! ### Replay and the return from it, traps and the return from them (R266, R304, R305) -/

/-- Enter replay mode at a bundle that reads poisoned registers: its PC is recorded and the routine at RPLADDR
issues in the next cycle; with RPLADDR = 0 the bundle is held until those registers have their replies
(R266). -/
def State.enterReplay (s : State) (regs : List SReg) : State :=
  if s.core.sys.rpladdr = 0 then
    s.mc (fun c => c.mctl (fun k => { k with wait := some (.hold regs), found := [] }))
  else
    s.mc (fun c => c.mctl (fun k => { k with
      replay := true, replayRet := k.curPc, pc := c.sys.rpladdr, npc := none, ready := s.pcyc + 1,
      found := [] }))

/-- ERET (R305): replay mode returns to the recorded bundle, trap mode to the trap return as a taken
transfer. -/
def State.returnFrom (s : State) : State :=
  if s.core.ctl.replay then
    s.mc (fun c => c.mctl (fun k => { k with replay := false, npc := some k.replayRet }))
  else
    s.mc (fun c => c.mctl (fun k => { k with
      trap := false, npc := some k.trapRet, mark := true, ready := max k.ready (s.pcyc + 2) }))

/-- Taking a TRAP that has a handler (R304): the code to the destination, PC + 64 to the trap return, trap
mode set, the next PC at TRAPADDR, whose bundle is a group mark. -/
def State.enterTrap (s : State) (d : SReg) (code : BitVec 16) : State :=
  let s := s.landS 1 .y d (code.zeroExtend 64)
  s.mc (fun c => c.mctl (fun k => { k with
    trap := true, trapRet := k.curPc + 64, npc := some c.sys.trapaddr, mark := true,
    ready := max k.ready (s.pcyc + 2) }))

/-! ### Issue (R175, R452 to R454, R469) -/

/-- A failing check: its code and DETAIL, and the core-local word that it consumed. -/
structure FC where
  code : BitVec 16
  detail : BitVec 16
  saw : Option Saw := none
  deriving DecidableEq, Repr

def fcIf (b : Bool) (code detail : BitVec 16) : Option FC := if b then some ⟨code, detail, none⟩ else none

/-- The first failing check of a list. -/
def fcFirst : List (Option FC) → Option FC
  | [] => none
  | some f :: _ => some f
  | none :: rest => fcFirst rest

/-- The poisoned scalars among the registers read. -/
def Core.poisonedIn (c : Core) (srcs : List Mark) : List SReg :=
  (srcs.filterMap (fun m => match m with
    | .s r => if c.poison.getLsbD r.toNat then some r else none
    | _ => none)).eraseDups

def Core.readsPoison (c : Core) (srcs : List Mark) : Bool := !(c.poisonedIn srcs).isEmpty

/-- The marked word that a read meets (R399): of a row, any of its words. -/
def Core.markRead (c : Core) (m : Mark) : Option Mark :=
  match m with
  | .row r _ => c.marks.find? (fun x => match x with
      | .row q _ => decide (q = r)
      | _ => false)
  | m => if c.hasMark m then some m else none

/-- The consumption of the error of a marked word (R399): UNCORR in a memory or a row, PARITY in a register. -/
def Mark.consumed (m : Mark) : FC :=
  let (unit, a) := m.place
  if unit = 12 then ⟨fcPARITY, 0, some ⟨none, a⟩⟩ else ⟨fcUNCORR, BitVec.ofNat 16 unit, some ⟨none, a⟩⟩

def Core.consumes (c : Core) (m : Mark) : Option FC := (c.markRead m).map Mark.consumed

/-- Note a failing check of the bundle's check pass. -/
def State.noteFault (s : State) (slot : Nat) (f : Option FC) : State :=
  match f with
  | none => s
  | some f => s.mc (fun c => c.mctl (fun k => { k with found := k.found ++ [⟨slot, f.code, f.detail, f.saw⟩] }))

/-- Scalars by name, as physical registers read. -/
def State.srcS (s : State) (l : List SReg) : List Mark := l.map (fun r => .s (rotS s.core.sys r))

/-- The phase is no longer restartable (R301, R408). -/
def State.breakPhase (s : State) : State :=
  s.mc (fun c => { c with phase := c.phase.map (fun p => { p with restartable := false }) })

/-- A phase that reads a row it has not written breaks R301. -/
def State.readRows (s : State) (rows : List Row) : State :=
  match s.core.phase with
  | none => s
  | some p => if rows.all (fun r => p.written.contains r) then s else s.breakPhase

def rowsOf (l : List Mark) : List Row :=
  l.filterMap (fun m => match m with
    | .row r _ => some r
    | _ => none)

/-- The pass in which an operation's memory is looked up, when its guard is true: the second check pass, or alone when no
late register stops it. -/
def State.checksHere (s : State) (g : PReg) (srcs : List Mark) : Bool :=
  s.preg g && (match s.core.ctl.pass with
    | .scalar => true
    | .alone => !s.core.readsPoison srcs
    | _ => false)

/-- Issue one operation: the checks in the order of R469, then its effect. `static` fails without reading
a scalar, `scal` after; `srcs` are the registers it reads. Alone, it is a bundle of its own; in a bundle it
takes part in the pass that step is making. A guarded-off operation makes no check and has no effect
beyond occupying its unit, which `occupy` does (R175). -/
def issue (slot : Slot) (g : PReg) (srcs : List Mark) (static scal : Option FC)
    (occupy eff : State → State) (s : State) : Host.Outcome State Fault Refusal :=
  let on := s.preg g
  let n := slotNum slot
  let reads := (if g = 0 then [] else [Mark.p (rotP s.core.sys g)]) ++ (if on then srcs else [])
  match s.core.ctl.pass with
  | .static => .next (((if on then s.noteFault n static else s)).mc (fun c => c.mctl (fun k =>
      { k with reads := k.reads ++ reads.map (fun m => (n, m)) })))
  | .scalar => .next (if on then s.noteFault n scal else s)
  | .go => .next (occupy (if on then eff (s.readRows (rowsOf reads)) else s))
  | .alone =>
    match (if on then static else none) with
    | some f => .next (s.takeFault n f.code f.detail)
    | none =>
      if s.core.readsPoison reads then
        .next (if s.core.ctl.replay then s.takeFault n fcREPLAY 0 else s.enterReplay (s.core.poisonedIn reads))
      else
        match fcFirst (reads.map s.core.consumes) with
        | some f => .next (s.takeFaults none [{ s.opInfo n f.code f.detail with saw := f.saw }])
        | none =>
          match (if on then scal else none) with
          | some f => .next (s.takeFaults none [{ s.opInfo n f.code f.detail with saw := f.saw }])
          | none => .next (occupy (if on then eff (s.readRows (rowsOf reads)) else s))

/-- A unit of an operation that replay mode does not admit: OPERAND 10 (R460). -/
def State.noReplay (s : State) : Option FC := fcIf s.core.ctl.replay fcOPERAND 10

end Sys2Proof.Machine
end

