-- ==== Sys2Proof/Machine/Memory.lean ====
section
/-! DEFINITION. Memories as accesses meet them: scratchpads with their compressed tiles (R92 to R99),
side banks, weight stores, memory dies with their units and poison (R85, R87, R424 to R429), host memory
and host windows (R362 to R366), shadow writes and their publication (R328, R329). -/

namespace Sys2Proof.Machine

open Sys2Proof

/-! ### Compressed tiles (R94 to R98) -/

/-- Header entry of tile t, 0 to 511. -/
def Curd.entry (c : Curd) (t : Nat) : BitVec 32 := c.hdr.getD t 0

/-- Whether a tile is stored plain: its region's summary bit, or its own PLAIN bit. -/
def Curd.plain (c : Curd) (t : Nat) : Bool :=
  c.summary.getLsbD (t / 16) || (c.entry t).getLsbD 31

/-- The entries of a dictionary bank. -/
def Curd.bankOf (c : Curd) (bank : Bool) : Vector Line 16 := if bank then c.dict1 else c.dict0

/-- Entry i of dictionary content as 64 bytes, and of a bank. -/
def dictLine (d : Vector Line 16) (i : Nat) : List Byte := leBytes 64 (d.getD i 0).toNat
def Curd.dict (c : Curd) (bank : Bool) (i : Nat) : List Byte := dictLine (c.bankOf bank) i

/-- Lines j on of a stored tile: `cls` the remaining class codes, `ip` and `rp` the next index byte and
raw line, `prev` the line before. -/
def expandGo (rd : Nat → Byte) (dict : Nat → List Byte) : List Nat → Nat → Nat → List Byte → List Byte
  | [], _, _, _ => []
  | k :: ks, ip, rp, prev =>
    let zero := List.replicate 64 (0 : Byte)
    let (l, ip', rp') := match k with
      | 0 => (zero, ip, rp)
      | 1 => (dict ((rd ip).toNat % 16), ip + 1, rp)
      | 2 => ((List.range 64).map (fun i => rd (rp + i)), ip, rp + 64)
      | _ => (prev, ip, rp)
    l ++ expandGo rd dict ks ip' rp' l

/-- The 4,096 bytes that the stored tile t expands to (R95). -/
def Core.expandTile (c : Core) (t : Nat) : List Byte :=
  let e := c.curd.entry t
  let base := t / 16 * 65536 + 32 * (e.toNat % 2048)
  let rd (i : Nat) : Byte := c.spad.get (base + i)
  let cls := (List.range 64).map (fun j => (rd (j / 4)).toNat >>> (2 * (j % 4)) % 4)
  let nd := (cls.filter (fun k => decide (k = 1))).length
  expandGo rd (c.curd.dict (e.getLsbD 24)) cls 16 (16 + nd) (List.replicate 64 0)

/-- Cut into 64-byte lines. -/
def linesOf (bs : List Byte) : List (List Byte) := (List.range 64).map (fun j => (bs.drop (64 * j)).take 64)

/-- Class and index of each line, in order (R96). -/
def classify (dict : Nat → List Byte) : List Byte → List (List Byte) → List (Nat × Nat)
  | _, [] => []
  | prev, l :: ls =>
    let k : Nat × Nat :=
      if l.all (fun b => decide (b = 0)) then (0, 0)
      else if l = prev then (3, 0)
      else match (List.range 16).find? (fun i => decide (dict i = l)) with
        | some i => (1, i)
        | none => (2, 0)
    k :: classify dict l ls

/-- The stored form of a tile, or none when it is stored plain (R96). -/
def compress (dict : Nat → List Byte) (bs : List Byte) : Option (List Byte) :=
  let ls := linesOf bs
  let ks := classify dict [] ls
  let head := leBytes 16 (packList 2 (ks.map Prod.fst))
  let idx := (ks.filter (fun k => decide (k.1 = 1))).map (fun k => BitVec.ofNat 8 k.2)
  let raw := ((ks.zip ls).filter (fun p => decide (p.1.1 = 2))).flatMap Prod.snd
  let body := head ++ idx ++ raw
  let n := (body.length + 31) / 32 * 32
  if 4096 ≤ n then none else some (body ++ List.replicate (n - body.length) 0)

/-- A header entry: PLAIN, DB, LEN, and START of the tile's own slot (R94). -/
def hdrEntry (plain db : Bool) (len t : Nat) : BitVec 32 :=
  BitVec.ofNat 32 (recBits [(31, 1, if plain then 1 else 0), (24, 1, if db then 1 else 0), (16, 8, len),
    (0, 11, 128 * (t % 16))])

def Curd.setEntry (c : Curd) (t : Nat) (e : BitVec 32) : Curd := { c with hdr := c.hdr.setIfInBounds t e }
def Curd.setSummary (c : Curd) (r : Nat) (b : Bool) : Curd :=
  { c with summary := if b then c.summary ||| (1#32 <<< r) else c.summary &&& ~~~(1#32 <<< r) }

/-- The summary bit returns to 1 when every tile of a region is plain (R98). -/
def Curd.settle (c : Curd) (r : Nat) : Curd :=
  if (List.range 16).all (fun i => (c.entry (16 * r + i)).getLsbD 31) then c.setSummary r true else c

/-- Where the stored bytes of a tile begin, and how many there are (R94). -/
def Curd.stored (c : Curd) (t : Nat) : Nat × Nat :=
  let e := c.entry t
  (t / 16 * 65536 + 32 * (e.toNat % 2048), 32 * (e.extractLsb' 16 8).toNat)

/-- Marked scratchpad words that lie whole within n bytes at a become good: they have been written (R399). -/
def Core.unmarkSpan (c : Core) (a n : Nat) : Core :=
  { c with marks := c.marks.filter (fun m => match m with
      | .spad w => !(decide (a ≤ 8 * w) && decide (8 * w + 8 ≤ a + n))
      | _ => true) }

/-- The expansion that an ordinary write makes first (R98). -/
def Core.plainTile (c : Core) (t : Nat) : Core :=
  if c.curd.plain t then c
  else ({ c with spad := c.spad.write (4096 * t) (c.expandTile t),
                 curd := (c.curd.setEntry t (hdrEntry true false 128 t)).settle (t / 16) }).unmarkSpan (4096 * t) 4096

/-- The header of a region is put in use: every other entry set to PLAIN when the summary bit was 1 (R97). -/
def Curd.open_ (c : Curd) (r : Nat) : Curd :=
  if c.summary.getLsbD r then
    (List.range 16).foldl (fun c i => c.setEntry (16 * r + i) (hdrEntry true false 128 (16 * r + i)))
      (c.setSummary r false)
  else c

/-- A tile's stored bytes and its header entry, with START of the tile's own slot, are put in place (R94, R97). -/
def Core.storeTile (c : Core) (t : Nat) (plain db : Bool) (len : Nat) (bs : List Byte) : Core :=
  ({ c with spad := c.spad.write (4096 * t) bs,
            curd := ((c.curd.open_ (t / 16)).setEntry t (hdrEntry plain db len t)).settle (t / 16) }).unmarkSpan
    (4096 * t) bs.length

/-- Write a whole tile through a curd handle, with the dictionary content that its compression began with (R96, R97, R99). -/
def Core.curdTile (c : Core) (t : Nat) (bank : Bool) (dict : Vector Line 16) (bs : List Byte) : Core :=
  match compress (dictLine dict) bs with
  | some st => c.storeTile t false bank (st.length / 32) st
  | none => c.storeTile t true bank 128 bs

/-- Bytes of a scratchpad as a reader gets them (R98). -/
def Core.spadRead (c : Core) (a n : Nat) : List Byte :=
  if (List.range ((a + n) / 4096 - a / 4096 + 1)).all (fun i => c.curd.plain (a / 4096 + i)) then
    c.spad.read a n
  else
    let tiles := (List.range ((a + n) / 4096 - a / 4096 + 1)).map (fun i =>
      let t := a / 4096 + i
      if c.curd.plain t then none else some (c.expandTile t))
    (List.range n).map (fun i =>
      match (tiles.getD ((a + i) / 4096 - a / 4096) none) with
      | some bs => bs.getD ((a + i) % 4096) 0
      | none => c.spad.get (a + i))

/-! ### Marked words (R399) -/

/-- The bits of byte a that writes of bytes, each with the bits it changes, cover together. -/
def coverAt (l : List (Nat × Byte)) (a : Nat) : Byte := l.foldl (fun m p => if p.1 = a then m ||| p.2 else m) 0

/-- Marked words among `ws` that a list of writes, each with the bits it changes, touches: those covered in part, and those
covered whole. -/
def markSplit (ws : List Nat) (l : List (Nat × Byte)) : List Nat × List Nat :=
  let part (w : Nat) : Bool := (List.range 8).any (fun i => decide (coverAt l (8 * w + i) ≠ 0))
  let whole (w : Nat) : Bool := (List.range 8).all (fun i => decide (coverAt l (8 * w + i) = 0xFF))
  (ws.filter (fun w => part w && !whole w), ws.filter whole)

/-- Written bytes, each whole. -/
def wholeBytes (l : List (Nat × Byte)) : List (Nat × Byte) := l.map (fun p => (p.1, 0xFF))

def spadWords (l : List Mark) : List Nat :=
  l.filterMap (fun m => match m with
    | .spad w => some w
    | _ => none)

def sideWords (l : List Mark) : List Nat :=
  l.filterMap (fun m => match m with
    | .side w => some w
    | _ => none)

def Memory.setAll (m : Memory) (l : List (Nat × Byte)) : Memory := l.foldl (fun m p => m.set p.1 p.2) m

/-- A marked word that a read of bytes a to a + n − 1 of the scratchpad meets: of a compressed tile, any of its stored bytes
(R98, R399). -/
def Core.spadMark (c : Core) (a n : Nat) : Option Mark :=
  let spans := (List.range ((a + n - 1) / 4096 - a / 4096 + 1)).map (fun i =>
    let t := a / 4096 + i
    if c.curd.plain t then (max a (4096 * t), min (a + n) (4096 * t + 4096))
    else
      let (b, k) := c.curd.stored t
      (b, b + k))
  c.marks.find? (fun m => match m with
    | .spad w => spans.any (fun (lo, hi) => decide (8 * w < hi) && decide (lo < 8 * w + 8))
    | _ => false)

def Core.spadMarked (c : Core) (a n : Nat) : Bool := (c.spadMark a n).isSome

/-- A tile that an ordinary write cannot expand: a stored word of it is marked. -/
def Core.tileBad (c : Core) (t : Nat) : Bool := !c.curd.plain t && c.spadMarked (4096 * t) 1

/-- An ordinary write into these tiles expands them first; the answer holds the tiles that cannot be (R98, R399). -/
def Core.expandFor (c : Core) (tiles : List Nat) : Core × List Nat :=
  ((tiles.filter (fun t => !c.tileBad t)).foldl Core.plainTile c, tiles.filter c.tileBad)

/-- An ordinary write of bytes into a scratchpad, and the marked word met when one was covered in part or a tile could not be
expanded. -/
def Core.spadStore (c : Core) (l : List (Nat × Byte)) : Core × Option Mark :=
  let (c, stuck) := c.expandFor ((l.map (fun p => p.1 / 4096)).eraseDups)
  let (part, full) := markSplit (spadWords c.marks) (wholeBytes l)
  let l := if part.isEmpty && stuck.isEmpty then l
    else l.filter (fun p => !part.contains (p.1 / 8) && !stuck.contains (p.1 / 4096))
  ({ c with spad := c.spad.setAll l,
            marks := if full.isEmpty then c.marks
              else c.marks.filter (fun m => match m with
                | .spad w => !full.contains w || stuck.contains (w / 512)
                | _ => true) },
    (part.head?.map Mark.spad).or (stuck.findSome? (fun t => c.spadMark (4096 * t) 4096)))

def Core.sideStore (c : Core) (l : List (Nat × Byte)) : Core × Option Mark :=
  let (part, full) := markSplit (sideWords c.marks) (wholeBytes l)
  let l := if part.isEmpty then l else l.filter (fun p => !part.contains (p.1 / 8))
  ({ c with side := c.side.setAll l,
            marks := if full.isEmpty then c.marks
              else c.marks.filter (fun m => !(full.map Mark.side).contains m) }, part.head?.map Mark.side)

/-- A marked word among bytes a to a + n − 1 of the side bank. -/
def Core.sideMark (c : Core) (a n : Nat) : Option Mark :=
  c.marks.find? (fun m => match m with
    | .side w => decide (8 * w < a + n) && decide (a < 8 * w + 8)
    | _ => false)

def Core.sideMarked (c : Core) (a n : Nat) : Bool := (c.sideMark a n).isSome

/-- Consecutive addresses of bytes. -/
def placed (a : Nat) (bs : List Byte) : List (Nat × Byte) := bs.zipIdx.map (fun (b, i) => (a + i, b))

/-! ### Units of the memory dies (R85, R425) -/

/-- DIE and UNIT of a machine check for a memory key (R406). -/
def keyDie (k : Nat) : Nat := 5 + k / 2 ^ 39
def keyUnit (k : Nat) : Nat := if k / 2 ^ 39 < 8 then 15 else 16

/-- The units to be poisoned when a unit of granule g is found uncorrectable: those under which its blocks were last
written, or the unit itself where none has been since reset. -/
def State.poisonKeys (s : State) (g : BitVec 2) (u : Nat) : List (Nat × Nat) :=
  ((List.range (granSize g / 32)).map (fun i =>
    let v := s.codes.get (u / 32 + i)
    let h : BitVec 2 := if v = 0 then g else BitVec.ofNat 2 (v.toNat - 1)
    (unitAt h (u + 32 * i), granSize h))).eraseDups

/-- A unit of granule g is poisoned: its check bits are the poison pattern of the granule it was last written under
(R425). -/
def State.poisonUnit (s : State) (g : BitVec 2) (u : Nat) : State :=
  { s with poison := (s.poisonKeys g u).filter (fun p => !s.poison.contains p) ++ s.poison,
           flips := s.flips.filter (fun e => decide (unitAt g e.1 ≠ u)) }

/-- The machine check of a unit without a consumer. -/
def State.unitLog (s : State) (g : BitVec 2) (u : Nat) (code : BitVec 16) : State :=
  s.machineCheck 0 (keyUnit u) (keyDie u) code (unitDpa s.fab.node u (granSize g)).toNat none

def Consumer.sev : Consumer → Nat
  | .nobody => 0
  | _ => 1

def Consumer.here : Consumer → Option Nat
  | .core n => some n
  | _ => none

/-- A unit is found uncorrectable: the home poisons it, and its machine check is raised (R425, R406). -/
def State.unitFails (s : State) (by_ : Consumer) (g : BitVec 2) (u : Nat) : State :=
  (s.poisonUnit g u).machineCheck by_.sev (keyUnit u) (keyDie u) fcUNCORR (unitDpa s.fab.node u (granSize g)).toNat by_.here

/-- The unit at a DPA is found uncorrectable by the core in focus. -/
def State.unitCheck (s : State) (g : BitVec 2) (u : Dpa) : State :=
  match (if s.farLost u then none else dpaKey g u) with
  | some k => s.unitFails (.core s.cur) g (unitAt g k)
  | none => s

/-- DETAIL of UNCORR at a unit. -/
def unitDetail (g : BitVec 2) (u : Dpa) : BitVec 16 :=
  match dpaKey g u with
  | some k => uncorrDetail k
  | none => 15

/-- Whether a key lies in secure memory (R370). -/
def State.secureKey (s : State) (k : Nat) : Bool :=
  let d := k / 2 ^ 39
  let f := k % 2 ^ 39 / 2 ^ 18
  decide (d < 8) && (List.range 16).any (fun i =>
    let e := s.hub.regions.getD (16 * d + i) 0
    e.getLsbD 63 && decide ((e.extractLsb' 0 18).toNat ≤ f) && decide (f < (e.extractLsb' 18 18).toNat))

/-- An access by an agent outside the secure world to secure memory (R450). -/
def State.secureBad (s : State) (sec : Bool) (g : BitVec 2) (pa : Dpa) (n : Nat) : Bool :=
  !sec && !s.hub.regions.toList.all (fun e => decide (e = 0)) &&
    (List.range n).any (fun i => match dpaKey g (dpaAdd pa i) with
      | some k => s.secureKey k
      | none => false)

/-- An access has read these units of granule g, decoded as `ds` says: an error corrected raises a check of severity 0, and
each unit found uncorrectable is poisoned and raises its own (R424, R425). -/
def State.decoded (s : State) (by_ : Consumer) (g : BitVec 2) (ds : List (Nat × Decoded)) : State :=
  if ds.all (fun d => decide (d.2 = .clean)) then s
  else
    (ds.foldl (fun s (u, d) => match d with
      | .corrected => s.unitLog g u 0
      | .failed => s.unitFails by_ g u
      | _ => s) s).draw.2

/-- An uncorrectable unit among those of n bytes. -/
def State.badIn (s : State) (g : BitVec 2) (pa : Dpa) (n : Nat) : Option Nat :=
  ((s.poison.map Prod.fst ++ s.flips.map Prod.fst).map (unitAt g)).find? (fun u =>
    decide (s.decodes g u = .failed) && (unitKeys g pa n).contains u)

/-- The effects on the memory dies of a read of n bytes that has been answered. -/
def State.hasRead (s : State) (by_ : Consumer) (g : BitVec 2) (pa : Dpa) (n : Nat) : State :=
  (s.decoded by_ g (s.decodeAll g (unitKeys g pa n))).buffers false (keysOf g pa n)

/-- A write of an access: the units it reads first, the bytes, and the buffer. The answer names a unit left as it was
(R87, R425). -/
def State.store (s : State) (by_ : Consumer) (g : BitVec 2) (pa : Dpa) (bs : List Byte) : State × Option Dpa :=
  let ds := s.decodeAll g (partUnits g pa bs.length)
  let (t, bad) := s.memWrite g pa bs
  ((t.decoded by_ g ds).buffers true (keysOf g pa bs.length), bad)

/-- The hub reports what it and the walkers have found. -/
def State.hubCheck (s : State) : State :=
  s.hub.found.foldl (fun s (g, d) => s.decoded .nobody g [d]) (s.mhub (fun h => { h with found := [] }))

/-! ### Host windows (R363 to R366) -/

/-- Whether a memory key of node `node` lies in an enabled window. -/
def inWindow (node : BitVec 10) (w : Window) (k : Nat) : Bool :=
  let c := dieCode w.dbase
  let o := offOf w.dbase
  let n := w.len.toNat
  w.en && decide (nodeOf w.dbase = node) && (if c = 0 then
      decide (k / 2 ^ 39 < 8) && decide (o / 2 ^ 18 ≤ k % 2 ^ 39 / 2 ^ 15) &&
        decide (k % 2 ^ 39 / 2 ^ 15 < o / 2 ^ 18 + n)
    else decide (k / 2 ^ 39 + 1 = c) && decide (o ≤ k % 2 ^ 39) && decide (k % 2 ^ 39 < o + n * 2 ^ 18))

def State.windowOf (s : State) (k : Nat) : Option Nat :=
  (List.range 64).find? (fun i => match s.host.windows[i]? with
    | some w => inWindow s.fab.node w k
    | none => false)

/-- Unpublished 64-byte lines held by near die d: those of stores, and those of shadow writes into windows (R333,
R364). -/
def State.unpubLines (s : State) (d : Nat) : List Nat :=
  let shadows := (s.core :: s.parked.map Prod.snd ++ s.hub.saves.map Saved.image).flatMap (fun c => c.eng.shadow.filterMap (fun w =>
    if w.pl.sp = .mem ∧ (s.windowOf w.pl.addr).isSome then some w.pl.addr else none))
  (((s.host.unpub.map Unpub.key ++ shadows).map (fun k => k / 64)).filter (fun l =>
    decide (l * 64 / 2 ^ 39 = d))).eraseDups

/-- Whether writing a key would need a line beyond 8 MiB (R364, R449). -/
def State.windowFull (s : State) (k : Nat) : Bool :=
  (s.windowOf k).isSome && (let l := s.unpubLines (k / 2 ^ 39)
    decide (131072 ≤ l.length) && !l.contains (k / 64))

/-- The unpublished lines of windows among places that are to be written and that no near die holds yet (R364). -/
def State.newLines (s : State) (held : List Nat) (keys : List Nat) : List Nat :=
  (((keys.filter (fun k => (s.windowOf k).isSome)).map (fun k => k / 64)).eraseDups).filter (fun l =>
    !held.contains l && !(s.unpubLines (l * 64 / 2 ^ 39)).contains l)

/-- How many of a list of writes, each of some keys, keep every near die within its 8 MiB (R364, R449). -/
def State.fitting (s : State) : List Nat → List (List Nat) → Nat
  | _, [] => 0
  | held, ks :: rest =>
    let held := s.newLines held ks ++ held
    if (List.range 8).all (fun d => (s.newLines [] ks).all (fun l => decide (l * 64 / 2 ^ 39 ≠ d)) ||
        decide ((s.unpubLines d).length + held.countP (fun l => decide (l * 64 / 2 ^ 39 = d)) ≤ 131072)) then
      1 + State.fitting s held rest
    else 0

/-- Keep the published value of the bytes a task's device write changes (R333, R364). -/
def State.keepOld (s : State) (task : Option Nat) (keys : List Nat) : State :=
  if (s.host.windows.toList.any Window.en) then
    keys.foldl (fun s k =>
      match s.windowOf k with
      | some w => s.mhost (fun h => { h with
          unpub := h.unpub ++ [⟨k, s.mem.get k, task⟩],
          wrote := if h.wrote.contains (task, w) then h.wrote else h.wrote ++ [(task, w)] })
      | none => s) s
  else s

/-- A write that is no device write of a task here: the host sees it at once (R333, R366). -/
def State.dropOld (s : State) (keys : List Nat) : State :=
  if s.host.unpub.isEmpty then s
  else s.mhost (fun h => { h with unpub := h.unpub.filter (fun u => !keys.contains u.key) })

/-- The byte at a key that the host reads through a window of granule g (R364). -/
def State.hostView (s : State) (g : BitVec 2) (k : Nat) : Byte :=
  match s.host.unpub.find? (fun u => u.key = k) with
  | some u => u.old
  | none => s.memByte g k

/-- The unpublished entries of a task are published: they and every earlier entry of the same byte leave. -/
def publishKeys (task : Option Nat) : List Unpub → List Unpub
  | [] => []
  | u :: us =>
    if decide (u.task = task) || us.any (fun v => decide (v.key = u.key) && decide (v.task = task)) then
      publishKeys task us
    else u :: publishKeys task us

/-- Write host memory at a host physical address. -/
def State.hostWrite (s : State) (a : Nat) (bs : List Byte) : State :=
  s.mhost (fun p => { p with mem := p.mem.write a bs,
                             written := p.written ++ (List.range bs.length).map (· + a) })

/-- Read host memory: bytes no access of the run wrote are the host's own. -/
def State.hostRead (s : State) (a n : Nat) : List Byte :=
  (List.range n).map (fun i =>
    if s.host.written.contains (a + i) then s.host.mem.get (a + i) else Config.hostByte (a + i))

/-- The host physical address of an offset of die code 0xD (R362). -/
def State.hostAddr (s : State) (pa : Dpa) : Nat := s.fab.hmbase.toNat * 2 ^ 39 + offOf pa

/-- A window's version advances and its counter is written to host memory (R365). -/
def State.bumpWindow (s : State) (i : Nat) : State :=
  match s.host.windows[i]? with
  | none => s
  | some w =>
    let v := w.vcur + 1
    let s := s.mhost (fun h => { h with windows := h.windows.setIfInBounds i { w with vcur := v } })
    s.hostWrite w.vaddr.toNat (leBytes 8 v.toNat)

/-! ### Shadow writes (R328, R329) -/

/-- A byte at a place, as published; of memory, as granule g reads it. -/
def State.placeByte (s : State) (g : BitVec 2) (p : Place) : Byte :=
  match p.sp with
  | .mem => s.memByte g p.addr
  | .spad n => ((s.getCore n).spadRead p.addr 1).headD 0
  | .side n => (s.getCore n).side.get p.addr
  | .wstore d => (s.wstore.getD d []).get p.addr
  | .host => (s.hostRead p.addr 1).headD 0
  | .remote => Config.freeByte (Nat.pair p.addr s.fresh)

/-- A byte under a shadow write. -/
def Shadow.over (w : Shadow) (b : Byte) : Byte := (b &&& ~~~w.m) ||| (w.v &&& w.m)

/-- A shadow write whose bytes are those of its place: not a tile's stored form. -/
def Shadow.shows (w : Shadow) (p : Place) : Bool :=
  decide (w.pl = p) && (match w.tile with
    | .stored _ => false
    | _ => true)

/-- Overlay a core's own shadow writes on bytes that its own accesses read: new once the command's
completion has been waited on, and old or new element by element before (R328). `v` numbers the free
choices. -/
def overlay (sh : List Shadow) (waited : List Nat) (v : Nat) (p : Place) (b : Byte) : Byte :=
  sh.foldl (fun b w =>
    if w.shows p ∧ (waited.contains w.cmd ∨ Config.freeBit (Nat.pair v (Nat.pair w.cmd w.elem))) then w.over b else b) b

/-- Own accesses of the focus core: the bytes read at consecutive places. -/
def State.ownBytes (s : State) (sp : Space) (a : Nat) (raw : List Byte) : List Byte :=
  if s.core.eng.shadow.isEmpty then raw
  else raw.zipIdx.map (fun (b, i) => overlay s.core.eng.shadow s.core.eng.waited s.fresh ⟨sp, a + i⟩ b)

/-- A read that met shadow writes has used a free value's number. -/
def State.usedShadow (s : State) : State := if s.core.eng.shadow.isEmpty then s else s.draw.2

/-- The order in which commands issued: by cycle, then by core, and on one core by number. -/
def Shadow.before (x y : Shadow) : Bool :=
  decide (x.born < y.born) || (decide (x.born = y.born) &&
    (decide (x.core < y.core) || (decide (x.core = y.core) && decide (x.cmd < y.cmd))))

/-- Stable order by command (R329). -/
def insShadow (x : Shadow) : List Shadow → List Shadow
  | [] => [x]
  | y :: ys => if x.before y then x :: y :: ys else y :: insShadow x ys

def sortShadow (l : List Shadow) : List Shadow := l.foldl (fun acc x => insShadow x acc) []

/-- The command of a shadow write: its core and number. -/
def Shadow.by_ (w : Shadow) : Nat × Nat := (w.core, w.cmd)

def overAll (m : Memory) (l : List Shadow) : Memory :=
  l.foldl (fun m w => m.set w.pl.addr (w.over (m.get w.pl.addr))) m

/-- The bits that each byte's writes cover. -/
def coverOf (l : List Shadow) : List (Nat × Byte) := l.map (fun w => (w.pl.addr, w.m))

/-- Bytes that writes cover whole, in one or in parts. -/
def fullBytes (l : List Shadow) : List Nat :=
  ((l.map (fun w => w.pl.addr)).eraseDups).filter (fun a => decide (coverAt (coverOf l) a = 0xFF))

/-- Published bytes reach a scratchpad: a marked word covered whole is cleared, one covered in part stays, as does a
tile that cannot be expanded; the answer holds the writes that did not take place (R98, R399). -/
def Core.spadOver (c : Core) (l : List Shadow) : Core × List Shadow :=
  let (c, stuck) := c.expandFor ((l.map (fun w => w.pl.addr / 4096)).eraseDups)
  let (part, full) := markSplit (spadWords c.marks) (coverOf l)
  let bad (w : Shadow) : Bool := part.contains (w.pl.addr / 8) || stuck.contains (w.pl.addr / 4096)
  ({ c with spad := overAll c.spad (l.filter (fun w => !bad w)),
            marks := c.marks.filter (fun m => match m with
              | .spad w => !full.contains w || stuck.contains (w / 512)
              | _ => true) }, l.filter bad)

def Core.sideOver (c : Core) (l : List Shadow) : Core × List Shadow :=
  let (part, full) := markSplit (sideWords c.marks) (coverOf l)
  let bad (w : Shadow) : Bool := part.contains (w.pl.addr / 8)
  ({ c with side := overAll c.side (l.filter (fun w => !bad w)),
            marks := c.marks.filter (fun m => !(full.map Mark.side).contains m) }, l.filter bad)

/-- One tile of a scratchpad under the curd writes of a run: the new bytes over those the tile expands to, compressed
again (R97). What the run does not cover of a marked tile cannot be kept: the tile stays. -/
def Core.curdOver (c : Core) (t : Nat) (bank : Bool) (dict : Vector Line 16) (own : List Shadow) : Core × List Shadow :=
  if c.spadMarked (4096 * t) 4096 && decide ((fullBytes own).length < 4096) then (c, own)
  else
    let bs := (List.range 4096).map (fun i =>
      own.foldl (fun b w => if w.pl.addr = 4096 * t + i then w.over b else b) ((c.spadRead (4096 * t + i) 1).headD 0))
    (c.curdTile t bank dict bs, [])

/-- A tile moved as stored: its bytes and its header entry (R279). -/
def Core.movedOver (c : Core) (t : Nat) (e : BitVec 32) (own : List Shadow) : Core :=
  let n := 32 * (e.extractLsb' 16 8).toNat
  c.storeTile t (e.getLsbD 31) (e.getLsbD 24) (e.extractLsb' 16 8).toNat ((own.drop (own.length - n)).map Shadow.v)

/-- Scratchpad writes in runs of one command and one manner of writing, in order. -/
def tileRuns : List Shadow → List (List Shadow)
  | [] => []
  | w :: ws =>
    match tileRuns ws with
    | (v :: vs) :: rest =>
      if v.by_ = w.by_ ∧ v.tile = w.tile then (w :: v :: vs) :: rest else [w] :: (v :: vs) :: rest
    | rest => [w] :: rest

/-- One run reaches its scratchpad. -/
def Core.runOver (c : Core) (l : List Shadow) : Core × List Shadow :=
  let tiles := (l.map (fun w => w.pl.addr / 4096)).eraseDups
  let own (t : Nat) : List Shadow := l.filter (fun w => decide (w.pl.addr / 4096 = t))
  match l with
  | [] => (c, [])
  | w :: _ =>
    match w.tile with
    | .plain => c.spadOver l
    | .curd bank dict => tiles.foldl (fun (c, e) t =>
        let (c, e') := c.curdOver t bank dict (own t)
        (c, e ++ e')) (c, [])
    | .stored h => (tiles.foldl (fun c t => c.movedOver t h (own t)) c, [])
    | .view => (c, [])

/-- Published bytes reach one weight-store copy; what they replace is kept for tasks that started before
(R328). -/
def State.wstoreOver (s : State) (d : Nat) (l : List Shadow) : State × List Shadow :=
  let (part, full) := markSplit ((s.wmarks.filter (fun p => decide (p.1 = d))).map Prod.snd) (coverOf l)
  let bad (w : Shadow) : Bool := part.contains (w.pl.addr / 8)
  let go := l.filter (fun w => !bad w)
  let m := s.wstore.getD d []
  ({ s with wstore := s.wstore.setIfInBounds d (overAll m go),
            wlog := s.wlog ++ (go.map (fun w => w.pl.addr)).eraseDups.map (fun a => (d, a, m.get a)),
            wmarks := s.wmarks.filter (fun p => !(decide (p.1 = d) && full.contains p.2)) }, l.filter bad)

/-- Whether writes cover every byte of a unit whole. -/
def wholeUnit (l : List Shadow) (g : BitVec 2) (u : Nat) : Bool :=
  let covers := fullBytes l
  (List.range (granSize g)).all (fun i => covers.contains (u + i))

/-- A key on a lost far die (R429). -/
def State.keyLost (s : State) (k : Nat) : Bool := decide (8 ≤ k / 2 ^ 39) && s.hub.lostFar.getLsbD (k / 2 ^ 39 - 8)

/-- Units that published writes cover in part and that are found uncorrectable (R425). -/
def State.stuckUnits (s : State) (l : List Shadow) : List (BitVec 2 × Nat) :=
  ((l.map (fun w => (w.g, unitAt w.g w.pl.addr))).eraseDups).filter (fun (g, u) =>
    !s.quiet g [u] && !wholeUnit l g u && decide (s.decodes g u = .failed))

/-- Published writes of memory that do not take place. -/
def State.memStuck (s : State) (l : List Shadow) : Shadow → Bool :=
  let failed := s.stuckUnits l
  fun w => s.keyLost w.pl.addr || failed.contains (w.g, unitAt w.g w.pl.addr)

/-- Published bytes reach the memory dies unit by unit (R87, R425): a unit that is found uncorrectable and covered in
part, or that lies on a lost far die (R429), keeps its bytes; the answer holds the writes that did not take place. -/
def State.memOver (s : State) (l : List Shadow) : State × List Shadow :=
  let us := (l.map (fun w => (w.g, unitAt w.g w.pl.addr))).eraseDups
  let covers := fullBytes l
  let whole := wholeUnit l
  let lost := s.keyLost
  let failed := s.stuckUnits l
  let bad := s.memStuck l
  let go := l.filter (fun w => !bad w)
  let ds := us.map (fun (g, u) => (g, if whole g u then [] else s.decodeAll g [u]))
  let s' := us.foldl (fun s (g, u) =>
    if failed.contains (g, u) || lost u then s
    else if s.quiet g [u] then { s with codes := codeUnit g s.codes u }
    else s.recode g [u] (whole g)) s
  let s' := { s' with mem := overAll s'.mem go, poison := clearPoison (fun k => covers.contains k && !lost k) s'.poison }
  let s' := ds.foldl (fun s (g, d) => s.decoded (.core s.cur) g d) s'
  (s'.buffers true (go.map (fun w => w.pl.addr)), l.filter bad)

/-- The published bytes of one space take their places (R329); the answer holds the writes that did not. The
weight-store copy of a die in reset is not written: the die's release copies another (R379). -/
def State.overSpace (s : State) (sp : Space) (l : List Shadow) : State × List Shadow :=
  match sp with
  | .mem => s.memOver l
  | .spad n =>
    let (c, e) := (tileRuns l).foldl (fun (c, e) r =>
      let (c, e') := c.runOver r
      (c, e ++ e')) (s.getCore n, [])
    (s.setCore n c, e)
  | .side n =>
    let (c, e) := (s.getCore n).sideOver l
    (s.setCore n c, e)
  | .wstore d => if s.hub.din.getLsbD d then (s, []) else s.wstoreOver d l
  | .host =>
    if s.host.up then (l.foldl (fun s w => s.hostWrite w.pl.addr [w.over ((s.hostRead w.pl.addr 1).headD 0)]) s, [])
    else (s, l)
  | .remote => (s, [])

/-- Consecutive bytes of one command for another node or for device registers, each with the bits it changes; the element and
the leaf of the first, and the command's core and number. -/
structure Run where
  addr : Nat
  bytes : List (Byte × Byte)
  elem : Nat
  via : Option Via
  by_ : Nat × Nat
  deriving DecidableEq, Repr

/-- The runs of such bytes, in order; a run ends with its 64-byte line, one of a register after 8 bytes. -/
def remoteRuns : List Shadow → List Run
  | [] => []
  | w :: ws =>
    let one : Run := ⟨w.pl.addr, [(w.v, w.m)], w.elem, w.via, w.by_⟩
    match remoteRuns ws with
    | r :: rest =>
      if w.pl.addr + 1 = r.addr ∧ r.by_ = w.by_ ∧ r.addr % (if dieCode (BitVec.ofNat 53 r.addr) = 14 then 8 else 64) ≠ 0 then
        { one with bytes := (w.v, w.m) :: r.bytes } :: rest
      else one :: r :: rest
    | [] => [one]

/-- The published writes of a core's commands to other nodes leave as ordinary remote writes, in the class of the
command (R317, R346, R359). -/
def State.sendShadow (s : State) (dones : List (Nat × Done)) (l : List Shadow) : State :=
  (remoteRuns l).foldl (fun s r =>
    match dones.find? (fun d => decide (d.1 = r.by_.1) && decide (d.2.id = r.by_.2)) with
    | none => s
    | some (_, d) => s.modCore r.by_.1 (fun c =>
      { c with nextAcc := c.nextAcc + 1,
               pend := c.pend ++ [{ id := c.nextAcc, cls := d.cls, slot := .c, tgt := .dpa (BitVec.ofNat 53 r.addr) 0,
                                    op := .published r.bytes d r.elem r.via, kind := .wr, pc := d.info.pc, btag := d.info.btag,
                                    sent := false, born := s.ns, rap := false, task := c.task,
                                    sec := c.sys.sec, po := c.nextAcc }] })) s

/-- The unit code of a space (R406). -/
def spaceUnit : Space → BitVec 16
  | .spad _ => 0
  | .side _ => 1
  | .wstore _ => 3
  | _ => 15

/-- The core-local word that a write which did not take place met: of its own, else of the compressed tile it lies in. -/
def State.sawWrite (s : State) (w : Shadow) : Option Saw :=
  let a := w.pl.addr
  match w.pl.sp with
  | .spad n =>
    let c := s.getCore n
    ((c.spadMark (8 * (a / 8)) 8).or (c.spadMark (4096 * (a / 4096)) 4096)).map (fun m => ⟨some n, m.addr⟩)
  | .side n => some ⟨some n, 8 * (a / 8)⟩
  | .wstore _ => some ⟨none, 8 * (a / 8)⟩
  | _ => none

/-- What a publication could not write: the core and the command, the element, and the fault's code, DETAIL and word. -/
structure Missed where
  core : Nat
  done : Done
  elem : Nat
  code : BitVec 16
  detail : BitVec 16
  saw : Option Saw
  deriving DecidableEq, Repr

/-- The fault of a command whose published write did not take place: HOST_ERROR with the host port down (R447), else
UNCORR. -/
def State.missedBy (s : State) (n : Nat) (d : Done) (w : Shadow) : Missed :=
  match w.pl.sp with
  | .mem => ⟨n, d, w.elem, fcUNCORR, uncorrDetail w.pl.addr, none⟩
  | .host => ⟨n, d, w.elem, fcHOST_ERROR, 0, none⟩
  | sp => ⟨n, d, w.elem, fcUNCORR, spaceUnit sp, s.sawWrite w⟩

/-- Shadow writes of device registers of this node. -/
def State.ofRegister (s : State) (w : Shadow) : Bool :=
  decide (w.pl.sp = .remote) && decide (nodeOf (BitVec.ofNat 53 w.pl.addr) = s.fab.node)

/-- Publication by the tasks of these cores of the shadow writes of the commands that `which` names on each: they
perform at this instant, in the order in which the commands issued and produced them (R328, R329); each host window that
they or the tasks' plain stores have written advances by one (R333). The answer holds the commands with a write that did
not take place. -/
def State.publish (s : State) (cores : List Nat) (which : Nat → Nat → Bool) : State × List Missed :=
  let dones := cores.flatMap (fun n => (s.getCore n).eng.complete.map (fun d => (n, d)))
  let mine := sortShadow (cores.flatMap (fun n => (s.getCore n).eng.shadow.filter (fun w => which n w.cmd)))
  let tasks := cores.map (fun n => (s.getCore n).task)
  let s := cores.foldl (fun s n => s.modCore n (fun c => c.meng (fun e => { e with
    shadow := e.shadow.filter (fun w => !which n w.cmd),
    complete := e.complete.filter (fun d => !which n d.id), waited := e.waited.filter (fun i => !which n i) }))) s
  let mem := mine.filter (fun w => decide (w.pl.sp = .mem))
  let stuck := s.memStuck mem
  let (s, errs) := ((mine.map (fun w => w.pl.sp)).eraseDups).foldl (fun (s, es) sp =>
    let l := mine.filter (fun w => decide (w.pl.sp = sp))
    let (s, e) := s.overSpace sp l
    (s, es ++ e)) (s, [])
  let s := s.sendShadow dones (mine.filter (fun w => decide (w.pl.sp = .remote) && !s.ofRegister w))
  -- host windows: those that the tasks' stores and this publication have written
  let wrote := (mem.filter (fun w => !stuck w)).map (fun w => w.pl.addr)
  let s := s.dropOld wrote
  let stored := (s.host.wrote.filter (fun p => tasks.contains p.1)).map Prod.snd
  let ws := (stored ++ wrote.filterMap s.windowOf).eraseDups
  let s := s.mhost (fun h => { h with
    unpub := tasks.foldl (fun u t => publishKeys t u) h.unpub, wrote := h.wrote.filter (fun p => !tasks.contains p.1) })
  (ws.foldl State.bumpWindow s, dones.filterMap (fun (n, d) =>
    (errs.find? (fun w => decide (w.by_ = (n, d.id)))).map (s.missedBy n d)))

end Sys2Proof.Machine
end

