-- ==== Sys2Proof/Machine/Hub.lean ====
section
/-! DEFINITION. The hub: launches and the check of their trees (R30 to R41, R470), queues (R42 to R44), the
dispatcher and the entry state (R45 to R52), pre-emption (R54 to R57), task ends, region states and their
records (R58, R62, R63). -/

namespace Sys2Proof.Machine

open Sys2Proof

/-! ### Reading an RCB (R34 to R39) -/

/-- A number of n bytes at an offset of the RCB or queue descriptor at p. -/
def State.rcbNat (s : State) (g : BitVec 2) (p off n : Nat) : Nat :=
  s.hubNat g (BitVec.ofNat 53 (p + off)) n

/-- A field of w bits from bit lo of the 8-byte word at an offset. -/
def State.rcbField (s : State) (g : BitVec 2) (p off lo w : Nat) : Nat :=
  s.rcbNat g p off 8 / 2 ^ lo % 2 ^ w

/-- A node of a tree being read. -/
structure RNode where
  id : Nat
  addr : Nat
  parent : Option Nat
  /-- the root of a launch packet, whose OVR bits all count as 1 -/
  top : Bool
  upKind : Nat
  kind : Nat
  cnt : Nat
  base : Nat
  ovr : Nat
  depth : Nat
  stage : Option Nat
  together : Bool
  inq : Nat
  outq : Nat
  killRaw : Nat
  /-- the node's own values and the values in force (R36, R38) -/
  own : Force
  f : Force
  deriving DecidableEq, Repr

/-- Where a node stands in its tree: address, parent, and what it inherits. -/
structure RAt where
  addr : Nat
  parent : Option Nat
  /-- PRIO and SEC of the launch packet, at its root (R32) -/
  top : Option (BitVec 3 × Bool)
  upKind : Nat
  depth : Nat
  stage : Option Nat
  own : Force
  f : Force
  deriving DecidableEq, Repr

/-- Field groups as the node's own RCB holds them, for the groups that `on` selects; others inherited. -/
def State.rcbForce (s : State) (g : BitVec 2) (p id : Nat) (on : Nat → Bool) (up : Force) : Force :=
  let fld := s.rcbField g p
  let pick {α : Type} (i : Nat) (a b : α) : α := if on i then a else b
  { cores := pick 0 (fld 0x18 0 16) up.cores, spadb := pick 0 (fld 0x18 20 22) up.spadb,
    sideb := pick 0 (fld 0x20 18 19) up.sideb, quota := pick 1 (fld 0x28 0 32) up.quota,
    prio := pick 2 (BitVec.ofNat 3 (fld 0x38 0 3)) up.prio,
    dies := pick 3 (BitVec.ofNat 4 (fld 0x38 4 4)) up.dies, kill := pick 3 (decide (fld 0x38 8 1 = 1)) up.kill,
    killNode := pick 3 id up.killNode,
    asid := pick 4 (BitVec.ofNat 13 (fld 0x38 13 13)) up.asid,
    hbase := pick 4 (BitVec.ofNat 64 (fld 0x40 0 64)) up.hbase,
    hlim := pick 4 (BitVec.ofNat 64 (fld 0x48 0 64)) up.hlim,
    hoff := pick 4 (BitVec.ofNat 64 (fld 0x50 0 64)) up.hoff,
    hattr := pick 4 (BitVec.ofNat 64 (fld 0x58 0 64)) up.hattr,
    ptroot := pick 4 (BitVec.ofNat 64 (fld 0x60 0 64)) up.ptroot,
    sec := pick 5 (decide (fld 0x38 3 1 = 1)) up.sec,
    entry := pick 6 (BitVec.ofNat 64 (fld 0x90 0 64)) up.entry,
    ndim := pick 7 (fld 0x70 0 2) up.ndim, ext0 := pick 7 (fld 0x68 16 16) up.ext0,
    ext1 := pick 7 (fld 0x68 32 16) up.ext1, ext2 := pick 7 (fld 0x68 48 16) up.ext2,
    ring := pick 8 (BitVec.ofNat 8 (fld 0x30 1 8)) up.ring,
    taskRec := pick 8 (decide (fld 0x30 9 1 = 1)) up.taskRec,
    stageRec := pick 8 (decide (fld 0x30 10 1 = 1)) up.stageRec,
    minc := pick 9 (fld 0x78 0 16) up.minc, maxc := pick 9 (fld 0x78 16 16) up.maxc,
    gang := pick 9 (fld 0x78 40 8) up.gang, enqn := pick 9 (fld 0x78 48 8) up.enqn }

/-- The budget in force is the field-wise minimum with the parent's, DIES the bitwise AND (R38). -/
def Force.under (own up : Force) : Force :=
  { own with cores := min own.cores up.cores, spadb := min own.spadb up.spadb,
             sideb := min own.sideb up.sideb, dies := own.dies &&& up.dies }

/-- Nothing limits the root of a launch. -/
def Force.top : Force :=
  { cores := 2 ^ 16, spadb := 2 ^ 22, sideb := 2 ^ 19, quota := 0, prio := 0, dies := 15, kill := false,
    killNode := 0, asid := 0, hbase := 0, hlim := 0, hoff := 0, hattr := 0, ptroot := 0, sec := false,
    entry := 0, ndim := 1, ext0 := 1, ext1 := 1, ext2 := 1, ring := 255, taskRec := false,
    stageRec := false, minc := 0, maxc := 512, gang := 0, enqn := 0 }

def State.readNode (s : State) (g : BitVec 2) (t : RAt) (id : Nat) : RNode :=
  let p := t.addr
  let ovr := s.rcbNat g p 4 4
  let own := s.rcbForce g p id (fun i => t.top.isSome || ovr.testBit i) t.own
  let own := match t.top with
    | some (prio, sec) => { own with prio := prio, sec := sec }
    | none => own
  { id := id, addr := p, parent := t.parent, top := t.top.isSome, upKind := t.upKind,
    kind := s.rcbField g p 0 0 4, cnt := s.rcbField g p 0 8 7, base := s.rcbField g p 8 0 53, ovr := ovr,
    depth := t.depth, stage := t.stage, together := decide (s.rcbField g p 0x30 0 1 = 1),
    inq := s.rcbNat g p 0x80 8, outq := s.rcbNat g p 0x88 8, killRaw := s.rcbField g p 0x38 8 2,
    own := own, f := own.under t.f }

/-- The children of a node that has any (R34). -/
def RNode.kids (n : RNode) : List RAt :=
  if (n.kind = 1 ∨ n.kind = 2) ∧ n.cnt ≤ 64 ∧ n.depth < 8 then
    (List.range n.cnt).map (fun i =>
      { addr := n.base + 256 * i, parent := some n.id, top := none, upKind := n.kind, depth := n.depth + 1,
        stage := if n.kind = 1 then some i else none, own := n.own, f := n.f })
  else []

/-- The tree level by level, numbered from id on. -/
def State.readTree (s : State) (g : BitVec 2) : Nat → List RAt → Nat → List RNode
  | 0, _, _ => []
  | n + 1, todo, id =>
    let ns := todo.zipIdx.map (fun (t, i) => s.readNode g t (id + i))
    let next := ns.flatMap RNode.kids
    if next.isEmpty then ns else ns ++ State.readTree s g n next (id + ns.length)

/-! ### The check of a tree (R470) -/

/-- R34: an RCB lies in the heap of its context. -/
def inForceHeap (f : Force) (p : Nat) : Bool :=
  let va := (BitVec.ofNat 64 p - f.hoff).toNat
  decide (f.hbase.toNat ≤ va) && decide (va < f.hbase.toNat + f.hlim.toNat)

/-- A queue descriptor under R41: alignment, LOGCAP and QBASE. -/
def State.queueOk (s : State) (g : BitVec 2) (f : Force) (d : Nat) : Bool :=
  let log := s.rcbField g d 8 0 5
  let qb := s.rcbField g d 0 0 53
  decide (d % 32 = 0) && decide (d < 2 ^ 53) && decide (d / 2 ^ 39 % 16 ≤ 12) && decide (1 ≤ log) &&
    decide (log ≤ 20) && decide (qb % 64 = 0) && inForceHeap f qb &&
    inForceHeap f (qb + 64 * 2 ^ log - 1)

/-- The limits of R470 on one node. -/
def State.nodeOk (s : State) (g : BitVec 2) (all : List RNode) (n : RNode) : Bool :=
  let o := n.own
  let stages := all.filter (fun m => m.stage.isSome)
  let one (p : RNode → Bool) : Bool := match stages.filter p with
    | [m] => decide (m.parent = n.parent)
    | _ => false
  decide (n.addr % 256 = 0) && decide (n.addr / 2 ^ 39 % 16 ≤ 12) && inForceHeap n.f n.addr &&
  (n.top || (!n.ovr.testBit 1 && !n.ovr.testBit 4 && !n.ovr.testBit 5)) &&
  decide (n.kind ≤ 2) && (decide (n.killRaw ≤ 1) || !(n.top || n.ovr.testBit 3)) && decide (n.cnt ≤ 64) &&
  (if n.kind = 0 then decide (n.cnt = 0) else decide (1 ≤ n.cnt) && decide (n.depth < 8)) &&
  decide (n.depth ≤ 8) && (decide (n.upKind ≠ 1) || decide (n.kind = 0)) &&
  (if n.kind ≠ 0 then true
   else
    let ext (e : Nat) : Bool := decide (1 ≤ e) && decide (e ≤ 65535)
    decide (o.entry.toNat % 64 = 0) && decide (1 ≤ o.ndim) && decide (o.ndim ≤ 3) &&
    ext o.ext0 && ext o.ext1 && ext o.ext2 &&
    (decide (3 ≤ o.ndim) || decide (o.ext2 = 1)) && (decide (2 ≤ o.ndim) || decide (o.ext1 = 1)) &&
    decide (o.gang ≤ 64) && decide (1 ≤ o.cores) && decide (o.cores ≤ 512) &&
    decide (o.spadb % 4096 = 0) && decide (o.spadb ≤ 2 ^ 21) && decide (o.sideb % 1024 = 0) &&
    decide (o.sideb ≤ 2 ^ 18) &&
    (match n.stage with
      | none => decide (n.inq = 0) && decide (n.outq = 0)
      | some _ =>
        decide (1 ≤ o.maxc) && decide (o.maxc ≤ 512) && decide (o.minc ≤ 512) && decide (o.minc ≤ o.maxc) &&
        (decide (n.inq = 0) || (s.queueOk g n.f n.inq &&
          one (fun m => decide (m.outq = n.inq)) && one (fun m => decide (m.inq = n.inq)))) &&
        (decide (n.outq = 0) || (s.queueOk g n.f n.outq &&
          one (fun m => decide (m.inq = n.outq)) && one (fun m => decide (m.outq = n.outq))))))

/-- Compute dies 0 to 3 and the cores of a die that remain (R416). -/
def State.domainCores (s : State) (dies : BitVec 4) : Nat :=
  ((List.range 4).map (fun d => if dies.getLsbD d then
    128 - ((s.core :: s.parked.map Prod.snd).zip (s.cur :: s.parked.map Prod.fst)).countP (fun (c, n) =>
      c.retired && decide (dieOf n = d)) else 0)).sum

/-- A leaf that can never be dispatched (R48, R49). -/
def State.coresOk (s : State) (n : RNode) : Bool :=
  if n.kind ≠ 0 then true
  else
    let need := max (if n.together then n.f.ext0 * n.f.ext1 * n.f.ext2 else 1)
      (if 1 < n.f.gang then n.f.gang else 1)
    decide (n.f.dies ≠ 0) && decide (need ≤ n.f.cores) && decide (need ≤ s.domainCores n.f.dies)

/-- The code a tree is refused with, or none (R470, R380, R371, R48, R49). Of several reasons the manual names no first:
the order ASID0, BAD_RCB, WORLD, CORES is a DESIGN CHOICE. -/
def State.launchCheck (s : State) (g : BitVec 2) (aperture : Bool) (ns : List RNode) :
    Option (BitVec 16) :=
  match ns.head? with
  | none => some fcBAD_RCB
  | some r =>
    if aperture ∧ r.f.asid = 0 then some fcASID0
    else if !(ns.all (s.nodeOk g ns) && decide (BitVec.ofNat 2 r.f.hattr.toNat = g)) then some fcBAD_RCB
    else if r.f.sec && (decide (s.hub.seccl = 0) || !s.host.ide) then some fcWORLD
    else if !ns.all s.coresOk then some fcCORES
    else none

/-! ### Accepting a launch (R32, R40, R50, R308) -/

/-- What a launch gives its whole tree. -/
structure LaunchInfo where
  gran : BitVec 2
  effdl : Nat
  cil : Bool
  tag : Word
  /-- the ring of the root's record; none takes the ring in force (R308) -/
  ring : Option Byte
  spawner : Option Nat
  arrival : Nat
  deriving DecidableEq, Repr

def LaunchInfo.region (i : LaunchInfo) (launch : Nat) (n : RNode) : Region :=
  { id := n.id, launch := launch, rcb := n.addr, gran := i.gran, parent := n.parent, kind := n.kind,
    stage := n.stage, depth := n.depth, together := n.together, inq := n.inq, outq := n.outq, f := n.f,
    effdl := i.effdl, cil := i.cil, arrival := i.arrival, tag := i.tag,
    rring := match n.parent, i.ring with
      | none, some r => r
      | _, _ => n.f.ring,
    st := 0, late := false, next := 0, cancelled := none, passed := 0, passedAt := 0, tstart := 0,
    tdone := 0, status := 0, fcount := 0, fcode := 0,
    spawner := if n.parent = none then i.spawner else none, recorded := false }

/-- The queues of a tree's stages, as the hub meets them at launch (R41). -/
def State.newQueues (s : State) (g : BitVec 2) (ns : List RNode) : List Queue :=
  ((ns.map RNode.outq).filter (fun d => decide (d ≠ 0))).map (fun d =>
    { desc := d, logcap := s.rcbField g d 8 0 5, qbase := s.rcbField g d 0 0 53, tail := 0, slots := [] })

/-- The RCBs of a tree and the descriptors of its queues have been read. -/
def State.treeSaw (s : State) (g : BitVec 2) (ns : List RNode) : State :=
  let s := ns.foldl (fun s n => s.hubSaw g (BitVec.ofNat 53 n.addr) 256) s
  (ns.filter (fun n => decide (n.outq ≠ 0))).foldl (fun s n => s.hubSaw g (BitVec.ofNat 53 n.outq) 32) s

/-- Take a tree: refuse it with a record of its root, or bring in its regions (R470, R40, R63). -/
def State.launch (s : State) (i : LaunchInfo) (aperture : Bool) (ns : List RNode) : State :=
  let s := (s.treeSaw i.gran ns).mhub (fun h => { h with launches := h.launches + 1 })
  match s.launchCheck i.gran aperture ns with
  | some code =>
    match ns.head? with
    | none => s
    | some n =>
      let r := i.region s.hub.launches n
      let r := { r with st := 3, status := 0x84, fcode := code, cancelled := some 0x84, recorded := true }
      let s := s.mhub (fun h => { h with regs := h.regs ++ [r] })
      s.putRec ⟨r.rring, complRec 0 0 r.tag.toNat 0 code.toNat 0 0x84 s.ns, false, none, none, [], []⟩
  | none =>
    let rs := ns.map (i.region s.hub.launches)
    let qs := s.newQueues i.gran ns
    let s := s.mhub (fun h => { h with
      regs := h.regs ++ rs,
      queues := h.queues.filter (fun q => !(qs.map Queue.desc).contains q.desc) ++ qs })
    rs.foldl (fun s r =>
      let s := s.rcbWord r.id 0xA0 r.effdl 8
      let s := s.rcbWord r.id 0xA8 0 8
      let s := s.rcbWord r.id 0xB0 0 8
      s.rcbWord r.id 0xB8 0 8) s

/-- The RCBs of a tree that lie in a line which another node owns (R350). -/
def State.treeAway (s : State) (ns : List RNode) : List RNode := ns.filter (fun n => s.lineAway (BitVec.ofNat 53 n.addr) 256)

def State.askTree (s : State) (away : List RNode) : State :=
  away.foldl (fun s n => s.askLines (BitVec.ofNat 53 n.addr) 256) s

/-- A field of a launch packet: w bits from bit lo. -/
def packetFld (w : Line) (lo n : Nat) : Nat := (w.extractLsb' lo n).toNat

def packetGran (w : Line) : BitVec 2 := BitVec.ofNat 2 (packetFld w 152 2)

/-- The tree that a launch packet names, with its PRIO and SEC at the root (R31, R32). -/
def State.packetTree (s : State) (w : Line) : List RNode :=
  let p := (s.onNode (BitVec.ofNat 53 (packetFld w 0 53))).toNat
  s.readTree (packetGran w) 8
    [⟨p, none, some (BitVec.ofNat 3 (packetFld w 128 3), decide (packetFld w 132 1 = 1)), 2, 1, none, Force.top, Force.top⟩]
    s.hub.regs.length

/-- The tree of an accepted packet is read; while it lies in a line that another node owns, the packet waits for it (R350). -/
def State.readPacket (s : State) (w : Line) (aperture : Bool) (arrival : Nat) : State :=
  let ns := s.packetTree w
  let away := s.treeAway ns
  if away.isEmpty then
    s.launch ⟨packetGran w, packetFld w 64 64, decide (packetFld w 131 1 = 1), BitVec.ofNat 64 (packetFld w 160 64),
      some (BitVec.ofNat 8 (packetFld w 144 8)), none, arrival⟩ aperture ns
  else (s.askTree away).mhub (fun h => { h with inbox := h.inbox ++ [(w, aperture, arrival)] })

/-- The next place in the order of arrival (R33). -/
def State.arrive (s : State) : Nat × State := (s.hub.arrivals, s.mhub (fun h => { h with arrivals := h.arrivals + 1 }))

/-- A launch packet (R31, R32); `aperture` tells it from MLAUNCH (R380). Before step 5 packets are dropped
(R377); one that arrives in standby wakes the module (R387). Its acceptance gives it its place in the order of arrival (R33). -/
def State.packet (s : State) (w : Line) (aperture : Bool) : State :=
  if s.hub.stage ≠ 5 ∨ s.hub.fatal then s
  else
    let (n, s) := (if s.hub.pst = 1 ∨ s.hub.pst = 2 then s.mhub (fun h => { h with pst := 3 }) else s).arrive
    s.readPacket w aperture n

/-- The oldest packet that waits can be read. -/
def State.inboxReady (s : State) : Bool :=
  match s.hub.inbox with
  | [] => false
  | (w, _) :: _ => (s.treeAway (s.packetTree w)).isEmpty

/-- The oldest packet that waits is read again. -/
def State.nextPacket (s : State) : State :=
  match s.hub.inbox with
  | [] => s
  | (w, aperture, n) :: rest => (s.mhub (fun h => { h with inbox := rest })).readPacket w aperture n

end Sys2Proof.Machine
end

