-- ==== Sys2Proof/Machine/Schedule.lean ====
section
/-! DEFINITION. The dispatcher (R42 to R53), task starts and ends (R47, R58), region states and completion
(R62, R63), and pre-emption, saving and resumption (R54 to R57). -/

namespace Sys2Proof.Machine

open Sys2Proof

/-! ### The order of work (R50) -/

/-- The topmost region of a tree: its position is shared by all below (R50). -/
def State.rootOf (s : State) (r : Region) : Region :=
  (((s.chain 8 r.id).getLast?).bind s.region?).getD r

/-- What is ordered: a pipeline, or a leaf that is no stage. -/
def Region.isUnit (r : Region) : Bool := decide (r.kind = 1) || (decide (r.kind = 0) && r.stage.isNone)

def State.leavesOf (s : State) (u : Region) : List Region :=
  if u.kind = 0 then [u] else s.hub.regs.filter (fun r => decide (r.parent = some u.id))

/-- Position in the order of R50, as one number: late class, effective deadline, priority, arrival. -/
def State.key (s : State) (u : Region) : Nat :=
  let r := s.rootOf u
  (((if u.late then 1 else 0) * 2 ^ 64 + r.effdl) * 8 + (7 - r.f.prio.toNat)) * 2 ^ 64 + r.arrival

/-- The unit a leaf belongs to. -/
def State.unitFor (s : State) (leaf : Region) : Region :=
  match leaf.stage, leaf.parent with
  | some _, some p => (s.region? p).getD leaf
  | _, _ => leaf

def State.queue? (s : State) (d : Nat) : Option Queue := s.hub.queues.find? (fun q => decide (q.desc = d))

/-- Available entries of a queue, oldest first. -/
def Queue.ready (q : Queue) : List Nat :=
  ((q.slots.filter (fun p => decide (p.2 = .avail))).map Prod.fst).mergeSort (fun a b => decide (a ≤ b))

/-- Entries filled, available or not. -/
def Queue.filled (q : Queue) : List Nat :=
  (q.slots.filter (fun p => match p.2 with
    | .avail | .filled .. => true
    | _ => false)).map Prod.fst

/-- The next n entries of a queue are free (R42). -/
def Queue.room (q : Queue) (n : Nat) : Bool :=
  decide (n ≤ 2 ^ q.logcap) && q.slots.all (fun p => decide (q.tail + n ≤ p.1 + 2 ^ q.logcap))

/-- The producer stage of a stage's input queue has completed, or there is none. -/
def State.producerDone (s : State) (r : Region) : Bool :=
  s.hub.regs.all (fun p => !(decide (p.launch = r.launch) && decide (p.outq = r.inq) && decide (p.outq ≠ 0) &&
    decide (p.parent = r.parent)) || decide (p.st = 3))

/-- Tasks of the next start of a leaf: 0 when it has no input work (R45, R48, R49). -/
def State.leafWork (s : State) (r : Region) : Nat :=
  if r.cancelled.isSome ∨ r.st = 3 then 0
  else if r.inq = 0 then
    let rem := r.total - r.next
    if r.together then rem else if 1 < r.f.gang then min r.f.gang rem else min 1 rem
  else
    match s.queue? r.inq with
    | none => 0
    | some q =>
      let a := q.ready.length
      if 1 < r.f.gang then
        (if r.f.gang ≤ a then r.f.gang
         else if s.producerDone r && decide (q.filled.length = a) then a else 0)
      else min 1 a

/-- Whether a leaf has a task not yet started. -/
def State.unstarted (s : State) (r : Region) : Bool := decide (0 < s.leafWork r)

/-- Units with work to start, in the order of R50. -/
def State.order (s : State) : List Region :=
  let us := s.hub.regs.filter (fun u => u.isUnit && decide (u.st ≠ 3) && (s.leavesOf u).any s.unstarted)
  us.mergeSort (fun a b => decide (s.key a < s.key b) || (decide (s.key a = s.key b) && decide (a.id ≤ b.id)))

/-! ### Cores (R38, R48, R57, R369, R379, R416) -/

/-- A task that holds a core. -/
def Task.holds (t : Task) : Bool :=
  match t.st with
  | .running | .halting | .resuming => true
  | _ => false

/-- Cores that a subtree holds now, spawned regions included (R38). -/
def State.held (s : State) (id : Nat) : Nat :=
  let ids := s.below id true 16
  s.hub.tasks.countP (fun t => t.holds && ids.contains t.region)

/-- k more cores keep every subtree within its CORES in force (R38). -/
def State.roomFor (s : State) (r : Region) (k : Nat) : Bool :=
  (s.chainAll 16 r.id).all (fun id => match s.region? id with
    | some x => decide (s.held id + k ≤ x.f.cores)
    | none => true)

def State.drst (s : State) (d : Nat) : Bool := s.hub.drst.getLsbD d
def State.din (s : State) (d : Nat) : Bool := s.hub.din.getLsbD d

/-- A core with no task that may take one. -/
def State.idle (s : State) (n : Nat) : Bool :=
  let c := s.getCore n
  decide (c.task = none) && decide (c.mode = .free) && !c.retired && !s.din (dieOf n)

/-- The tasks saved on a core. -/
def State.savedOn (s : State) (n : Nat) : List Saved := s.hub.saves.filter (fun v => decide (v.core = n))

/-- The key of a task's unit. -/
def State.taskKey (s : State) (tid : Nat) : Nat :=
  match (s.task? tid).bind s.leafOf with
  | some r => s.key (s.unitFor r)
  | none => 0

/-- A core of a leaf's fault domain and world (R38, R369, R379). -/
def State.inDomain (s : State) (r : Region) (n : Nat) : Bool :=
  r.f.dies.getLsbD (dieOf n) && decide (s.hub.seccl.getLsbD (clusterOf n) = r.f.sec) && !s.drst (dieOf n)

/-- A core that a leaf's start can use now: free, not reserved for earlier work, and with no saved task
that resumes first (R48, R57). -/
def State.usable (s : State) (r : Region) (n : Nat) : Bool :=
  let u := s.unitFor r
  s.inDomain r n && s.idle n &&
    s.hub.reserved.all (fun (cl, x) => decide (cl ≠ clusterOf n) || decide (x = u.id) ||
      (match s.region? x with
        | some o => decide (s.key u < s.key o)
        | none => true)) &&
    (s.savedOn n).all (fun v => decide (s.key u ≤ s.taskKey v.task))

def allCores : List Nat := List.range Config.cores

/-- The clusters from which a unit's start takes its cores: those reserved for it, else any (R13). -/
def State.clustersFor (s : State) (u : Region) : List Nat :=
  let own := (s.hub.reserved.filter (fun p => decide (p.2 = u.id))).map Prod.fst
  if own.isEmpty then List.range 8 else own

/-- The first n groups of g elements of a list. -/
def runsOf (g n : Nat) (l : List Nat) : List (List Nat) := (List.range n).map (fun i => (l.drop (g * i)).take g)

/-- k cores from pools, one pool a cluster, so that every gang of g, and the last smaller one, lies in one pool (R48,
R49). -/
def packGangs (g k : Nat) (pools : List (List Nat)) : Option (List Nat) :=
  let full := ((pools.flatMap (fun p => runsOf g (p.length / g) p)).take (k / g)).flatten
  let last := pools.map (fun p => (p.filter (fun n => !full.contains n)).take (k % g))
  if full.length < k / g * g then none
  else if k % g = 0 then some full
  else (last.find? (fun l => decide (l.length = k % g))).map (full ++ ·)

/-- The cores a start of k tasks takes when core c is given: of the clusters reserved for it, where there are any; those
of a gang in one cluster (R13, R48, R49). -/
def State.coresFor (s : State) (r : Region) (k c : Nat) : Option (List Nat) :=
  let cls := s.clustersFor (s.unitFor r)
  let pool (cl : Nat) : List Nat := ((List.range 64).map (· + 64 * cl)).filter (s.usable r)
  if !s.usable r c then none
  else if k = 1 then some [c]
  else if !cls.contains (clusterOf c) then none
  else if r.together then packGangs (max 1 r.f.gang) k ((clusterOf c :: cls.filter (fun x => decide (x ≠ clusterOf c))).map pool)
  else
    let cs := c :: ((pool (clusterOf c)).filter (fun n => decide (n ≠ c))).take (k - 1)
    if cs.length = k then some cs else none

/-! ### The stage rule (R45) -/

/-- Whether a leaf's next start of k tasks has its output slots, its pipeline's and its own cores. -/
def State.eligible (s : State) (r : Region) : Bool :=
  let k := s.leafWork r
  decide (0 < k) && s.roomFor r k &&
    (decide (r.outq = 0) || (match s.queue? r.outq with
      | some q => q.room (k * r.f.enqn)
      | none => false)) &&
    (r.stage.isNone || decide (s.held r.id < r.f.maxc))

/-- An occupancy ratio as a fraction (R45). -/
def State.ratio (s : State) (r : Region) : Nat × Nat :=
  if r.inq = 0 then (1, 2)
  else match s.queue? r.inq with
    | some q => (q.ready.length, 2 ^ q.logcap)
    | none => (0, 1)

/-- The first element that no other beats. -/
def bestBy {α : Type} (beats : α → α → Bool) : List α → Option α
  | [] => none
  | a :: l => some (l.foldl (fun b x => if beats x b then x else b) a)

/-- The stage chosen among eligible ones, listed by rising index (R45). -/
def State.chooseStage (s : State) (es : List Region) : Option Region :=
  match es.find? (fun r => decide (s.held r.id < r.f.minc)) with
  | some r => some r
  | none =>
    match bestBy (fun a b => decide (a.passedAt < b.passedAt)) (es.filter (fun r => decide (r.passed = 64))) with
    | some r => some r
    | none => bestBy (fun a b =>
        let x := s.ratio a
        let y := s.ratio b
        decide (y.1 * x.2 < x.1 * y.2)) es

def State.eligibles (s : State) (u : Region) (c : Nat) : List Region :=
  (s.leavesOf u).filter (fun r => s.eligible r && s.usable r c)

/-- The leaf of a unit that would start on core c. -/
def State.pickLeaf (s : State) (u : Region) (c : Nat) : Option Region :=
  if u.kind = 1 then s.chooseStage (s.eligibles u c) else (s.eligibles u c).head?

/-- Pass-over counts after a decision among `es` that chose `r`. -/
def State.countPass (s : State) (es : List Region) (r : Region) : State :=
  let n := s.hub.decisions + 1
  let s := s.mhub (fun h => { h with decisions := n })
  es.foldl (fun s e => s.modRegion e.id (fun x =>
    if e.id = r.id then { x with passed := 0 }
    else if x.passed = 64 then x
    else { x with passed := x.passed + 1, passedAt := if x.passed = 63 then n else x.passedAt })) s

/-! ### STATE (R62) -/

/-- A leaf that can start no further task. -/
def State.noMore (s : State) (r : Region) : Bool :=
  if r.inq = 0 then r.cancelled.isSome || decide (r.total ≤ r.next)
  else s.producerDone r && (match s.queue? r.inq with
    | some q => q.filled.isEmpty
    | none => true)

/-- Whether a region completes (R62). -/
def State.canComplete (s : State) (r : Region) : Bool :=
  decide (r.st ≠ 3) &&
  (if r.kind = 0 then
    s.noMore r && s.hub.tasks.all (fun t => decide (t.region ≠ r.id) || !t.st.live) &&
      (r.stage.isNone || r.inq = 0 || s.producerDone r)
  else s.hub.regs.all (fun x => decide (x.parent ≠ some r.id) || decide (x.st = 3))) &&
  s.hub.regs.all (fun x => decide (x.spawner ≠ some r.id) || decide (x.st = 3))

def State.setSt (s : State) (id st : Nat) : State :=
  (s.modRegion id (fun r => { r with st := st })).rcbWord id 0xA8 st 1

/-- STATE of one region after what has happened (R62). -/
def State.settleOne (s : State) (id : Nat) : State :=
  match s.region? id with
  | none => s
  | some r =>
    let kids := s.hub.regs.filter (fun x => decide (x.parent = some id))
    let begun := if r.kind = 0 then decide (0 < r.tstart) else kids.any (fun x => decide (1 ≤ x.st) &&
      decide (0 < x.tstart))
    let s := if r.st = 0 ∧ begun then s.setSt id 1 else s
    let ended := if r.kind = 0 then s.noMore r else kids.all (fun x => decide (2 ≤ x.st))
    match s.region? id with
    | some r => if r.st = 1 ∧ ended ∧ !s.canComplete r then s.setSt id 2 else s
    | none => s

/-- STATE of every region, children before parents. -/
def State.settle (s : State) : State :=
  ((s.hub.regs.filter (fun r => decide (r.st ≠ 3))).map Region.id).reverse.foldl State.settleOne s

/-- A region completes: STATE 3, its record, and its reservations given up (R62, R63, R65). -/
def State.completeRegion (s : State) (id : Nat) : State :=
  match s.region? id with
  | none => s
  | some r =>
    if !s.canComplete r then s
    else
      let s := s.setSt id 3
      let s := s.mhub (fun h => { h with reserved := h.reserved.filter (fun p => decide (p.2 ≠ id)) })
      let s := s.modRegion id (fun r => { r with recorded := true })
      let covered := s.below id true 16
      let ts := (s.hub.tasks.filter (fun t => covered.contains t.region)).map Task.id
      let bytes (kind : Nat) := complRec 0 (r.stage.getD 0) r.tag.toNat r.fcount r.fcode.toNat kind
        r.status.toNat s.ns
      let s := if r.stage.isNone then s.putRec ⟨r.rring, bytes 0, false, none, none, s.below id false 8, ts⟩
        else if r.f.stageRec then s.putRec ⟨r.f.ring, bytes 1, false, none, some id, [], ts⟩
        else s
      s.settle

/-! ### Starting tasks (R42, R47, R48, R58) -/

/-- What a task is started with. -/
structure StartInfo where
  tid : Nat
  ord : Nat
  x : Nat
  y : Nat
  z : Nat
  entryVa : Word
  rank : Nat
  gsize : Nat
  /-- core numbers of the gang by rank -/
  gang : List Nat
  deriving DecidableEq, Repr

/-- The system registers of a task's context (R47, R74, R179). -/
def startSys (r : Region) (i : StartInfo) : SysRegs :=
  { SysRegs.reset with
    asid := r.f.asid, sec := r.f.sec, heapbase := r.f.hbase &&& 0x0000FFFFFFFC0000,
    heaplim := r.f.hlim &&& 0x0000FFFFFFFC0000, heapoff := r.f.hoff &&& 0xFFFFFFFFFFFC0000,
    heapattr := r.f.hattr &&& 0x3F, ptroot := r.f.ptroot &&& 0x001FFFFFFFFFE000,
    tcoord := BitVec.ofNat 64 (recBits [(0, 16, i.x), (16, 16, i.y), (32, 16, i.z)]),
    rcbptr := BitVec.ofNat 64 r.rcb }

/-- The scalars of the entry state. -/
def startRegs (r : Region) (core : Nat) (i : StartInfo) : Regs :=
  let set (g : Regs) (k v : Nat) : Regs := g.setS (BitVec.ofNat 6 k) (BitVec.ofNat 64 v)
  let map := leNat (i.gang.map (fun c => BitVec.ofNat 8 (c % 64)))
  let g := [(1, i.x), (2, i.y), (3, i.z), (4, (BitVec.ofNat 64 r.rcb - r.f.hoff).toNat), (5, i.entryVa.toNat),
    (6, i.rank), (7, i.gsize), (8, core % 64)].foldl (fun g p => set g p.1 p.2) Regs.reset
  (List.range 8).foldl (fun g j => set g (16 + j) (map / 2 ^ (64 * j) % 2 ^ 64)) g

/-- Whether a mark stands in memory that a context change zeroes. -/
def zeroedMark (spadb sideb : Nat) (m : Mark) : Bool :=
  match m with
  | .spad w => decide (8 * w < spadb)
  | .side w => decide (8 * w < sideb)
  | _ => false

/-- A core that receives a task (R47): its memories are zeroed up to the budgets when the previous task ran
in another context. -/
def Core.startTask (c : Core) (r : Region) (core now : Nat) (i : StartInfo) : Core :=
  let same := decide (c.lastAsid = some r.f.asid)
  let mem := c.marks.filter (fun m => match m with
    | .spad _ | .side _ => same || !zeroedMark r.f.spadb r.f.sideb m
    | _ => false)
  let c0 : Core := if same then c
    else { c with spad := c.spad.filter (fun p => decide (r.f.spadb ≤ p.1)),
                  side := c.side.filter (fun p => decide (r.f.sideb ≤ p.1)),
                  curd := { Curd.reset with hdr := Vector.replicate 512 0 } }
  { c0 with
    regs := startRegs r core i, sys := startSys r i, loops := Loops.reset, flight := [], poison := 0,
    ldwReply := none, marks := mem, phase := none, bsps := Vector.replicate 4 0, mode := .running,
    task := some i.tid, preempt := none, yieldF := none, saveOver := false, ibuf := [], csBank := c.csBank != c.csPending,
    csPending := false,
    ctl := { Ctl.reset with pc := r.f.entry, ready := now + 1, turn := c.ctl.turn, pass := c.ctl.pass,
                            busyPort := c.ctl.busyPort, latchEpoch := c.ctl.latchEpoch + 1 },
    eng := { Engines.reset with nextCmd := c.eng.nextCmd } }

/-- Start one task of a leaf, with its output slots reserved and its input entry taken. -/
def State.startOne (s : State) (rid core : Nat) (i : StartInfo) (peers gang : List Nat)
    (entry : Option Nat) : State :=
  match s.region? rid with
  | none => s
  | some r =>
    let s := s.mhub (fun h => { h with queues := h.queues.map (fun q =>
      let q := if entry.isSome ∧ q.desc = r.inq then
          { q with slots := q.slots.map (fun p => if some p.1 = entry then (p.1, .taken i.tid) else p) }
        else q
      if r.outq ≠ 0 ∧ q.desc = r.outq then
        { q with slots := q.slots ++ (List.range r.f.enqn).map (fun j => (q.tail + j, .reserved i.tid)),
                 tail := q.tail + r.f.enqn }
      else q) })
    let s := if entry.isSome then
        let d : Dpa := BitVec.ofNat 53 (r.inq + 24)
        s.hubWrite r.gran d (leBytes 8 (s.hubNat r.gran d 8 + 1))
      else s
    let base := match (s.queue? r.outq) with
      | some q => q.tail - r.f.enqn
      | none => 0
    let t : Task := { id := i.tid, region := rid, ord := i.ord, core := core, st := .running, peers := peers,
                      gang := gang, late := (s.unitFor r).late, status := 0, fcount := 0, fcode := 0,
                      outBase := base, outLeft := if r.outq = 0 then 0 else r.f.enqn, inEntry := entry, wseen := s.wlog.length }
    let s := s.mhub (fun h => { h with tasks := h.tasks ++ [t] })
    let s := s.modRegion rid (fun r => { r with next := r.next + 1 })
    let s := s.modCore core (fun c => c.startTask r core s.pcyc i)
    s.countStart rid

/-- Start k tasks of a leaf on k cores in one step (R46, R48, R49). -/
def State.startTasks (s : State) (r : Region) (cs : List Nat) : State :=
  let k := cs.length
  let id0 := s.hub.tasks.length
  let ids := (List.range k).map (· + id0)
  let entries := if r.inq = 0 then [] else
    match s.queue? r.inq with
    | some q => q.ready.take k
    | none => []
  let g := r.f.gang
  let s := (List.range k).foldl (fun s j =>
    let lo := if 1 < g then j / g * g else 0
    let gang := if 1 < g then (ids.drop lo).take g else []
    let gcores := if 1 < g then (cs.drop lo).take g else []
    let entry := entries[j]?
    let lin := r.next + j
    let (x, y, z) := if r.inq = 0 then
      (lin % r.f.ext0, lin / r.f.ext0 % r.f.ext1, lin / (r.f.ext0 * r.f.ext1)) else (0, 0, 0)
    let va := match entry, s.queue? r.inq with
      | some n, some q => BitVec.ofNat 64 (q.qbase + 64 * (n % 2 ^ q.logcap)) - r.f.hoff
      | _, _ => 0
    s.startOne r.id (cs.getD j 0)
      ⟨id0 + j, entry.getD lin, x, y, z, va, if 1 < g then j - lo else 0, if 1 < g then gang.length else 1,
        gcores⟩
      (if r.together then ids else gang) gang entry) s
  let u := s.unitFor r
  (s.mhub (fun h => { h with reserved := h.reserved.filter (fun p => decide (p.2 ≠ u.id)) })).settle

/-! ### One decision (R45, R48 to R52) -/

/-- DTIME is past the effective deadline (R51). -/
def State.pastDue (s : State) (u : Region) : Bool :=
  decide (u.effdl < s.ns) && decide (u.effdl ≠ 2 ^ 64 - 1)

/-- R51 and R52 on one unit: cancelled with CIL, moved to the late class without. -/
def State.makeLate (s : State) (u : Region) : State :=
  if u.cil then ((s.leavesOf u).foldl (fun s r => s.dropPending r.id 2) s).settle
  else s.modRegion u.id (fun r => { r with late := true })

/-- Whether a unit can use core c, and the leaf and cores of the start. -/
def State.startOf (s : State) (u : Region) (c : Nat) : Option (Region × List Nat) :=
  match s.pickLeaf u c with
  | none => none
  | some r => (s.coresFor r (s.leafWork r) c).map (fun cs => (r, cs))

/-- The unit that is first in the order, and the leaf and task count of its next start, when no core can start it. -/
def State.wanting (s : State) : Option (Region × Region × Nat) :=
  match s.order.head? with
  | none => none
  | some u =>
    let es := (s.leavesOf u).filter s.eligible
    match (if u.kind = 1 then s.chooseStage es else es.head?) with
    | none => none
    | some r =>
      if allCores.any (fun c => (s.startOf u c).isSome) then none else some (u, r, s.leafWork r)

/-- A gang or together leaf that is first in the order and lacks cores reserves the cluster of its fault domain with the
most free cores, or all of them, before any other work takes a core (R48, R49, R70). -/
def State.reserve (s : State) : State :=
  match s.wanting with
  | none => s
  | some (u, r, k) =>
    let of (p : Nat → Bool) (cl : Nat) : Nat := ((List.range 64).filter (fun i => p (64 * cl + i))).length
    let cls := (List.range 8).filter (fun cl => s.inDomain r (64 * cl))
    let fits := cls.filter (fun cl => decide (k ≤ of (fun n => !(s.getCore n).retired) cl))
    let own := (s.hub.reserved.filter (fun p => decide (p.2 = u.id))).map Prod.fst
    if k ≤ 1 ∨ (if r.together then cls.all own.contains else fits.any own.contains) then s
    else
      let pick := if r.together then cls else (bestBy (fun a b => decide (of (s.usable r) b < of (s.usable r) a)) fits).toList
      s.mhub (fun h => { h with reserved := h.reserved.filter (fun p => decide (p.2 ≠ u.id)) ++ pick.map (fun cl => (cl, u.id)) })

/-- Whether the first unit of the order has yet to reserve. -/
def State.reserves (s : State) : Bool := decide (s.reserve.hub.reserved ≠ s.hub.reserved)

/-- A free core receives work: after a reservation that is due, the first unit in the order that can use it starts, after
the test of R52. -/
def State.decide_ (c : Nat) : Nat → State → State
  | 0, s => s
  | n + 1, s =>
    let s := s.reserve
    match s.order.findSome? (fun u => (s.startOf u c).map (fun x => (u, x))) with
    | none => s
    | some (u, r, cs) =>
      if s.pastDue u && !u.late then State.decide_ c n (s.makeLate u)
      else
        let es := s.eligibles u c
        let s := if u.kind = 1 then s.countPass es r else s
        match s.region? r.id with
        | some r => s.startTasks r cs
        | none => s

/-- The hub dispatches. -/
def State.dispatching (s : State) : Bool := decide (s.hub.stage = 5) && decide (s.hub.pst = 0) && !s.hub.fatal

/-- Whether a decision for core c would start something. -/
def State.decides (s : State) (c : Nat) : Bool := s.order.any (fun u => (s.startOf u c).isSome)

/-! ### Task end (R58, R309) -/

/-- A task that has met R309's waits: its unused slots are free, it enters Ended, its core is free. -/
def State.endTaskNow (s : State) (tid : Nat) : State :=
  match s.task? tid with
  | none => s
  | some t =>
    let st : Byte := if t.late then 1 else 0
    let s := if (s.getCore t.core).task = some tid then s.modCore t.core Core.stopTask else s
    let s := s.mhub (fun h => { h with queues := h.queues.map (freeSlots tid) })
    let s := s.modTask tid (fun t => { t with st := .ended, status := st })
    let s := s.addStatus t.region st
    let s := s.countDone t.region
    let s := match s.task? tid, s.leafOf t with
      | some t, some r => s.taskRecord t r
      | _, _ => s
    s.settle

/-! ### Queue entries (R42, R43) -/

/-- A core has performed every access of a task that is numbered below `upto` or made by a command below `cmd`: stores
and loads, commands that still run, and shadow writes, which perform when they are published (R299, R317). -/
def Core.doneBefore (c : Core) (tid upto cmd : Nat) : Bool :=
  !(c.pend.any (fun a => decide (a.task = some tid) && decide (a.id ≤ upto)) ||
    c.port.any (fun a => decide (a.task = some tid) && decide (a.id ≤ upto)) ||
    (decide (c.task = some tid) && (c.eng.cq.any (fun q => decide (q.id < cmd)) ||
      ([c.eng.act, c.eng.pend].filterMap id).any (fun m => decide (m.id < cmd) && (match m.stage with
        | .done _ => false
        | _ => true)) ||
      c.eng.shadow.any (fun w => decide (w.cmd < cmd)))))

/-- An entry of a task whose ENQ has performed with everything before it (R43). -/
def State.entryRipe (s : State) (tid : Nat) (x : QSlot) : Bool :=
  match x with
  | .filled t upto cmd => decide (t = tid) && 
    (s.core :: s.parked.map Prod.snd ++ s.hub.saves.map Saved.image).all (fun c => c.doneBefore tid upto cmd)
  | _ => false

/-- Entries of a task that have become available: FILLED counts them; those of a consumer that starts no more are freed, and
the tasks they would have fed are cancelled or killed like its others (R52, R413). -/
def State.entriesReady (s : State) (tid : Nat) : State :=
  let ripe := s.entryRipe tid
  s.hub.queues.foldl (fun s q =>
    let n := q.slots.countP (fun p => ripe p.2)
    if n = 0 then s
    else
      let gone := (s.hub.regs.find? (fun r => decide (r.inq = q.desc))).bind (fun r => r.cancelled.map (fun st => (r, st)))
      let g := ((s.hub.regs.find? (fun r => decide (r.outq = q.desc))).map Region.gran).getD 0
      let s := s.modQueue q.desc (fun q => { q with slots := (if gone.isSome
        then q.slots.filter (fun p => !ripe p.2)
        else q.slots.map (fun p => if ripe p.2 then (p.1, .avail) else p)) })
      let d : Dpa := BitVec.ofNat 53 (q.desc + 16)
      let s := s.hubWrite g d (leBytes 8 (s.hubNat g d 8 + n))
      match gone with
      | some (r, st) => s.dropTasks r ((q.slots.filter (fun p => ripe p.2)).map Prod.fst) st
      | none => s) s

/-- Whether some entry of a task is ready to become available. -/
def State.entryDue (s : State) (tid : Nat) : Bool :=
  s.hub.queues.any (fun q => q.slots.any (fun p => s.entryRipe tid p.2))

/-! ### Pre-emption (R54 to R57) -/

/-- A core whose task HALT or a break holds is not pre-empted (R316, R381). -/
def Core.stoppedByHand (c : Core) : Bool :=
  match c.ctl.wait with
  | some .halt | some .brk => true
  | _ => false

/-- Tasks that are pre-empted with one task: its whole gang or together region (R49). -/
def State.wholeOf (s : State) (tid : Nat) : List Nat :=
  match s.task? tid with
  | some t => if t.peers.isEmpty then [tid] else t.peers.filter (fun p => match s.task? p with
      | some x => x.st.live
      | none => false)
  | none => [tid]

/-- A task whose core can be asked to halt: it runs it, no request is under way, nothing holds it by hand, and fewer than
four tasks are saved there (R54, R316, R381). -/
def State.haltable (s : State) (tid : Nat) : Bool :=
  match s.task? tid with
  | none => false
  | some t =>
    let c := s.getCore t.core
    decide (t.st = .running) && decide (c.task = some tid) && decide (c.mode = .running) && decide (c.preempt = none) &&
      !c.stoppedByHand && decide ((s.savedOn t.core).length < 4)

/-- A core that a start of a leaf may take, once its task has left it (R48, R49). -/
def State.inReach (s : State) (u r : Region) (k n : Nat) : Bool :=
  s.inDomain r n && (decide (k = 1) || s.hub.reserved.any (fun p => decide (p.2 = u.id) && decide (p.1 = clusterOf n)))

/-- Whether the hub may ask core c to halt: its work is last in the order, later than the requester's, the whole gang or
region can be halted, and the cores free or asked are fewer than the start needs (R49, R54). -/
def State.mayPreempt (s : State) (c : Nat) : Bool :=
  match s.wanting with
  | none => false
  | some (u, r, k) =>
    let cand (n : Nat) : Option Nat := (s.getCore n).task.bind (fun t =>
      if s.inReach u r k n && (s.wholeOf t).all s.haltable then some (s.taskKey t) else none)
    let coming := allCores.countP (fun n => s.inReach u r k n && ((s.getCore n).preempt.isSome || s.usable r n))
    match cand c with
    | none => false
    | some kc => decide (s.key u < kc) && decide (coming < k) &&
        allCores.all (fun n => (cand n).all (fun kn => decide (kn ≤ kc)))

/-- The request goes to the core, and to those of its gang or together region (R49, R58). -/
def State.askPreempt (s : State) (c : Nat) : State :=
  match (s.getCore c).task with
  | none => s
  | some tid => (s.wholeOf tid).foldl (fun s t => match s.task? t with
      | some x => (s.modTask t (fun x => { x with st := .halting })).modCore x.core (fun k => { k with preempt := some s.ns })
      | none => s) s

/-- The lowest free depth of a core's save areas. -/
def State.freeDepth (s : State) (n : Nat) : Nat :=
  ((List.range 4).find? (fun d => (s.savedOn n).all (fun v => decide (v.depth ≠ d)))).getD 4

/-- Bytes that a saved image keeps (R56, R312): below the budgets, and below F after a yield. -/
def Core.trim (c : Core) (spadb sideb : Nat) : Core :=
  let f := match c.yieldF with
    | some f => min f spadb
    | none => spadb
  { c with spad := c.spad.filter (fun p => decide (p.1 < f)), side := c.side.filter (fun p => decide (p.1 < sideb)),
           marks := c.marks.filter (fun m => match m with
             | .spad w => decide (8 * w < f)
             | .side w => decide (8 * w < sideb)
             | _ => true) }

/-- A load that has not returned when the core halts leaves its register poisoned (R55, R267). -/
def poisonOwed (t : Option Track) : Option Track :=
  t.map (fun x => if x.drop || x.reply.isSome then x else { x with late := true })

/-- The core halts at the bundle its PC names (R55, R292). -/
def Core.haltNow (c : Core) : Core :=
  let owed := c.track.toList.filterMap (fun t => t.bind (fun x =>
    if x.drop || x.reply.isSome || decide (x.reg = 0) then none else some x.reg))
  { c with mode := .halted, track := c.track.map poisonOwed,
           poison := owed.foldl (fun p r => p ||| (1#64 <<< r.toNat)) c.poison }

/-- An access that returns a value to the core; an engine's reads are discarded at a stop (R277). -/
def AccOp.isLoad : AccOp → Bool
  | .store _ | .mst .. | .published .. | .engRead .. => false
  | .atomic _ _ _ _ t => t.isSome
  | _ => true

/-- No press drain is in progress (R168). -/
def Core.pressIdle (c : Core) : Bool := c.eng.act.all (fun m => m.reads.isEmpty && m.writes.isEmpty)

/-- A halted core whose results have landed, whose replies have arrived and whose engines stand at a block
boundary can be saved (R55, R168, R267). -/
def Core.saveable (c : Core) : Bool :=
  decide (c.mode = .halted) && c.flight.isEmpty && c.pend.all (fun a => !a.op.isLoad) &&
    c.port.isEmpty && c.pressIdle

/-- A entries on their way through the array: their rows are not yet written. -/
def Engines.inArray (e : Engines) : List ARow :=
  (e.act.toList.flatMap MCmd.inArray).filterMap (fun a => match a with
    | .fifo r => some r
    | .recirc .. => none)

/-- The first element of a command that lies in a FIFO entry to be discarded (R169). -/
def Engines.restream (e : Engines) (q : CopyCmd) : CopyCmd :=
  let ps := ((e.afifo ++ e.inArray).filter (fun r => decide (r.cmd = q.id))).map ARow.pos ++
    (e.bfifo.filter (fun b => decide (b.cmd = some q.id))).map Block.pos
  { q with pos := ps.foldl min q.pos }

/-- ENGINE_STOP: leaves whose rows are not written and a load under way are abandoned, the FIFOs emptied, and
the copies that filled them go back to their first discarded entry (R168, R169). -/
def Engines.stop (e : Engines) : Engines :=
  { e with cq := e.cq.map e.restream, afifo := [], bfifo := [], got := [], loading := none,
           act := e.act.map (fun m => match m.stage with
             | .pass .. => { m with stage := .idle, toEnter := 0, inArray := [] }
             | _ => m) }

/-- The image a halted core is saved as: its stores stay with the core to perform, and no fetched bundle is saved (R56). -/
def Core.image (c : Core) (spadb sideb : Nat) : Core :=
  let c := c.trim spadb sideb
  { c with preempt := none, yieldF := none, saveOver := false, pend := [], port := [], eng := c.eng.stop, ibuf := [],
           loops := { c.loops with buf := [] } }

/-- The save area of core c at a depth (R56): its DPA and size. -/
def State.saveArea (s : State) (c depth : Nat) : Dpa :=
  dpaAdd (s.hub.savebase.extractLsb' 0 53) ((4 * c + depth) * 2621440)

/-- The bytes that the save microcode leaves in a save area, under G1 (R468). The manual says what they hold and not where
each stands: they are free values, and the image itself is kept beside them. -/
def State.writeSave (s : State) (pa : Dpa) : State :=
  let (k, s) := s.draw
  s.hubWrite 1 pa ((List.range 2621440).map (fun i => Config.freeByte (Nat.pair k i)))

/-- STATE_SAVE: the halted core's state goes to its save area, and the core is free (R55, R56, R58). -/
def State.saveCore (s : State) (n : Nat) : State :=
  let c := s.getCore n
  match c.task with
  | none => s
  | some tid =>
    if !c.saveable then s
    else
      let f := ((s.task? tid).bind s.leafOf).map Region.f
      let spadb := (f.map Force.spadb).getD (2 ^ 21)
      let sideb := (f.map Force.sideb).getD (2 ^ 18)
      let d := s.freeDepth n
      let s := s.writeSave (s.saveArea n d)
      let s := s.mhub (fun h => { h with saves := h.saves ++ [⟨n, d, tid, c.image spadb sideb⟩] })
      let s := s.modTask tid (fun t => { t with st := .saved })
      s.modCore n Core.stopTask

/-- Summary bits and headers after a restore: the image's for the regions that SPADB covers, the core's own elsewhere
(R56). -/
def Curd.resume (old img : Curd) (spadb : Nat) : Curd :=
  let kept (region : Nat) : Bool := decide (65536 * region < spadb)
  { img with
    summary := BitVec.ofNat 32 (recBits ((List.range 32).map (fun i =>
      (i, 1, ((if kept i then img else old).summary.getLsbD i).toNat)))),
    hdr := Vector.ofFn (fun t : Fin 512 => if kept (t.val / 16) then img.hdr[t] else old.hdr[t]) }

/-- Merge a saved image into the core on which it resumes: bytes beyond the saved ones, and their marks, stay as they are. -/
def Core.resume (c img : Core) (spadb sideb now : Nat) : Core :=
  { img with
    spad := img.spad ++ c.spad.filter (fun p => decide (spadb ≤ p.1)),
    side := img.side ++ c.side.filter (fun p => decide (sideb ≤ p.1)), curd := c.curd.resume img.curd spadb,
    marks := img.marks ++ c.marks.filter (fun m => match m with
      | .spad w => decide (spadb ≤ 8 * w)
      | .side w => decide (sideb ≤ 8 * w)
      | _ => false),
    port := c.port, pend := c.pend, nextAcc := max c.nextAcc img.nextAcc, mode := .running,
    retired := c.retired, checks := c.checks, csBank := c.csBank, csPending := c.csPending,
    ctl := { img.ctl with ready := now + 1, turn := c.ctl.turn, busyPort := c.ctl.busyPort, pass := c.ctl.pass,
                          busyS := 0, busyV0 := 0, busyV1 := 0, busyX := 0 },
    eng := { img.eng with act := img.eng.act.map (fun m => { m with last := now }), standbyAt := now, blkAt := now } }

/-- The saved tasks that can resume now: every core of the gang or together region is free and not reserved for earlier
work, no start with an earlier key waits for one, and the region keeps within its CORES in force (R38, R57, R70). -/
def State.resumable (s : State) (v : Saved) : Bool :=
  let whole := s.wholeOf v.task
  let key := s.taskKey v.task
  (((s.task? v.task).bind s.leafOf).all (fun r => s.roomFor r whole.length)) &&
  whole.all (fun t => match s.hub.saves.find? (fun x => decide (x.task = t)) with
    | some x => s.idle x.core && (s.savedOn x.core).all (fun y => decide (key ≤ s.taskKey y.task)) &&
        !s.hub.reserved.any (fun p => decide (p.1 = clusterOf x.core) &&
          ((s.region? p.2).any (fun u => decide (s.key u < key)))) &&
        !s.order.any (fun u => decide (s.key u < key) && (s.startOf u x.core).isSome)
    | none => false)

/-- A saved task and its peers begin to resume: Saved to Resuming. -/
def State.resumeTask (s : State) (v : Saved) : State :=
  (s.wholeOf v.task).foldl (fun s t =>
    match s.hub.saves.find? (fun x => decide (x.task = t)) with
    | some x => (s.modTask t (fun k => { k with st := .resuming })).modCore x.core (fun c =>
        { c with mode := .resuming, task := some t })
    | none => s) s

/-- The restore of the task resuming on a core is complete: Resuming to Running. An uncorrectable unit of its save area
is consumed by the save microcode, and the task is killed: its state is lost (R399, R420). -/
def State.restoreTask (s : State) (v : Saved) : State :=
  match s.task? v.task with
  | none => s
  | some t =>
    let pa := s.saveArea v.core v.depth
    let lost := s.farLost pa
    let bad := if lost then some 16 else (s.badIn 1 pa 2621440).map uncorrDetail
    let s := if lost then s else s.hasRead (.core v.core) 1 pa 2621440
    match bad with
    | some detail =>
      (s.faultRecord t.id { s.victimInfo t.id fcUNCORR with slot := 13, detail := detail } 3).killWide t.id
    | none =>
      let f := (s.leafOf t).map Region.f
      let spadb := (f.map Force.spadb).getD (2 ^ 21)
      let sideb := (f.map Force.sideb).getD (2 ^ 18)
      let s := s.mhub (fun h => { h with saves := h.saves.filter (fun y => decide (y.task ≠ t.id)) })
      let s := s.modTask t.id (fun k => { k with st := .running })
      s.modCore v.core (fun c => c.resume v.image spadb sideb s.pcyc)

end Sys2Proof.Machine
end

