-- ==== Sys2Proof/Machine/Migrate.lean ====
section
/-! DEFINITION. Migration engines and frame pools (R88 to R91, R287, R382 to R384, R427, R429, R436, R437),
and the completion of a copy-engine command. -/

namespace Sys2Proof.Machine

open Sys2Proof

/-! ### Completing an engine command (R190, R275) -/

/-- A copy command leaves its core: its token counts one less, and its writes count as complete (R328). -/
def Core.endCopy (c : Core) (q : CopyCmd) : Core :=
  c.meng (fun e => { e with
    cq := e.cq.filter (fun x => decide (x.id ≠ q.id)),
    complete := e.complete ++ [⟨q.id, q.tok, q.cls,
      ⟨0, 0, 10, q.tok.toNat, 0, 0, 0, q.cidx, q.pc, q.btag, false, none⟩, some q, none⟩],
    tokens := e.tokens.set q.tok.toNat (e.tokens[q.tok.toNat]'(q.tok.isLt) - 1) q.tok.isLt })

/-- A core's image by number, whether it runs there or is saved, that holds copy command `cmd`. -/
def State.modCmdCore (s : State) (core cmd : Nat) (f : Core → Core) : State :=
  let has (c : Core) : Bool := c.eng.cq.any (fun q => decide (q.id = cmd))
  if has (s.getCore core) then s.modCore core f
  else s.mhub (fun h => { h with saves := h.saves.map (fun v =>
    if v.core = core ∧ has v.image then Saved.mk v.core v.depth v.task (f v.image) else v) })

/-! ### Frame pools (R382, R383) -/

/-- Near pool (t = 0) or far pool (t = 1) of engine f. -/
def poolAt (f t : Nat) : BitVec 3 := BitVec.ofNat 3 (2 * f + t)

def Hub.pool (h : Hub) (i : BitVec 3) : Pool := h.pools[i.toNat]'(i.isLt)
def Hub.setPool (h : Hub) (i : BitVec 3) (p : Pool) : Hub := { h with pools := h.pools.set i.toNat p i.isLt }

def Pool.count (p : Pool) : Nat := (p.tail - p.head).toNat

/-- Append a frame at TAIL; a full pool discards it. The ring holds 8-byte DPAs under G1 (R468). -/
def State.poolAdd (s : State) (i : BitVec 3) (frame : Dpa) : State :=
  let p := s.hub.pool i
  if 2 ^ p.log.toNat ≤ p.count then s
  else
    let a := dpaAdd p.rbase (8 * (p.tail.toNat % 2 ^ p.log.toNat))
    let s := s.hubWrite 1 a (leBytes 8 frame.toNat)
    s.mhub (fun h => h.setPool i { p with tail := p.tail + 1 })

/-- Take the frame at HEAD. -/
def State.poolTake (s : State) (i : BitVec 3) : Option (Dpa × State) :=
  let p := s.hub.pool i
  if p.count = 0 then none
  else
    let a := dpaAdd p.rbase (8 * (p.head.toNat % 2 ^ p.log.toNat))
    let fr : Dpa := BitVec.ofNat 53 (s.hubNat 1 a 8)
    some (fr, (s.hubSaw 1 a 8).mhub (fun h => h.setPool i { p with head := p.head + 1 }))

/-! ### Requests (R88, R89, R287, R384) -/

/-- The leaf entry a request's walk reaches: its DPA and value. -/
def State.leafAt (s : State) (ptroot : Word) (va : Nat) : Option (Dpa × Word) :=
  if 2 ^ 48 ≤ va then none
  else
    match s.walk va 2 (ptroot.extractLsb' 0 53) with
    | .leaf _ ea e => some (ea, e)
    | .stop _ => none

/-- The frame a leaf names, in this module. -/
def leafFrame (e : Word) : Dpa := e.extractLsb' 18 35 ++ (0 : BitVec 18)

/-- The engine that serves a frame (R88). -/
def engineOf (fr : Dpa) : Nat := if 9 ≤ dieCode fr then dieCode fr - 9 else offOf fr / 2 ^ 18 % 4

/-- Net near frames that a context's CMIG requests have gained. -/
def State.netNear (s : State) (a : BitVec 13) : Int :=
  ((s.hub.quotaUsed.find? (fun p => decide (p.1 = a))).map Prod.snd).getD 0

def State.addNear (s : State) (a : BitVec 13) (d : Int) : State :=
  let n := s.netNear a + d
  s.mhub (fun h => { h with quotaUsed :=
    (if n = 0 then [] else [(a, n)]) ++ h.quotaUsed.filter (fun p => decide (p.1 ≠ a)) })

/-- How many near frames a move of a command gains. -/
def Mig.gain (m : Mig) : Int :=
  match m.who with
  | .host _ => 0
  | .cmd .. => if m.relay then 0 else if 9 ≤ dieCode m.new then -1 else 1

/-- A request completes with a code: the command's 8 bytes and token, or MIGREQ's CODE and BUSY. -/
def State.migDone (s : State) (who : MigWho) (code : Nat) : State :=
  match who with
  | .host i => s.mhub (fun h =>
      let r := h.migregs[i.toNat]'(i.isLt)
      { h with migregs := h.migregs.set i.toNat { r with busy := false, code := BitVec.ofNat 32 code } i.isLt })
  | .cmd core cmd => s.modCmdCore core cmd (fun c =>
      match c.eng.cq.find? (fun q => decide (q.id = cmd)) with
      | none => c
      | some q =>
        let a := match q.op with
          | .cmig _ t _ _ | .crly _ t _ => t.toNat
          | _ => 0
        let w := ((leBytes 8 code).zipIdx).map (fun (b, i) =>
          Shadow.mk cmd 0 ⟨.spad core, a + i⟩ b 0xFF .plain 0 core q.born none)
        (c.meng (fun e => { e with shadow := e.shadow ++ w })).endCopy q)

/-- MIGRATION_REQUEST: the hub routes the oldest request to its engine, which takes the lock or answers
(R88, R89, R287, R384, R462). -/
def State.migTake (s : State) : State :=
  match s.hub.migq with
  | [] => s
  | r :: rest =>
    let s := s.mhub (fun h => { h with migq := rest })
    let leaf := if r.inHeap then none else s.leafAt r.ptroot r.va
    let s := if r.inHeap || decide (2 ^ 48 ≤ r.va) then s else s.sawEntries (s.entries r.va 2 (r.ptroot.extractLsb' 0 53))
    match leaf with
    | none => s.migDone r.who 6
    | some (ea, e) =>
      let fr : Dpa := s.fab.node ++ (leafFrame e).extractLsb' 0 43
      let near := decide (dieCode fr ≤ 8)
      if (e.extractLsb' 1 2).toNat ≠ 1 ∨ (e.extractLsb' 5 2).toNat ≠ 0 ∨ 12 < dieCode fr then s.migDone r.who 6
      else
        let f := engineOf fr
        let toFar := if r.relay then !near else r.far
        let pool := poolAt f (if toFar then 1 else 0)
        let isCmd := match r.who with
          | .cmd .. => true
          | .host _ => false
        if isCmd && !r.relay && !r.far && decide ((r.quota : Int) ≤ s.netNear r.asid) then s.migDone r.who 3
        else if isCmd && !r.relay && !r.far && decide ((s.hub.pool pool).count = 0) then s.migDone r.who 4
        else if s.hub.migs.any (fun m => decide (m.leaf = ea.toNat)) then s.migDone r.who 2
        else if !r.relay && (r.far == !near) then s.migDone r.who 1
        else if s.hub.lostFar.getLsbD f then s.migDone r.who 5
        else
          match s.poolTake pool with
          | none => s.migDone r.who 4
          | some (new, s) =>
            let m : Mig := { engine := f, leaf := ea.toNat, old := fr,
                             new := s.onNode new, gran := r.gran,
                             oldG := e.extractLsb' 3 2, relay := r.relay, who := r.who, asid := r.asid,
                             st := .pending }
            let s := s.addNear r.asid m.gain
            let s := s.hubWrite 1 ea (leBytes 8 (e ||| (1#64 <<< 12)).toNat)
            let s : State := { s with tlb := s.tlb.filter (fun t => decide (t.ea ≠ ea)) }
            s.mhub (fun h => { h with migs := h.migs ++ [m] })

/-! ### Moving a page (R89, R91, R427, R437) -/

/-- The offset of a memory key in a 256 KiB frame seen under a granule. -/
def frameOff (g : BitVec 2) (fr : Dpa) (k : Nat) : Option Nat :=
  let d := k / 2 ^ 39
  let l := k % 2 ^ 39
  let o := offOf fr
  if dieCode fr = 0 then
    let f := o / 2 ^ 18
    if d < 8 ∧ l / 2 ^ 15 = f then
      let sz := granSize g
      let w := l % 2 ^ 15
      some (w / sz * (8 * sz) + d * sz + w % sz)
    else none
  else if d + 1 = dieCode fr ∧ o ≤ l ∧ l < o + 2 ^ 18 then some (l - o) else none

/-- The 4,096 lines of a frame, each by key / 64. -/
def frameLines (fr : Dpa) : List Nat :=
  (List.range 4096).map (fun i =>
    if dieCode fr = 0 then (i / 512 * 2 ^ 39 + offOf fr / 2 ^ 18 * 2 ^ 15) / 64 + i % 512
    else ((dieCode fr - 1) * 2 ^ 39 + offOf fr) / 64 + i)

/-- Every access translated with the old entry has performed, unpublished shadow writes included. -/
def State.frameQuiet (s : State) (g : BitVec 2) (fr : Dpa) : Bool :=
  let inFr (a : Dpa) : Bool := match dpaKey g a with
    | some k => (frameOff g fr k).isSome
    | none => false
  let cores := s.core :: s.parked.map Prod.snd ++ s.hub.saves.map Saved.image
  cores.all (fun c =>
    c.pend.all (fun a => match a.tgt with
      | .dpa pa _ => !(decide (nodeOf pa = s.fab.node) && inFr pa)
      | _ => true) &&
    c.eng.shadow.all (fun w => !(decide (w.pl.sp = .mem) && (frameOff g fr w.pl.addr).isSome))) &&
  s.fab.owned.all (fun o => o.owner.isNone || !inFr (BitVec.ofNat 53 o.dpa))

/-- Copy 256 KiB between frames under their granules: listed bytes move, the rest of the new frame is 0. -/
def copyFrame (m : Memory) (og : BitVec 2) (old : Dpa) (ng : BitVec 2) (new : Dpa) : Memory :=
  let moved := m.filterMap (fun p => (frameOff og old p.1).bind (fun o =>
    (dpaKey ng (dpaAdd new o)).map (fun k => (k, p.2))))
  Memory.setAll (m.filter (fun p => (frameOff ng new p.1).isNone)) moved

/-- Units of a frame, under its granule, that are poisoned, hold an error or carry another granule's code. -/
def State.oddUnits (s : State) (g : BitVec 2) (fr : Dpa) : List Nat :=
  let keys := s.poison.flatMap (fun u => (List.range u.2).map (u.1 + ·)) ++ s.flips.map Prod.fst ++
    (s.codes.filter (fun p => decide (p.2 ≠ codeOf g))).map (fun p => 32 * p.1)
  ((keys.filter (fun k => (frameOff g fr k).isSome)).map (unitAt g)).eraseDups

/-- The units of the new frame that a unit of the old one reaches. -/
def movedUnits (og : BitVec 2) (old : Dpa) (ng : BitVec 2) (new : Dpa) (u : Nat) : List (Nat × Nat) :=
  (((List.range (granSize og)).filterMap (fun i => frameOff og old (u + i))).map
    (fun o => o / granSize ng * granSize ng)).eraseDups.filterMap (fun o =>
      (dpaKey ng (dpaAdd new o)).map (fun k => (k, granSize ng)))

/-- The copy of a frame (R89, R424, R427): what each unit decodes to is written under the new granule; an uncorrectable
unit poisons those it reaches and raises a check of severity 1, a corrected one a check of severity 0. -/
def State.moveFrame (s : State) (og : BitVec 2) (old : Dpa) (ng : BitVec 2) (new : Dpa) : State :=
  let odd : List (Nat × Decoded) := (s.oddUnits og old).map (fun u => (u, s.decodes og u))
  let wrong := odd.filter (fun d => decide (d.2 = Decoded.wrong))
  let src := wrong.foldl (fun m d => (List.range (granSize og)).foldl (fun m i =>
    m.set (d.1 + i) (s.memByte og (d.1 + i))) m) s.mem
  let failed := odd.filter (fun d => decide (d.2 = Decoded.failed))
  let fresh (k : Nat) : Bool := (frameOff ng new k).isNone
  let mem := copyFrame src og old ng new
  let mem := Memory.setAll (s.mem.filter (fun p => fresh p.1)) (mem.filter (fun p => !fresh p.1))
  let t : State := { s with
    mem := mem,
    flips := s.flips.filter (fun e => fresh e.1),
    codes := Memory.setAll (s.codes.filter (fun p => fresh (32 * p.1)))
      ((frameLines new).flatMap (fun l => [(2 * l, codeOf ng), (2 * l + 1, codeOf ng)])),
    poison := s.poison.filter (fun u => fresh u.1) ++
      (failed.flatMap (fun d => movedUnits og old ng new d.1)).eraseDups }
  let t := failed.foldl (fun s d => s.machineCheck 1 (keyUnit d.1) (keyDie d.1) fcUNCORR
    (unitDpa s.fab.node d.1 (granSize og)).toNat none) t
  ((t.decoded .nobody og (odd.filter (fun d => decide (d.2 ≠ Decoded.failed)))).bufferLines false (frameLines old)).bufferLines true
    (frameLines new)

/-- Pending to Copying; lines of the frame that other nodes own are recalled first (R350). -/
def State.migStart (s : State) (n : Nat) : State :=
  match s.hub.migs[n]? with
  | some m =>
    if m.st ≠ .pending then s
    else if s.frameQuiet m.oldG m.old then s.mhub (fun h => { h with migs := h.migs.set n { m with st := .copying } })
    else (s.fab.owned.filter (fun o => (dpaKey m.oldG (BitVec.ofNat 53 o.dpa)).any (fun k =>
      (frameOff m.oldG m.old k).isSome))).foldl (fun s o => s.askLine (BitVec.ofNat 53 o.dpa)) s
  | none => s

/-- Copying to Dwell: the last unit is written, the leaf changes in one write, the old frame returns to the
pool of its tier, and the request completes with DONE. The new frame's counter starts at 0 (R437). -/
def State.migFinish (s : State) (n : Nat) : State :=
  match s.hub.migs[n]? with
  | some m =>
    if m.st ≠ .copying then s
    else
      let s := s.moveFrame m.oldG m.old m.gran m.new
      let ea := BitVec.ofNat 53 m.leaf
      let e := BitVec.ofNat 64 (s.hubNat 1 ea 8)
      let keepMask : Word := ~~~(0x001FFFFFFFFC1018 : Word)
      let e' := (e &&& keepMask) ||| BitVec.ofNat 64 (m.new.toNat / 2 ^ 18 * 2 ^ 18 + m.gran.toNat * 8)
      let s := s.hubWrite 1 ea (leBytes 8 e'.toNat)
      let s := s.poolAdd (poolAt m.engine (if 9 ≤ dieCode m.old then 1 else 0)) m.old
      let key := m.new.toNat / 2 ^ 18
      let s := s.mfab (fun f => { f with counters := f.counters.filter (fun p => decide (p.1 ≠ key)) })
      let s := s.mhub (fun h => { h with migs := h.migs.set n { m with st := .dwell (s.ns + 64000) } })
      s.migDone m.who 0
  | none => s

/-- Dwell to Idle after 64 µs. -/
def State.migIdle (s : State) (n : Nat) : State :=
  match s.hub.migs[n]? with
  | some m => (match m.st with
    | .dwell t => if t ≤ s.ns then s.mhub (fun h => { h with migs := h.migs.eraseIdx n }) else s
    | _ => s)
  | none => s

/-- A far die is lost: its moves fail and their leaves become invalid (R429). -/
def State.migLost (s : State) (f : Nat) : State :=
  let hit := s.hub.migs.filter (fun m => decide (m.engine = f) && (match m.st with
    | .dwell _ => false
    | _ => true))
  hit.foldl (fun s m =>
    let ea := BitVec.ofNat 53 m.leaf
    let e := BitVec.ofNat 64 (s.hubNat 1 ea 8)
    let s := s.hubWrite 1 ea (leBytes 8 (e &&& ~~~(0x1001 : Word)).toNat)
    let s := s.addNear m.asid (-m.gain)
    let s := s.mhub (fun h => { h with migs := h.migs.filter (fun x => decide (x.leaf ≠ m.leaf)) })
    s.migDone m.who 5) s

end Sys2Proof.Machine
end

