-- ==== Sys2Proof/Machine/Registers.lean ====
section
/-! DEFINITION. The hub register block (R66, R69, R336 to R340, R348, R352, R357, R362, R363, R369, R370,
R374, R375, R379 to R389): reads and writes of its registers by every agent (R5 to R7). -/

namespace Sys2Proof.Machine

open Sys2Proof

/-! ### Fields -/

/-- A field of a register word: lowest bit, width and value. -/
def pack (l : List (Nat × Nat × Nat)) : Word := BitVec.ofNat 64 (recBits l)

def bit (b : Bool) : Nat := if b then 1 else 0

/-- Bits lo to lo + w − 1 of a word. -/
def fieldAt (v : Word) (lo w : Nat) : Nat := (v.extractLsb' lo w).toNat

/-- Access to PRW fields (R7, R336). -/
def agentPriv : Agent → Bool
  | .userTask => false
  | _ => true

/-! ### Services (R433, R434) -/

/-- The slot number of a service record that its ring has not yet received. -/
def unwritten : Nat := 2 ^ 40

/-- Where RES of a record at index k of a ring lies. -/
def resAt (r : Ring) (k : Nat) : Dpa := dpaAdd r.cbase (32 * (k % 2 ^ r.clog.toNat) + 61)

/-- RES of a record at index k of a ring, from the memory that holds it. -/
def State.readRes (s : State) (r : Ring) (k : Nat) : Nat :=
  let a := resAt r k
  let b := if dieCode r.cbase = 13 then (s.hostRead (s.fab.hmbase.toNat * 2 ^ 39 + offOf a) 1).headD 0
    else (s.hubRead 1 (s.onNode a) 1).headD 0
  b.toNat / 16

/-- A serviced PROBE repeats and a serviced CPYP runs on (R433). -/
def Core.unhold (c : Core) (cmd : Option Nat) : Core :=
  match cmd with
  | none => c.mctl (fun k => { k with wait := match k.wait with
      | some (.probe va len kind _) => some (.probe va len kind false)
      | w => w })
  | some n => c.meng (fun e => { e with cq := e.cq.map (fun q =>
      if q.id = n then { q with hold := .run } else q) })

/-- CTAIL passes a service record: RES 0 repeats the access, any other value kills the task (R433). -/
def State.serviceDone (s : State) (v : Service) : State :=
  let r := ringOf s.hub v.ring
  let res := s.readRes r v.slot
  let s := if dieCode r.cbase = 13 then s else s.hubSaw 1 (s.onNode (resAt r v.slot)) 1
  let s := s.mhub (fun h => { h with services := h.services.filter (fun x => decide (x ≠ v)) })
  match s.task? v.task with
  | none => s
  | some t =>
    if !t.st.live then s
    else if res = 0 then
      if s.hub.saves.any (fun x => decide (x.task = v.task)) then s.mhub (fun h => { h with saves := h.saves.map (fun x =>
        if x.task = v.task then Saved.mk x.core x.depth x.task (x.image.unhold v.cmd) else x) })
      else s.modCore t.core (fun c => c.unhold v.cmd)
    else
      (s.faultRecord v.task v.info 3).killWide v.task

/-! ### Rings (R66 to R69) -/

/-- CTAIL advances: service records it passes are read, held records may follow (R68, R433). -/
def State.ctail (s : State) (i : Byte) (v : BitVec 32) : State :=
  if i = 255 then s
  else
    let r := ringOf s.hub i
    let s := s.mhub (fun h => setRing h i { r with ctail := v })
    let passed := s.hub.services.filter (fun x => decide (x.ring = i) && decide (x.slot < 2 ^ 32) &&
      decide ((BitVec.ofNat 32 x.slot - r.ctail).toNat + 2 ≤ (v - r.ctail).toNat))
    passed.foldl State.serviceDone s

/-- CEN: clearing it discards held records; a service record so discarded is handled as with RING 255
(R69, R432). -/
def State.ringEnable (s : State) (i : Byte) (en : Bool) : State :=
  if i = 255 then s
  else
    let s := s.mhub (fun h => setRing h i { ringOf h i with cen := en })
    if en then s
    else
      let lost := (s.hub.recs.filter (fun r => decide (r.ring = i))).filterMap Rec.service
      let s := s.dropRing i
      lost.foldl (fun s tid =>
        match s.hub.services.find? (fun v => decide (v.task = tid) && decide (v.ring = i)) with
        | none => s
        | some v =>
          let s := s.mhub (fun h => { h with services := h.services.filter (fun x => decide (x ≠ v)) })
          match s.task? tid with
          | some t =>
            if t.st.live then (s.faultRecord tid v.info 3).killWide tid else s
          | none => s) s

/-- The ring record after a write of word j under a mask; writes of CBASE, CLOG and CDEV are ignored while
CEN = 1, and reserved values leave a field as it is (R6, R66, R69). -/
def Ring.write (r : Ring) (j : Nat) (w : Word) : Ring :=
  match j with
  | 0 =>
    let b : Dpa := w.extractLsb' 0 53
    if r.cen ∨ 14 ≤ dieCode b then r else { r with cbase := b }
  | 1 =>
    let log := fieldAt w 0 5
    let cnt := fieldAt w 8 8
    { r with clog := if r.cen ∨ log < 4 ∨ 16 < log then r.clog else BitVec.ofNat 5 log,
             ccnt := if cnt = 0 then r.ccnt else BitVec.ofNat 8 cnt,
             cvec := BitVec.ofNat 16 (fieldAt w 16 16),
             cdev := if r.cen then r.cdev else w.getLsbD 33 }
  | 2 => { r with ctime := BitVec.ofNat 32 (fieldAt w 0 32) }
  | _ => r

def Ring.word (r : Ring) (j : Nat) : Word :=
  match j with
  | 0 => r.cbase.zeroExtend 64
  | 1 => pack [(0, 5, r.clog.toNat), (8, 8, r.ccnt.toNat), (16, 16, r.cvec.toNat), (32, 1, bit r.cen),
      (33, 1, bit r.cdev)]
  | 2 => pack [(0, 32, r.ctime.toNat), (32, 32, r.cdrop.toNat)]
  | _ => pack [(0, 32, r.chead.toNat), (32, 32, r.ctail.toNat)]

/-! ### Group table (R352, R357, R445) -/

def State.group (s : State) (g : BitVec 12) : Group :=
  ((s.fab.groups.find? (fun p => decide (p.1 = g))).map Prod.snd).getD Group.reset

def State.setGroup (s : State) (g : BitVec 12) (x : Group) : State :=
  s.mfab (fun f =>
    let rest := f.groups.filter (fun p => decide (p.1 ≠ g))
    { f with groups := (rest.filter (fun p => decide (p.1.toNat < g.toNat))) ++
        (if x = Group.reset then [] else [(g, x)]) ++ rest.filter (fun p => decide (g.toNat < p.1.toNat)) })

def Group.word (x : Group) (j : Nat) : Word :=
  match j with
  | 0 => pack [(0, 1, bit x.v), (1, 1, bit x.mem), (2, 2, x.wg.toNat)]
  | 1 => pack [(2, 10, x.mmask.toNat), (12, 10, x.mbase.toNat), (22, 10, x.seqnode.toNat),
      (32, 32, x.nextseq.toNat)]
  | 2 => pack [(0, 32, x.applied.toNat), (32, 32, x.wlen.toNat)]
  | _ => x.wbase.zeroExtend 64

/-- The fields of word j. WBASE with a die code beyond 0xC is reserved and leaves the field as it is. -/
def Group.put (x : Group) (j : Nat) (w : Word) : Group :=
  match j with
  | 0 => { x with v := w.getLsbD 0, mem := w.getLsbD 1, wg := BitVec.ofNat 2 (fieldAt w 2 2) }
  | 1 => { x with mmask := BitVec.ofNat 10 (fieldAt w 2 10), mbase := BitVec.ofNat 10 (fieldAt w 12 10),
                  seqnode := BitVec.ofNat 10 (fieldAt w 22 10), nextseq := BitVec.ofNat 32 (fieldAt w 32 32) }
  | 2 => { x with applied := BitVec.ofNat 32 (fieldAt w 0 32), wlen := BitVec.ofNat 32 (fieldAt w 32 32) }
  | _ => if 12 < dieCode (w.extractLsb' 0 53) then x else { x with wbase := w.extractLsb' 0 53 }

/-- The member meets a gap: it discards what it holds, keeps APPLIED and raises a machine check (R445). -/
def State.enterGap (s : State) (g : BitVec 12) : State :=
  let x := s.group g
  let s := s.setGroup g { x with gap := true, held := [] }
  s.machineCheck 1 17 4 fcMCAST_GAP 0 none

/-- A write of word j of an entry: with V = 1 only a write that clears V counts, and it clears V alone
(R357). Losing V with stores in flight is a gap (R445); setting V up again ends one. -/
def State.groupWrite (s : State) (g : BitVec 12) (j : Nat) (w : Word) : State :=
  let x := s.group g
  if x.v then
    if j = 0 ∧ !w.getLsbD 0 then
      let s := s.setGroup g { x with v := false, lostV := true }
      if x.held.isEmpty then s else s.enterGap g
    else s
  else
    let y := x.put j w
    let y := if y.v then { y with gap := false, lostV := false, held := [], reports := [], lost := [],
                                  sinceReport := 0, since := s.ns, appliedAt := s.ns, waitAt := 0,
                                  start := y.nextseq - 1 } else y
    s.setGroup g y

/-! ### Windows (R363) -/

def Window.word (w : Window) (j : Nat) : Word :=
  match j with
  | 0 => pack [(0, 1, bit w.en), (1, 1, bit w.sec), (2, 2, w.g.toNat), (18, 22, w.hdmoff.toNat),
      (40, 24, w.len.toNat)]
  | 1 => w.dbase.zeroExtend 64
  | 2 => w.vcur
  | _ => w.vaddr

def Window.put (w : Window) (j : Nat) (v : Word) : Window :=
  match j with
  | 0 => { w with en := v.getLsbD 0, sec := v.getLsbD 1, g := BitVec.ofNat 2 (fieldAt v 2 2),
                  hdmoff := BitVec.ofNat 22 (fieldAt v 18 22), len := BitVec.ofNat 24 (fieldAt v 40 24) }
  | 1 => if 8 < dieCode (v.extractLsb' 0 53) then w else { w with dbase := v.extractLsb' 0 53 }
  | 2 => w
  | _ => { w with vaddr := v }

/-! ### Reset, fabric, migration and power registers -/

/-- DRST bits (R379). -/
def State.setDrst (s : State) (v : BitVec 4) : State :=
  s.mhub (fun h => { h with drst := v, failedTest := h.failedTest &&& ~~~v })

/-- PORTMAP field by field: 10 to 14 are reserved and leave a field as it is (R6, R339). -/
def portmapPut (old new : BitVec 48) : BitVec 48 :=
  BitVec.ofNat 48 (recBits ((List.range 12).map (fun p =>
    let n := (new.extractLsb' (4 * p) 4).toNat
    (4 * p, 4, if 10 ≤ n ∧ n ≤ 14 then (old.extractLsb' (4 * p) 4).toNat else n))))

/-- Software relabels the router: ports that failed retrains have brought down may train again (R340, R440). -/
def Fabric.relabelled (f : Fabric) : Fabric := { f with ports := f.ports.map (fun p => { p with down := false }) }

/-- FABCFG: QREQ always; NODE and NDIM only while FQ = 1; clearing QREQ clears FQ (R337, R340). -/
def Fabric.cfg (f : Fabric) (w : Word) : Fabric :=
  let q := w.getLsbD 31
  let nd := fieldAt w 10 4
  let no := fieldAt w 0 10
  let f := if f.fq then
      let f := f.relabelled
      let f := if nd ≤ 10 then { f with ndim := BitVec.ofNat 4 nd } else f
      if no < 2 ^ f.ndim.toNat then { f with node := BitVec.ofNat 10 no } else f
    else f
  { f with qreq := q, fq := f.fq && q }

/-- A migration request register word (R384). -/
def MigReg.word (r : MigReg) (j : Nat) : Word :=
  match j with
  | 0 => pack [(0, 13, r.asid.toNat), (13, 1, bit r.op), (14, 2, r.g.toNat), (16, 1, bit r.tier),
      (18, 30, r.va.toNat)]
  | 1 => pack [(0, 32, r.code.toNat), (32, 1, bit r.busy)]
  | 2 => pack [(13, 40, r.root.toNat)]
  | _ => 0

/-- A write of word j with GO as written: ignored with GO = 1 while BUSY; otherwise GO sends the request. -/
def State.migregWrite (s : State) (i : BitVec 2) (j : Nat) (w : Word) (go : Bool) : State :=
  let r := s.hub.migregs[i.toNat]'(i.isLt)
  let put (r : MigReg) (s : State) : State :=
    s.mhub (fun h => { h with migregs := h.migregs.set i.toNat r i.isLt })
  match j with
  | 0 =>
    if go && r.busy then s
    else
      let r := { r with asid := BitVec.ofNat 13 (fieldAt w 0 13), op := w.getLsbD 13,
                        g := BitVec.ofNat 2 (fieldAt w 14 2), tier := w.getLsbD 16,
                        va := BitVec.ofNat 30 (fieldAt w 18 30) }
      if go then
        let q : MigReq := { who := .host i, ptroot := pack [(13, 40, r.root.toNat)], va := r.va.toNat * 2 ^ 18,
                            far := r.tier, gran := r.g, relay := r.op, asid := r.asid, inHeap := false,
                            quota := 0 }
        (put { r with busy := true } s).mhub (fun h => { h with migq := h.migq ++ [q] })
      else put r s
  | 2 => put { r with root := BitVec.ofNat 40 (fieldAt w 13 40) } s
  | _ => s

/-- Frame-pool words (R382). -/
def Pool.word (p : Pool) (j : Nat) : Word :=
  match j with
  | 0 => p.rbase.zeroExtend 64 ||| p.log.zeroExtend 64
  | 1 => pack [(0, 32, p.head.toNat), (32, 32, p.tail.toNat)]
  | _ => 0

/-- A reserved die code or size leaves its field as it is (R6). -/
def Pool.put (p : Pool) (w : Word) : Pool :=
  let log := fieldAt w 0 5
  let b : Dpa := w.extractLsb' 0 53
  { p with rbase := if dieCode b = 15 then p.rbase else b &&& 0x1FFFFFFFFFF000, log := if 4 ≤ log ∧ log ≤ 16 then BitVec.ofNat 5 log else p.log }

/-- A telemetry register (R389): what the model counts, and the latest reading of a sensor. -/
def State.telemetry (s : State) (o : Nat) : Word :=
  let port (b : Nat) (f : Port → Word) : Word := ((s.fab.ports[(o - b) / 8]?).map f).getD 0
  if 0x4D0 ≤ o ∧ o < 0x4F0 then BitVec.ofNat 64 ((s.hub.stepUs.getD ((o - 0x4D0) / 8) 0) / 189000)
  else if 0x500 ≤ o ∧ o < 0x540 then BitVec.ofNat 64 (s.hub.msbHit.getD ((o - 0x500) / 8) 0)
  else if 0x540 ≤ o ∧ o < 0x580 then BitVec.ofNat 64 (s.hub.msbMiss.getD ((o - 0x540) / 8) 0)
  else if 0x600 ≤ o ∧ o < 0x660 then port 0x600 Port.tx
  else if 0x660 ≤ o ∧ o < 0x6C0 then port 0x660 Port.rxn
  else if o ≤ 0x420 ∨ (0x440 ≤ o ∧ o < 0x4C8) then ((s.hub.sensed.find? (fun p => decide (p.1 = o))).map Prod.snd).getD 0
  else 0

/-! ### Reading and writing 8-byte words of the block -/

/-- Bits 63 to 0 of the word at offset o (a multiple of 8); reserved offsets read 0 (R5, R374). -/
def State.regWord (s : State) (o : Nat) : Word :=
  if o = 0 then BitVec.ofNat 64 (Config.siliconRev.toNat * 2 ^ 16 + Config.part.toNat)
  else if o = 0x08 then s.hub.drst.zeroExtend 64
  else if o = 0x10 then pack [(0, 4, s.hub.stage.toNat), (8, 4, s.hub.din.toNat)]
  else if o = 0x18 then s.hub.savebase
  else if o = 0x20 then pack [(0, 13, s.hub.dbgAsid.toNat), (63, 1, bit s.hub.dbgEn)]
  else if 0x100 ≤ o ∧ o < 0x200 then (s.hub.pool (BitVec.ofNat 3 ((o - 0x100) / 32))).word (o / 8 % 4)
  else if o = 0x200 then pack [(0, 1, bit s.hub.stby), (4, 12, s.hub.plim.toNat)]
  else if o = 0x208 then pack [(0, 1, bit (decide (s.hub.clk ≠ 0))), (4, 2, s.hub.pst.toNat),
    (6, 2, s.hub.clk.toNat)]
  else if 0x300 ≤ o ∧ o < 0x380 then
    ((s.hub.migregs[(o - 0x300) / 32]?).map (fun r => r.word (o / 8 % 4))).getD 0
  else if 0x400 ≤ o ∧ o < 0x6C0 then s.telemetry o
  else if 0x2000 ≤ o ∧ o < 0x2000 + 32 * 255 then (ringOf s.hub (BitVec.ofNat 8 ((o - 0x2000) / 32))).word (o / 8 % 4)
  else if o = 0x4000 then pack [(0, 10, s.fab.node.toNat), (10, 4, s.fab.ndim.toNat), (31, 1, bit s.fab.qreq),
    (32, 1, bit s.fab.fq)]
  else if o = 0x4008 then s.fab.portmap.zeroExtend 64
  else if o = 0x4010 then pack ((List.range 12).map (fun p =>
    (p, 1, bit (((s.fab.ports[p]?).map Port.up).getD false))))
  else if o = 0x4018 then s.fab.cthresh.zeroExtend 64
  else if o = 0x4020 then pack [(39, 25, s.fab.hmbase.toNat)]
  else if o = 0x4028 then s.hub.seccl.zeroExtend 64
  else if 0x4400 ≤ o ∧ o < 0x4800 then s.hub.regions.getD ((o - 0x4400) / 8) 0
  else if 0x5000 ≤ o ∧ o < 0x5800 then
    ((s.host.windows[(o - 0x5000) / 32]?).map (fun w => w.word (o / 8 % 4))).getD 0
  else if 0x10000 ≤ o ∧ o < 0x30000 then (s.group (BitVec.ofNat 12 ((o - 0x10000) / 32))).word (o / 8 % 4)
  else 0

/-- A read of n bytes, 8 or fewer, within the word at a block offset. Before boot step 5 the host reads only DEVID and
BOOTST (R377). -/
def State.regRead (s : State) (a : Agent) (o n : Nat) : Nat :=
  let w := o / 8 * 8
  if a = .host ∧ s.hub.stage ≠ 5 ∧ w ≠ 0 ∧ w ≠ 0x10 then 0
  else (s.regWord w).toNat / 2 ^ (8 * (o % 8)) % 2 ^ (8 * n)

/-- A read of n bytes at a block offset, word by word. -/
def State.regReadBytes (s : State) (a : Agent) (o n : Nat) : List Byte :=
  (List.range n).map (fun i => BitVec.ofNat 8 (s.regRead a (o + i) 1))


/-- PLIM in force, in W: values outside 600–2,400 are taken as 2,400 (R385). -/
def Hub.limit (h : Hub) : Nat := if 600 ≤ h.plim.toNat ∧ h.plim.toNat ≤ 2400 then h.plim.toNat else 2400

/-- Millidegrees of die i, as last read (R389). -/
def Hub.dieTemp (h : Hub) (i : Nat) : Int :=
  toS 64 (((h.sensed.find? (fun p => decide (p.1 = 0x440 + 8 * i))).map Prod.snd).getD 0).toNat

/-- The conditions of R386 are judged anew, by a reading or a new limit: too hot lowers the clock at once, cool for 10 ms
raises it. -/
def State.judge (s : State) : State :=
  let mw := (((s.hub.sensed.find? (fun p => decide (p.1 = 0x400))).map Prod.snd).getD 0).toNat
  let dies := (List.range 17).map s.hub.dieTemp
  let hot := decide (1000 * s.hub.limit < mw) || dies.any (fun t => decide (95000 ≤ t))
  let cool := decide (mw < 1000 * (s.hub.limit - 100)) && dies.all (fun t => decide (t < 90000))
  s.mhub (fun h => { h with hotAt := if hot then h.hotAt.or (some s.ns) else none,
                            coolAt := if cool then h.coolAt.or (some (s.ns + 10000000)) else none })

/-- Every register at its Reset value and all memory zero (R376): the readings of coolant and dies are no reset's to change
(R7, R389), and the clock's conditions are judged by them. Host memory and what has left the module are not the module's; the
agenda, which holds what has yet to arrive, and the model's counter of free values stay. -/
def State.resetAll (s : State) : State :=
  { State.reset with
    agenda := s.agenda, fresh := s.fresh,
    hub := { Hub.reset with sensed := s.hub.sensed.filter (fun p => decide (0x410 ≤ p.1)) },
    host := { HostPort.reset with mem := s.host.mem, written := s.host.written, msix := s.host.msix,
                                  answers := s.host.answers, responses := s.host.responses } }.judge

/-- A write of the word at o: `w` is the whole new word, merged from the bytes written; `m` marks the bits
written. -/
def State.regPut (s : State) (a : Agent) (o : Nat) (w m : Word) : State :=
  let p := agentPriv a
  if o = 0x08 then
    if m.getLsbD 4 && w.getLsbD 4 then s.resetAll
    else if p then s.setDrst (BitVec.ofNat 4 (fieldAt w 0 4)) else s
  else if 0x2000 ≤ o ∧ o < 0x2000 + 32 * 255 then
    let i : Byte := BitVec.ofNat 8 ((o - 0x2000) / 32)
    let j := o / 8 % 4
    let s := s.mhub (fun h => setRing h i ((ringOf h i).write j w))
    if j = 1 ∧ m.getLsbD 32 then (if w.getLsbD 32 ≠ (ringOf s.hub i).cen then s.ringEnable i (w.getLsbD 32) else s)
    else if j = 3 ∧ m.extractLsb' 32 32 ≠ 0 then s.ctail i (BitVec.ofNat 32 (fieldAt w 32 32))
    else s
  else if 0x100 ≤ o ∧ o < 0x200 then
    let i : BitVec 3 := BitVec.ofNat 3 ((o - 0x100) / 32)
    match o / 8 % 4 with
    | 0 => if p then s.mhub (fun h => h.setPool i ((h.pool i).put w)) else s
    | 2 => if m.getLsbD 18 && decide (dieCode (w.extractLsb' 0 53) ≠ 15) then s.poolAdd i ((w.extractLsb' 0 53) &&& 0x1FFFFFFFFC0000) else s
    | _ => s
  else if 0x300 ≤ o ∧ o < 0x380 then
    let j := o / 8 % 4
    let go := decide (j = 0) && m.getLsbD 17 && w.getLsbD 17
    let i : BitVec 2 := BitVec.ofNat 2 ((o - 0x300) / 32)
    let old := (s.hub.migregs[i.toNat]'(i.isLt)).word j
    if p then s.migregWrite i j w go else if go then s.migregWrite i j old go else s
  else if !p then s
  else if o = 0x18 then
    (if dieCode (w.extractLsb' 0 53) = 15 then s else s.mhub (fun h => { h with savebase := w &&& 0x001FFFFFFFFC0000 }))
  else if o = 0x20 then s.mhub (fun h => { h with dbgEn := w.getLsbD 63, dbgAsid := BitVec.ofNat 13 (fieldAt w 0 13) })
  else if o = 0x200 then
    (s.mhub (fun h => { h with plim := BitVec.ofNat 12 (fieldAt w 4 12), stby := w.getLsbD 0 })).judge
  else if o = 0x4000 then s.mfab (fun f => f.cfg w)
  else if o = 0x4008 then
    (if s.fab.fq then s.mfab (fun f => { f.relabelled with portmap := portmapPut f.portmap (w.extractLsb' 0 48) }) else s)
  else if o = 0x4018 then s.mfab (fun f => { f with cthresh := BitVec.ofNat 8 (fieldAt w 0 8) })
  else if o = 0x4020 then s.mfab (fun f => { f with hmbase := BitVec.ofNat 25 (fieldAt w 39 25) })
  else if o = 0x4028 then
    (if a = .bootRoot then s.mhub (fun h => { h with seccl := BitVec.ofNat 8 (fieldAt w 0 8) }) else s)
  else if 0x4400 ≤ o ∧ o < 0x4800 then
    (if a = .bootRoot then s.mhub (fun h => { h with
      regions := h.regions.setIfInBounds ((o - 0x4400) / 8) (w &&& 0x8000000FFFFFFFFF) }) else s)
  else if 0x5000 ≤ o ∧ o < 0x5800 then
    s.mhost (fun h =>
      let i := (o - 0x5000) / 32
      match h.windows[i]? with
      | some x => { h with windows := h.windows.setIfInBounds i (x.put (o / 8 % 4) w) }
      | none => h)
  else if 0x10000 ≤ o ∧ o < 0x30000 then s.groupWrite (BitVec.ofNat 12 ((o - 0x10000) / 32)) (o / 8 % 4) w
  else s

/-- A write of n bytes (1, 2, 4 or 8, within one word) at a block offset. Before boot step 5 the host's
writes are ignored (R377). -/
def State.regWrite (s : State) (a : Agent) (o n : Nat) (v : Word) : State :=
  if a = .host ∧ s.hub.stage ≠ 5 then s
  else
    let w := o / 8 * 8
    let sh := 8 * (o % 8)
    let m : Word := BitVec.ofNat 64 (((2 ^ (8 * n) - 1) <<< sh) % 2 ^ 64)
    let new := (s.regWord w &&& ~~~m) ||| (BitVec.ofNat 64 (v.toNat <<< sh) &&& m)
    s.regPut a w new m

/-- A write of any number of bytes at a block offset, word by word from the lowest. -/
def State.regWriteBytes (s : State) (a : Agent) (o : Nat) (bs : List Byte) : State :=
  let n := 8 - o % 8
  if bs.length ≤ n then s.regWrite a o bs.length (BitVec.ofNat 64 (leNat bs))
  else
    (List.range ((bs.length - n + 7) / 8)).foldl (fun s i =>
      let l := (bs.drop (n + 8 * i)).take 8
      s.regWrite a (o + n + 8 * i) l.length (BitVec.ofNat 64 (leNat l)))
      (s.regWrite a o n (BitVec.ofNat 64 (leNat (bs.take n))))

/-- The agent that a task of the focus core is to the block (R313, R336). -/
def State.taskAgent (s : State) : Agent := if s.core.sys.asid = 0 then .privTask else .userTask

end Sys2Proof.Machine
end

