-- ==== Sys2Proof/Machine/Link.lean ====
section
/-! DEFINITION. Links and the router (R321, R338, R340 to R345, R439, R441): the port that serves a coordinate, flits with
their acknowledgements, credits and replays, and the messages that this module sends. -/

namespace Sys2Proof.Machine

open Sys2Proof

/-! ### Routing (R321, R338, R441) -/

/-- LaneOf (R321). -/
def laneOf (pa : Dpa) : BitVec 4 :=
  (List.range 12).foldl (fun x i => x ^^^ BitVec.ofNat 4 (pa.toNat >>> (4 * i + 6) % 16)) 0

/-- NextPort. -/
def State.nextPort (s : State) (dst : BitVec 10) : Option Nat :=
  let x := dst ^^^ s.fab.node
  match (List.range 10).find? (fun d => x.getLsbD d) with
  | none => none
  | some d => (List.range 12).find? (fun p =>
      decide ((s.fab.portmap.extractLsb' (4 * p) 4).toNat = d) && ((s.fab.ports[p]?).map Port.up).getD false)

/-- The port by which a message for another node leaves: none for a coordinate beyond NDIM, or a dimension that no working
port serves. -/
def State.way (s : State) (dst : BitVec 10) : Option Nat :=
  if 2 ^ s.fab.ndim.toNat ≤ dst.toNat then none else s.nextPort dst

def State.reaches (s : State) (dst : BitVec 10) : Bool := (s.way dst).isSome

/-! ### Flits (R342) -/

/-- Header bits [95:0] of a flit. -/
def Flit.head (f : Flit) : Nat :=
  recBits [(84, 12, f.seq.toNat), (72, 12, f.ack.toNat), (69, 3, f.cvc.toNat), (63, 6, f.cinc.toNat), (60, 3, f.vc.toNat),
    (56, 4, f.lane.toNat), (53, 3, f.kind.toNat), (43, 10, f.src.toNat), (33, 10, f.dst.toNat)]

def crcBits : Nat → Nat → Nat
  | 0, c => c
  | n + 1, c => crcBits n (if c % 2 = 1 then (c / 2) ^^^ 0x82F63B78 else c / 2)

/-- CRC-32C of bytes, least significant bit of each byte first. -/
def crc32c (bs : List Byte) : Nat := (bs.foldl (fun c b => crcBits 8 (c ^^^ b.toNat)) 0xFFFFFFFF) ^^^ 0xFFFFFFFF

def Flit.crcOf (f : Flit) : Nat := crc32c (leBytes 12 (Flit.head f) ++ f.payload)

def Flit.intact (f : Flit) : Bool := decide (f.crc.toNat = Flit.crcOf f)

/-- An idle flit, before the port fills it in. -/
def idleFlit : Flit := ⟨0, 0, 0, 0, 0, 0, 0, 0, 0, 0, List.replicate 112 0⟩

/-! ### The transmitter and receiver of a port (R343, R344, R439) -/

/-- Flits that an acknowledgement covers leave the retry buffer. -/
def Port.acked (p : Port) (ack : BitVec 12) : Port :=
  let rest := p.retry.filter (fun f => decide (2048 ≤ (ack - f.seq).toNat))
  { p with retry := rest, ackSeen := ack, tries := p.tries.filter (fun t => rest.any (fun f => decide (f.seq = t.1))) }

/-- How often a flit has been replayed, and whether one has been replayed 8 times (R440). -/
def Port.triesOf (p : Port) (seq : BitVec 12) : Nat := ((p.tries.find? (fun t => decide (t.1 = seq))).map Prod.snd).getD 0
def Port.worn (p : Port) : Bool := p.tries.any (fun t => decide (8 ≤ t.2))

/-- The channel whose slots go back next: in rotation, among those that owe some. -/
def Port.owing (p : Port) : Option Nat :=
  ((List.range 8).map (fun i => (p.cursor + i) % 8)).find? (fun v => decide (p.owe.getD v 0 ≠ 0))

/-- Send a flit: with the ACK of the other direction, slots of one channel, and its CRC. One that is not idle, or returns
slots, takes the next SEQ and is kept until acknowledged; one that is not idle takes a credit. -/
def Port.send (p : Port) (f : Flit) : Port :=
  let ch := p.owing.getD 0
  let n := min 63 (p.owe.getD ch 0)
  let new := decide (f.kind ≠ 0) || decide (n ≠ 0)
  let seq := if new then p.txSeq + 1 else p.txSeq
  let f := { f with seq := seq, ack := p.rxSeq, cvc := BitVec.ofNat 3 ch, cinc := BitVec.ofNat 6 n }
  let f := { f with crc := BitVec.ofNat 32 (Flit.crcOf f) }
  { p with txSeq := seq, last := some f, retry := if new then p.retry ++ [f] else p.retry,
           cursor := if n = 0 then p.cursor else (ch + 1) % 8, owe := p.owe.setIfInBounds ch (p.owe.getD ch 0 - n),
           credit := if f.kind = 0 then p.credit else p.credit.setIfInBounds f.vc.toNat (p.credit.getD f.vc.toNat 0 - 1),
           tx := p.tx + 1 }

/-- Idle flits return the slots still owed. -/
def Port.returnSlots : Nat → Port → Port
  | 0, p => p
  | n + 1, p => if p.up && p.owing.isSome then Port.returnSlots n (Port.send p idleFlit) else p

/-- The flits of the retry buffer go out again, as they were. -/
def Port.replay (p : Port) : Port :=
  { p with tx := p.tx + BitVec.ofNat 64 p.retry.length, last := p.retry.getLast?.or p.last,
           tries := p.retry.map (fun f => (f.seq, Port.triesOf p f.seq + 1)) }

def Fabric.port (f : Fabric) (p : Nat) : Port := f.ports.getD p Port.reset
def Fabric.setPort (f : Fabric) (p : Nat) (x : Port) : Fabric := { f with ports := f.ports.setIfInBounds p x }

/-! ### Messages of this module (R341, R345) -/

/-- The port of a message: a retry request names it, the others are routed. -/
def State.portOf (s : State) (m : Msg) : Option Nat :=
  match m.body with
  | .retry p _ | .counts p _ => some p
  | _ => s.way m.dst

/-- The port has a credit of the message's channel, and nothing waits there before it (R344). -/
def State.linkFree (s : State) (q : Nat) (vc : BitVec 3) : Bool :=
  decide (0 < (s.fab.port q).credit.getD vc.toNat 0) &&
    s.fab.out.all (fun m => decide (s.portOf m ≠ some q) || decide (m.vc ≠ vc))

/-- What this node begins anew waits from QREQ on; from FQ on everything does (R340). -/
def State.msgHeld (s : State) (m : Msg) : Bool :=
  s.fab.fq || (s.fab.qreq && (match m.body with
    | .access .. | .stamped .. | .report .. | .time _ => true
    | _ => false))

/-- A message leaves by port q as a single flit. Its payload, whose layout no program sees, is free. -/
def State.transmit (s : State) (q : Nat) (m : Msg) : State :=
  let (k, s) := s.draw
  let f : Flit := { idleFlit with vc := m.vc, lane := m.lane, kind := 4, src := s.fab.node, dst := m.dst,
                                  payload := (List.range 112).map (fun i => Config.freeByte (Nat.pair k i)) }
  s.mfab (fun b => { (b.setPort q (Port.send (b.port q) f)) with sent := b.sent ++ [m] })

/-- A message leaves, or waits behind those that wait; one that no port serves is discarded (R441). -/
def State.emit (s : State) (m : Msg) : State :=
  if s.msgHeld m then s.mfab (fun f => { f with out := f.out ++ [m] })
  else match s.portOf m with
    | none => s
    | some q => if s.linkFree q m.vc then s.transmit q m else s.mfab (fun f => { f with out := f.out ++ [m] })

/-- Answer a request of another node, on its lane. -/
def State.answer (s : State) (dst : BitVec 10) (lane : BitVec 4) (code detail : BitVec 16) (v : Nat) : State :=
  s.emit ⟨dst, 4, lane, .reply code detail v⟩

/-- A flit held by receiver p goes on: delivered here, forwarded when its port has a credit. Without a port a request is
answered PATH_LOST, once for the message, and the rest is discarded (R338, R344, R441). -/
def State.routeFlit (p : Nat) (s : State) (f : Flit) : State :=
  let free (s : State) : State := s.mfab (fun b =>
    let x := b.port p
    b.setPort p { x with rx := x.rx.erase f, owe := x.owe.setIfInBounds f.vc.toNat (x.owe.getD f.vc.toNat 0 + 1) })
  if f.dst = s.fab.node then free s
  else
    match s.way f.dst with
    | none =>
      if f.vc.toNat ≤ 1 ∧ (f.kind = 1 ∨ f.kind = 4) then (free s).answer f.src f.lane fcPATH_LOST 0 0 else free s
    | some q =>
      if (s.fab.port q).credit.getD f.vc.toNat 0 = 0 then s
      else free (s.mfab (fun b => b.setPort q (Port.send (b.port q) f)))

/-- What waits for a credit or a port goes on as far as it can: the flits that the receivers hold, the messages of this
module, and the slots that all this has freed. -/
def State.pump (s : State) : State :=
  if s.fab.fq then s
  else
    let s := (List.range 12).foldl (fun s p => (s.fab.port p).rx.foldl (State.routeFlit p) s) s
    let s := s.fab.out.foldl State.emit (s.mfab (fun f => { f with out := [] }))
    s.mfab (fun f => { f with ports := f.ports.map (Port.returnSlots 64) })

/-- A link retry counts in its machine-check entry and raises no record (R439). -/
def State.countRetry (s : State) : State := s.mhub (fun h => h.countMc (mcKey 17 4 0 none))

end Sys2Proof.Machine
end

