-- ==== Sys2Proof/Machine/Tensor.lean ====
section
/-! DEFINITION. Tensors in memory as the engines read and write them (R100 to R108, R276): places of elements,
side records and masks, conversion of a run of elements, and the faults and service records of commands
(R401, R423, R432). -/

namespace Sys2Proof.Machine

open Sys2Proof

/-- The reply for a core-local target of a die in reset or behind a closed rind (R438). -/
def State.dieReply (s : State) (core : Nat) : Option (BitVec 16) :=
  let d := dieOf core
  if s.hub.rind.getLsbD d then some fcDIE_LOST
  else if s.din d then some fcTARGET_RESET
  else none

/-! ### Homes of this module -/

/-- A memory die of this module refuses or cannot serve an access: lost far die, secure region. -/
def State.homeRefuses (s : State) (sec : Bool) (kind : AKind) (g : BitVec 2) (pa : Dpa) (n : Nat) :
    Option (BitVec 16 × BitVec 16) :=
  if s.farLost pa then some (fcUNCORR, 16)
  else if s.secureBad sec g pa n then some (fcPERM, kindNum kind)
  else none

/-! ### Places an engine reaches -/

/-- What an error is of: a unit of a memory die, under its granule, or a core-local word. -/
inductive Culprit where
  | unit (g : BitVec 2) (pa : Dpa)
  | word (w : Saw)
  deriving DecidableEq, Repr

/-- Why an engine cannot reach a place now: it waits (a moving page, a held router, a refresh window), or for a line
that another node owns (R350), or for one of another node or the host (R346); an error, with what it is of and the VA; or an offset beyond its
die's range (R81). -/
inductive Stop where
  | wait
  | away (pa : Dpa)
  /-- a line of another node, or of host memory, has yet to be read -/
  | ask (line : Nat) (host : Bool)
  | fail (code detail : BitVec 16) (of_ : Option Culprit) (va : Nat)
  | hole
  deriving DecidableEq, Repr

/-- The data have yet to arrive. -/
def Stop.waits : Stop → Bool
  | .wait | .away _ | .ask .. => true
  | _ => false

/-- A place, the granule of a byte of memory, whether it lies on an AP = 2 page, and the leaf that maps a place to be
written; and the table entries that its translation has read. -/
structure Reach where
  pl : Place
  g : BitVec 2
  ap2 : Bool
  via : Option Via
  walk : List Dpa
  deriving DecidableEq, Repr

/-- A weight-store bank in its refresh window (R104). -/
def State.refreshing (s : State) (off : Nat) : Bool :=
  let m := s.ns % 16000
  let b := off / 2 ^ 26
  decide (2000 * b ≤ m) && decide (m < 2000 * b + 320)

/-- The memory place of a VA under the registers a command captured. -/
def State.reachVa (s : State) (x : XlatRegs) (kind : AKind) (va : Nat) : Except Stop Reach :=
  let via := if kind = .wr then s.viaOf x va else none
  let walk := s.walkReads x va
  match s.translate x va kind with
  | .noLeaf => .error (.fail fcTRANS (kindNum kind) none va)
  | .perm => .error (.fail fcPERM (kindNum kind) none va)
  | .moving => .error .wait
  | .hole => .error .hole
  | .uncorr ea => .error (.fail fcUNCORR (unitDetail 1 ea) (some (.unit 1 ea)) va)
  | .away ea => .error (.away ea)
  | .ok pa g ap _ =>
    if dieCode pa = 13 then
      if s.host.up || decide (kind = .rd) then .ok ⟨⟨.host, s.hostAddr pa⟩, 0, decide (ap = 2), via, walk⟩
      else .error (.fail fcHOST_ERROR 0 none va)
    else if dieCode pa = 14 then .ok ⟨⟨.remote, pa.toNat⟩, 0, false, via, walk⟩
    else if nodeOf pa ≠ s.fab.node then
      if kind = .rd then .ok ⟨⟨.remote, pa.toNat⟩, 0, false, via, walk⟩
      else if s.fab.qreq then .error .wait
      else if s.reaches (nodeOf pa) then .ok ⟨⟨.remote, pa.toNat⟩, 0, false, via, walk⟩
      else .error (.fail fcPATH_LOST 0 none va)
    else
      match s.homeRefuses x.sec kind g pa 1 with
      | some (c, d) => .error (.fail c d (if c = fcPERM then some (.unit g pa) else none) va)
      | none =>
        if kind = .rd && s.lineAway pa 1 then .error (.away pa)
        else match dpaKey g pa with
          | some k =>
            -- a window has no room for one more unpublished line (R364, R449)
            if kind = .wr && s.windowFull k then .error (.fail fcWINDOW_FULL 0 none va)
            else .ok ⟨⟨.mem, k⟩, g, false, via, walk⟩
          | none => .error .hole

/-- A byte of a space: 0 memory VA, 1 scratchpad of `core`, 2 cluster scratchpad, 3 this die's weight store
(R106). An address outside its space is OPERAND 2. -/
def State.reach (s : State) (x : XlatRegs) (core : Nat) (kind : AKind) (sp : Nat) (a : Int) :
    Except Stop Reach :=
  if a < 0 ∨ (spaceSize sp : Int) ≤ a then .error (.fail fcOPERAND 2 none 0)
  else
    let a := a.toNat
    let at_ (n off : Nat) : Except Stop Reach :=
      match s.dieReply n with
      | some c => .error (.fail c 0 none 0)
      | none => .ok ⟨⟨.spad n, off⟩, 0, false, none, []⟩
    match sp with
    | 0 => s.reachVa x kind a
    | 1 => at_ core a
    | 2 => at_ (64 * clusterOf s.cur + a / 2 ^ 21 % 64) (a % 2 ^ 21)
    | _ =>
      if kind = .rd ∧ s.refreshing a then .error .wait else .ok ⟨⟨.wstore (dieOf s.cur), a⟩, 0, false, none, []⟩

/-- A side-bank byte of a core (R102). -/
def reachSide (core : Nat) (a : Nat) : Except Stop Place :=
  if 2 ^ 18 ≤ a then .error (.fail fcOPERAND 2 none 0) else .ok ⟨.side core, a⟩

/-- The n bytes at o reach the applied counter of a group in the gap state (R445). -/
def State.gapRead (s : State) (o n : Nat) : Bool :=
  (List.range n).any (fun i => let b := o + i
    decide (0x10000 ≤ b) && decide (b < 0x30000) && decide (16 ≤ b % 32) && decide (b % 32 < 20) &&
      (s.group (BitVec.ofNat 12 ((b - 0x10000) / 32))).gap)

/-- What has come in for a command's reads of the line of a place, of another node or of host memory (R346). -/
def State.gotFor (s : State) (cmd : Nat) (p : Place) : Option Got :=
  s.core.eng.got.find? (fun x => decide (x.cmd = cmd) && decide (x.line = p.addr / 64 * 64) && decide (x.host = decide (p.sp = .host)))

/-- A read that must leave this node: it is asked for, or has been answered, perhaps with an error (R346, R423, R441, R447). -/
def State.outsideStop (s : State) (cmd : Nat) (p : Place) : Option Stop :=
  match s.gotFor cmd p with
  | none => some (.ask (p.addr / 64 * 64) (decide (p.sp = .host)))
  | some x => if x.code = 0 then none else some (.fail x.code x.detail none 0)

/-- An error met by a command's reading of a place: an uncorrectable one, of memory under granule g (R399, R425); the gap of a
group (R445); another node's or the host's; or a line that has yet to come. -/
def State.readStop (s : State) (cmd : Nat) (g : BitVec 2) (p : Place) : Option Stop :=
  let bad (core : Option Nat) (m : Mark) : Stop := .fail fcUNCORR (BitVec.ofNat 16 m.place.1) (some (.word ⟨core, m.addr⟩)) 0
  match p.sp with
  | .mem =>
    let u := unitAt g p.addr
    if !s.quiet g [u] && decide (s.decodes g u = .failed) then
      some (.fail fcUNCORR (uncorrDetail p.addr) (some (.unit g (unitDpa s.fab.node u (granSize g)))) 0)
    else none
  | .spad n => ((s.getCore n).spadMark p.addr 1).map (bad (some n))
  | .side n => ((s.getCore n).sideMark p.addr 1).map (bad (some n))
  | .wstore d =>
    if s.wmarks.contains (d, p.addr / 8) then some (.fail fcUNCORR 3 (some (.word ⟨none, p.addr / 8 * 8⟩)) 0) else none
  | .remote =>
    let pa := BitVec.ofNat 53 p.addr
    if nodeOf pa = s.fab.node then
      if s.gapRead (offOf pa) 1 then some (.fail fcMCAST_GAP 0 none 0) else none
    else s.outsideStop cmd p
  | .host => s.outsideStop cmd p

/-- The weight-store byte as the running task sees it (R328). -/
def State.wstoreByte (s : State) (d a : Nat) : Byte :=
  let seen := (s.curTask.map Task.wseen).getD s.wlog.length
  match (s.wlog.drop seen).find? (fun e => decide (e.1 = d) && decide (e.2.1 = a)) with
  | some e => e.2.2
  | none => (s.wstore.getD d []).get a

/-- A byte of a line that has come in for a command; of one it has not read, as published. -/
def State.gotByte (s : State) (cmd : Nat) (g : BitVec 2) (p : Place) : Byte :=
  match s.gotFor cmd p with
  | some x => x.bytes.getD (p.addr % 64) 0
  | none => s.placeByte g p

/-- The byte at a place as a command reads it, before the task's own shadow writes; of memory, as granule g reads it. -/
def State.rawByte (s : State) (cmd : Nat) (g : BitVec 2) (p : Place) : Byte :=
  match p.sp with
  | .wstore d => s.wstoreByte d p.addr
  | .remote =>
    let pa := BitVec.ofNat 53 p.addr
    if nodeOf pa = s.fab.node ∧ dieCode pa = 14 then
      let o := offOf pa
      if 0x40000 ≤ o then 0 else BitVec.ofNat 8 (s.regRead s.taskAgent o 1)
    else s.gotByte cmd g p
  | .host => s.gotByte cmd g p
  | _ => s.placeByte g p

/-- A byte as the task's engines read it: under its own shadow writes (R328). With `port`, a write port's view
of its own shadow: every write in it, in order. -/
def State.seeByte (s : State) (cmd : Nat) (port : Bool) (g : BitVec 2) (p : Place) : Byte :=
  let b := s.rawByte cmd g p
  match p.sp with
  | .wstore _ => b
  | _ =>
    if port then s.core.eng.shadow.foldl (fun b w => if w.shows p then w.over b else b) b
    else overlay s.core.eng.shadow s.core.eng.waited s.fresh p b

/-- Read bytes of a space for a command, and where they lie. -/
def State.fetch (s : State) (cmd : Nat) (x : XlatRegs) (core : Nat) (port : Bool) (kind : AKind) (sp : Nat) :
    List Int → Except Stop (List Byte × List Reach)
  | [] => .ok ([], [])
  | a :: as =>
    match s.reach x core kind sp a with
    | .error e => .error e
    | .ok r =>
      match s.readStop cmd r.g r.pl with
      | some e => .error e
      | none =>
        match s.fetch cmd x core port kind sp as with
        | .error e => .error e
        | .ok (bs, rs) => .ok (s.seeByte cmd port r.g r.pl :: bs, r :: rs)

/-- The effects of an engine's reads on the memory dies (R424, R425, R16). -/
def State.engineRead (s : State) (rs : List Reach) : State :=
  let mem := rs.filter (fun r => decide (r.pl.sp = .mem))
  let us := (mem.map (fun r => (r.g, unitAt r.g r.pl.addr))).eraseDups
  ((us.foldl (fun s (g, u) => s.decoded (.core s.cur) g (s.decodeAll g [u])) s).buffers false (mem.map (fun r => r.pl.addr))).sawEntries
    (rs.flatMap Reach.walk).eraseDups

/-- Places to be written. -/
def State.targets (s : State) (x : XlatRegs) (core sp : Nat) : List Int → Except Stop (List Reach)
  | [] => .ok []
  | a :: as =>
    match s.reach x core .wr sp a with
    | .error e => .error e
    | .ok r =>
      match s.targets x core sp as with
      | .error e => .error e
      | .ok rs => .ok (r :: rs)

/-! ### Elements (R101, R103, R107) -/

/-- A tensor element's coordinates. -/
abbrev Coord := Nat × Nat × Nat × Nat

def hplane (h : Handle) : Bool := decide (hget h .lay = 1)

/-- Width of a handle's elements. -/
def hwidth (h : Handle) : Nat :=
  match hfmt h with
  | some f => fmtBits f
  | none => 8

def hscaled (h : Handle) : Bool :=
  match hfmt h with
  | some f => fmtMx f || fmtPx f
  | none => false

def hpx (h : Handle) : Bool :=
  match hfmt h with
  | some f => fmtPx f
  | none => false

/-- The bytes that hold an element: one per plane, or a run. -/
def elemAddrs (h : Handle) (c : Coord) : List Int :=
  let (i0, i1, i2, i3) := c
  let w := hwidth h
  if hplane h then
    (List.range w).map (fun j =>
      let (a, i) := planePlace h j i0 i1 i2 i3
      a + (i / 8 : Nat))
  else
    let (a, b) := elemPlace h i0 i1 i2 i3
    (List.range ((b + w + 7) / 8)).map (fun j => a + (j : Nat))

/-- An element's code from its bytes. -/
def elemCode (h : Handle) (i0 : Nat) (bs : List Byte) : Nat :=
  let w := hwidth h
  let i := hget h .off + i0
  if hplane h then bs.foldl (fun c b => 2 * c + b.toNat / 2 ^ (7 - i % 8) % 2) 0
  else (leNat bs >>> (i * w % 8)) % 2 ^ w

/-- The bytes of an element that holds a code, each with the bits it changes. -/
def elemBytes (h : Handle) (i0 c : Nat) : List (Byte × Byte) :=
  let w := hwidth h
  let i := hget h .off + i0
  if hplane h then
    (List.range w).map (fun j =>
      let m := 2 ^ (7 - i % 8)
      (BitVec.ofNat 8 (if (c >>> (w - 1 - j)) % 2 = 1 then m else 0), BitVec.ofNat 8 m))
  else
    let b := i * w % 8
    let n := (b + w + 7) / 8
    (leBytes n ((c % 2 ^ w) <<< b)).zip (leBytes n ((2 ^ w - 1) <<< b))

/-- Side-bank addresses of an element's scale, or E and μ byte; none without scales (R102, R163). -/
def scaleAddrs (h : Handle) (c : Coord) : List Nat :=
  let (i0, i1, i2, i3) := c
  let r := sideRecord h i1 i2 i3
  let i := hget h .off + i0
  if !hscaled h then []
  else if hpx h then [r + 2 * (i / 16), r + 2 * (i / 16) + 1]
  else [r + i / hgroup h]

/-- An element as stored: code, scale or E, and μ bit. -/
structure Elem where
  code : Nat
  sc : Nat
  mu : Nat
  deriving DecidableEq, Repr

def Elem.val (f : Fmt) (e : Elem) : Val := decodeScaled f e.code e.sc e.mu

/-- Read side-bank bytes. -/
def State.fetchSide (s : State) (core : Nat) (port : Bool) : List Nat → Except Stop (List Byte)
  | [] => .ok []
  | a :: as =>
    match reachSide core a with
    | .error e => .error e
    | .ok p =>
      match s.readStop 0 0 p with
      | some e => .error e
      | none =>
        match s.fetchSide core port as with
        | .error e => .error e
        | .ok bs => .ok (s.seeByte 0 port 0 p :: bs)

/-- Read an element for a command, with its scale unless `bare`, and where its bytes lie. -/
def State.readElem (s : State) (cmd : Nat) (x : XlatRegs) (core : Nat) (port bare : Bool) (h : Handle) (c : Coord) :
    Except Stop (Elem × List Reach) :=
  match s.fetch cmd x core port .rd (hget h .space) (elemAddrs h c) with
  | .error e => .error e
  | .ok (bs, rs) =>
    match s.fetchSide core port (if bare then [] else scaleAddrs h c) with
    | .error e => .error e
    | .ok sd =>
      .ok (⟨elemCode h c.1 bs, (sd.headD 0).toNat,
        (sd.getD 1 0).toNat / 2 ^ ((hget h .off + c.1) % 16 / 2) % 2⟩, rs)

/-! ### Conversion of a run (R129, R276) -/

/-- Convert a run that starts a group of the destination; `stored` copies an MX or PX run as it is. -/
def convRun (sf df : Fmt) (g : Nat) (stored : Bool) (rm : RMode) (sat : Bool) (es : List Elem) :
    Elems × BitVec 5 :=
  let n := groupLen df g
  if stored then
    (⟨df, g, es.map Elem.code,
      ((List.range es.length).filter (fun i => decide (i % n = 0))).map (fun i => (es.getD i ⟨0, 0, 0⟩).sc),
      ((List.range es.length).filter (fun i => decide (i % 2 = 0))).map (fun i => (es.getD i ⟨0, 0, 0⟩).mu)⟩, 0)
  else if sf = df ∧ ¬ (fmtMx df ∨ fmtPx df) then (⟨df, g, es.map Elem.code, [], []⟩, 0)
  else
    -- MX and PX to a floating format round by RoundRne whatever the command's mode (R129)
    let rm := if (fmtMx sf || fmtPx sf) && (fmtInt df).isNone then .rne else rm
    encodeElems df g (fmtInt sf).isSome rm sat (es.map (Elem.val sf))

/-- Whole groups of the source reach whole groups of the destination, one for one (R129). -/
def storedPath (src dst : Handle) : Bool :=
  decide (hfmt src = hfmt dst) && hscaled dst && decide (hget src .gs = hget dst .gs) &&
    decide (hget src .off % hgroup src = 0) && decide (hget src .ex0 % hgroup src = 0)

/-! ### Writing a run -/

/-- One byte of a shadow write; `State.addShadow` sets whose it is. -/
def shadowOf (cmd elem : Nat) (pl : Place) (v m : Byte) (tile : TileWrite) (g : BitVec 2) : Shadow :=
  ⟨cmd, elem, pl, v, m, tile, g, 0, 0, none⟩

/-- A whole byte of a side bank or scratchpad. -/
def byteShadow (cmd elem : Nat) (pl : Place) (v : Byte) : Shadow := shadowOf cmd elem pl v 0xFF .plain 0

def TileWrite.isCurd : TileWrite → Bool
  | .curd .. => true
  | _ => false

/-- The bank and content under which a command's curd write of a place is compressed: on its own core those it captured; on
another core what is active there when the tile is begun (R99). -/
def State.curdFor (s : State) (cmd : Nat) (bank : Bool) (p : Place) : TileWrite :=
  match p.sp with
  | .spad n =>
    if n = s.cur then .curd bank (s.core.curd.bankOf bank)
    else
      let k := (s.getCore n).curd
      ((s.core.eng.shadow.find? (fun w => decide (w.cmd = cmd) && decide (w.pl.sp = p.sp) &&
        decide (w.pl.addr / 4096 = p.addr / 4096) && w.tile.isCurd)).map Shadow.tile).getD (.curd k.bank (k.bankOf k.bank))
  | _ => .plain

/-- How a handle's write reaches a place: compressed with CURD (R97). -/
def State.tileOf (s : State) (cmd : Nat) (h : Handle) (bank : Bool) (p : Place) : TileWrite :=
  if hget h .curd = 1 then s.curdFor cmd bank p else .plain

/-- The shadow bytes of one element's code. -/
def elemShadow (cmd elem : Nat) (tile : Place → TileWrite) (h : Handle) (i0 c : Nat) (rs : List Reach) : List Shadow :=
  (rs.zip (elemBytes h i0 c)).map (fun (r, b) => { shadowOf cmd elem r.pl b.1 b.2 (tile r.pl) r.g with via := r.via })

/-- The shadow bytes of the side record for one element that begins a scale group or block: MX scale, or PX E
and μ byte; for element-major MX, bytes 64 to 127 zero (R102, R163). -/
def scaleShadow (cmd elem core : Nat) (h : Handle) (c : Coord) (sc : Nat) (mus : List Nat) : List Shadow :=
  let put (a : Nat) (b : Byte) : Shadow := byteShadow cmd elem ⟨.side core, a⟩ b
  let bs := [BitVec.ofNat 8 sc, BitVec.ofNat 8 (packList 1 mus)]
  let body := ((scaleAddrs h c).zip bs).map (fun (a, b) => put a b)
  let (_, i1, i2, i3) := c
  body ++ (if hplane h then [] else
    (List.range 64).map (fun i => put (sideRecord h i1 i2 i3 + 64 + i) 0))

/-- The bytes of a line-row's side record that hold no scale, E or μ byte and no mask are zero (R102): those after the
scales of an MX tensor, and all of bytes 0 to 63 without scales. -/
def spareBytes (h : Handle) : List Nat :=
  let used := if hpx h then 64 else if hscaled h then 512 / hgroup h else 0
  (List.range (64 - used)).map (· + used)

/-- The masks of a line-row, from the whole content of its lines, and the bytes written zero (R102). -/
def State.maskShadow (s : State) (cmd elem core : Nat) (x : XlatRegs) (h : Handle) (i1 i2 i3 : Nat) :
    List Shadow :=
  let w := hwidth h
  let line (j : Nat) : List Byte :=
    let (a, _) := planePlace h j 0 i1 i2 i3
    (List.range 64).map (fun b => match s.reach x core .wr (hget h .space) (a + (b : Nat)) with
      | .ok r => s.seeByte cmd true r.g r.pl
      | .error _ => 0)
  let lines := (List.range w).map line
  let mask (k : Nat) : Nat := packList 1 (lines.map (fun l =>
    if ((l.drop (4 * k)).take 4).all (fun b => decide (b = 0)) then 0 else 1))
  let r := sideRecord h i1 i2 i3
  let bs := ((List.range 16).flatMap (fun k => leBytes 2 (mask k))) ++ List.replicate 32 0
  bs.zipIdx.map (fun (b, i) => byteShadow cmd elem ⟨.side core, r + 64 + i⟩ b) ++
    (spareBytes h).map (fun i => byteShadow cmd elem ⟨.side core, r + i⟩ 0)

/-- PCYC of the issue of a command of this core. -/
def Core.cmdBorn (c : Core) (cmd : Nat) : Nat :=
  match c.eng.cq.find? (fun q => decide (q.id = cmd)) with
  | some q => q.born
  | none => (c.eng.act.map MCmd.born).getD 0

/-- Shadow writes of the focus core's commands (R328). -/
def State.addShadow (s : State) (l : List Shadow) : State :=
  s.mc (fun c => c.meng (fun e => { e with
    shadow := e.shadow ++ l.map (fun w => { w with core := s.cur, born := c.cmdBorn w.cmd }) }))

/-- Write a run of one destination row from element `q` on, whose byte places are `rs`: codes, then scales,
then masks (R97, R102, R163). CWLD writes no side record. -/
def State.writeRun (s : State) (cmd : Nat) (x : XlatRegs) (core : Nat) (bank side : Bool) (h : Handle) (q : Nat)
    (e : Elems) (rs : List (List Reach)) : State :=
  let codes := (e.codes.zip rs).zipIdx.flatMap (fun ((c, r), i) =>
    elemShadow cmd (q + i) (s.tileOf cmd h bank) h (hcoord h (q + i)).1 c r)
  let s := (s.addShadow codes).sawEntries (rs.flatMap (fun r => r.flatMap Reach.walk)).eraseDups
  if !side then s
  else
    let n := groupLen e.fmt e.g
    let s := if !hscaled h then s else s.addShadow (e.scales.zipIdx.flatMap (fun (sc, i) =>
      scaleShadow cmd (q + n * i) core h (hcoord h (q + n * i)) sc ((e.mus.drop (8 * i)).take 8)))
    if hplane h then
      let (_, i1, i2, i3) := hcoord h q
      s.addShadow (s.maskShadow cmd q core x h i1 i2 i3)
    else s

/-! ### Copy commands in progress (R276, R277) -/

/-- Iterations of levels 4 and 5. -/
def CopyCmd.n4 (q : CopyCmd) : Nat := max 1 q.oc4
def CopyCmd.n5 (q : CopyCmd) : Nat := max 1 q.oc5

/-- The handle whose extents a command runs over: the source, or the only handle of a fill. -/
def CopyCmd.shape (q : CopyCmd) : Handle :=
  match q.op with
  | .cfil _ => q.hd
  | _ => q.hs

/-- Elements of a command; bytes for CMCS. -/
def CopyCmd.total (q : CopyCmd) : Nat :=
  match q.op with
  | .cmcs _ => (hcount q.hs * hwidth q.hs + 7) / 8
  | .cmig .. | .crly .. => 1
  | _ => q.n4 * q.n5 * hcount q.shape

/-- BASE moved by an outer level's displacement. -/
def rebase (h : Handle) (d : Word) : Handle := hput h 0 56 (hbits h 0 56 + d.toNat)

/-- Source, destination and element index of position `pos`, with the outer coordinates. -/
structure CopyAt where
  hs : Handle
  hd : Handle
  q : Nat
  x4 : Nat
  x5 : Nat
  deriving DecidableEq, Repr

def CopyCmd.at (q : CopyCmd) (pos : Nat) : CopyAt :=
  let n := hcount q.shape
  let it := pos / n
  let x4 := it % q.n4
  let x5 := it / q.n4
  let d (a b : Word) : Word := BitVec.ofNat 64 x4 * a + BitVec.ofNat 64 x5 * b
  ⟨rebase q.hs (d q.ds4 q.ds5), rebase q.hd (d q.dd4 q.dd5), pos % n, x4, x5⟩

/-- The element position that a command reports: CMCS counts bytes. -/
def CopyCmd.elem (q : CopyCmd) : Nat :=
  match q.op with
  | .cmcs _ => 8 * q.pos / max 1 (hwidth q.hs)
  | _ => q.pos

/-- COORD0 and COORD1 of the first element not yet written (R277). -/
def CopyCmd.coord (q : CopyCmd) : Nat × Nat :=
  match q.op with
  | .cmig .. | .crly .. => (0, 0)
  | _ =>
    let a := q.at q.elem
    let (i0, i1, i2, i3) := hcoord q.shape a.q
    (i0 + 2 ^ 16 * i1 + 2 ^ 32 * i2 + 2 ^ 48 * i3, a.x4 + 2 ^ 16 * a.x5)

/-- Elements not yet written. -/
def CopyCmd.rem (q : CopyCmd) : Nat :=
  match q.op with
  | .cmcs _ => hcount q.hs - q.elem
  | _ => q.total - q.pos

/-- The fault record fields of a copy command (R401, R423). -/
def CopyCmd.info (q : CopyCmd) (code detail : BitVec 16) : FaultInfo :=
  ⟨code, detail, 10, q.tok.toNat, q.coord.1, q.coord.2, q.rem, q.cidx, q.pc, q.btag, false, none⟩

/-! ### Service records (R432) -/

/-- A probe fault of the running task: its service record goes to the leaf's ring and is outstanding until
CTAIL passes it, with `rem` elements or bytes left; with RING 255, or once its ring has discarded it, the fault is raised (R69, R432). -/
def State.raiseService (s : State) (cmd : Option Nat) (f : FaultInfo) (va rem : Nat) : State :=
  match s.curTask with
  | none => s
  | some t =>
    match s.leafOf t with
    | none => s
    | some r =>
      if r.f.ring = 255 then s.takeFaults cmd [f]
      else if !(ringOf s.hub r.f.ring).cen then
        (s.putRec ⟨r.f.ring, [], true, none, none, [], []⟩).takeFaults cmd [f]
      else
        let v := recBits [(496, 16, f.detail.toNat), (488, 4, f.tok), (480, 8, r.stage.getD 0), (432, 48, t.ord),
          (416, 16, f.cidx.toNat), (384, 32, min rem (2 ^ 32 - 1)), (320, 64, f.coord1), (256, 64, f.coord0),
          (192, 64, f.pc.toNat), (128, 48, va / 2 ^ 18 * 2 ^ 18), (112, 13, s.core.sys.asid.toNat),
          (104, 8, f.btag.toNat), (96, 4, f.slot), (80, 8, 6), (64, 16, f.code.toNat), (0, 64, s.ns)]
        let s := s.mhub (fun h => { h with services := h.services ++
          [⟨r.f.ring, unwritten, t.id, cmd, f⟩] })
        s.putRec ⟨r.f.ring, leBytes 64 v, true, some t.id, some r.id, [], []⟩

end Sys2Proof.Machine
end

