-- ==== Sys2Proof/Machine/Access.lean ====
section
/-! DEFINITION. How accesses of the L and W slots perform: through the local port beat by beat (R264), and at
their homes (R317 to R334); replies and their consumption (R265, R421 to R423); atomics (R273). -/

namespace Sys2Proof.Machine

open Sys2Proof

/-! ### Atomic operations (R273) -/

/-- FADD: the exact sum rounded to FP32 under RNE. -/
def faddBits (f : FloatFmt) (a b : Nat) : Nat := (f.round .rne (addVal .rne (f.decode a) (f.decode b)).1).1

/-- The new value of a location of w bits. -/
def atomNew (op : AtomOp) (w old v c : Nat) : Nat :=
  match op with
  | .add => (old + v) % 2 ^ w
  | .swap => v
  | .cas => if old = c then v else old
  | .and => old &&& v
  | .or => old ||| v
  | .xor => old ^^^ v
  | .smin => if toS w v < toS w old then v else old
  | .smax => if toS w old < toS w v then v else old
  | .umin => min old v
  | .umax => max old v
  | .fadd => faddBits fp32F old v
  | .bfadd2 => faddBits bf16F (old % 2 ^ 16) (v % 2 ^ 16) + 2 ^ 16 * faddBits bf16F (old / 2 ^ 16) (v / 2 ^ 16)

/-! ### Core in focus -/

/-- Do something with another core in focus. -/
def State.onCore (s : State) (n : Nat) (f : State → State) : State :=
  let cur := s.cur
  (f (s.focus n)).focus cur

/-! ### Consuming an error (R398, R421 to R423) -/

/-- An error reply to an access of the focus core is consumed: the fault of the task that issued it. -/
def State.consume (s : State) (task : Option Nat) (code detail : BitVec 16) (slot : Nat) (pc : Word)
    (btag : Byte) (saw : Option Saw) : State :=
  s.faultOf task none (fun cidx => [⟨code, detail, slot, 0, 0, 0, 0, cidx, pc, btag, decide (code = fcATOMIC_APPLIED), saw⟩])

/-- Zero- or sign-extension of n loaded bytes (R268). -/
def extBytes (n : Nat) (sx : Bool) (v : Nat) : Word :=
  if sx then BitVec.ofInt 64 (toS (8 * n) (v % 2 ^ (8 * n))) else BitVec.ofNat 64 (v % 2 ^ (8 * n))

/-- A tracker entry takes its reply: a dropped entry frees; an entry for s0 whose cycle has passed frees, its
error consumed on arrival; the others hold it (R265, R422). An error's value tells the core-local word met (`sawKey`). -/
def State.trackReply (s : State) (t : BitVec 4) (code detail : BitVec 16) (v : Word) : State :=
  match s.core.track[t.toNat]'(t.isLt) with
  | none => s
  | some x =>
    let put (o : Option Track) (s : State) : State :=
      s.mc (fun c => { c with track := c.track.set t.toNat o t.isLt })
    if x.drop then
      let s := put none s
      if x.cons && code ≠ 0 then s.consume s.core.task code detail 12 x.pc x.btag (sawOf v.toNat) else s
    else if x.reg = 0 ∧ (code ≠ 0 ∨ x.late) then
      let s := put none s
      if code ≠ 0 then s.consume s.core.task code detail 12 x.pc x.btag (sawOf v.toNat) else s
    else put (some { x with reply := some (code, v), detail := detail }) s

/-- The fault of a complete command at an element whose write did not take place (R423). -/
def Done.faultAt (d : Done) (elem : Nat) (code detail : BitVec 16) : FaultInfo :=
  match d.copy with
  | some q => { q with pos := elem }.info code detail
  | none =>
    match d.press with
    | some (w, n) => { d.info with
        code := code, detail := detail, coord1 := d.info.coord1 % 2 ^ 40 + 2 ^ 40 * (elem / w), rem := w * n - elem }
    | none => { d.info with code := code, detail := detail }

/-- The reply of an access of the focus core: code 0 brings the value, an error the core-local word met (`sawKey`). -/
def State.reply (s : State) (a : Access) (code detail : BitVec 16) (v : Nat) : State :=
  let s := s.mc (fun c => { c with pend := c.pend.filter (fun x => decide (x.id ≠ a.id)) })
  match a.op with
  | .ldTrack t n sx => s.trackReply t code detail (if code = 0 then extBytes n sx v else BitVec.ofNat 64 v)
  | .ldWait d n sx =>
    if code = 0 then
      (if d = 0 then s else s.land 1 .l (.s d (extBytes n sx v)) 0).mc (fun c =>
        { c with ldwReply := some (code, detail, extBytes n sx v) })
    else (s.mc (fun c => { c with ldwReply := some (code, detail, 0) })).consume a.task code detail 5 a.pc a.btag (sawOf v)
  | .ldHandle h =>
    if code = 0 then
      (s.land 1 .l (.h h (BitVec.ofNat 256 v) (BitVec.allOnes 256)) 0).mc (fun c =>
        { c with ldwReply := some (0, 0, 0) })
    else (s.mc (fun c => { c with ldwReply := some (code, detail, 0) })).consume a.task code detail 5 a.pc a.btag (sawOf v)
  | .ldPcw i =>
    if code = 0 then
      (s.land 1 .l (.pcw i (BitVec.ofNat 64 v)) 0).mc (fun c => { c with ldwReply := some (0, 0, 0) })
    else (s.mc (fun c => { c with ldwReply := some (code, detail, 0) })).consume a.task code detail 5 a.pc a.btag (sawOf v)
  | .store _ => if code = 0 then s else s.consume a.task code detail (if a.slot = .y then 8 else 6) a.pc a.btag (sawOf v)
  | .published _ d e _ => if code = 0 then s else s.faultOf a.task (some d.id) (fun _ => [d.faultAt e code detail])
  | .engRead cmd line host => s.mc (fun c => c.meng (fun e => { e with
      got := e.got ++ [⟨cmd, line, host, code, detail, if code = 0 then leBytes 64 v else []⟩] }))
  | .mst _ off _ =>
    if code = 0 then s
    else
      let held := (s.hub.saves.find? (fun v => decide (a.task = some v.task))).map Saved.image
      match (if a.slot = .c then (held.getD s.core).eng.cq.find? (fun q => decide (q.acc = a.po)) else none) with
      | some q =>
        let at_ := match q.op with
          | .cmcs w => (off - w.extractLsb' 0 32).toNat
          | _ => q.pos
        s.faultOf a.task (some q.id) (fun _ => [{ q with pos := at_ }.info code detail])
      | none => s.consume a.task code detail 6 a.pc a.btag none
  | .atomic _ eight _ _ (some t) => s.trackReply t code detail
      (if code = 0 then extBytes (if eight then 8 else 4) false v else BitVec.ofNat 64 v)
  | .atomic _ _ _ _ none => if code = 0 then s else s.consume a.task code detail 6 a.pc a.btag (sawOf v)

/-! ### Order (R325, R327, R274, R264) -/

/-- Host memory is reached on this node whatever the node field says (R77). -/
def State.isRemote (s : State) (pa : Dpa) : Bool := decide (nodeOf pa ≠ s.fab.node) && decide (dieCode pa ≠ 13)

/-- Node and lane of a target on another node; none for a target on this node. -/
def State.farTarget (s : State) (t : Target) : Option (BitVec 10 × BitVec 4) :=
  match t with
  | .dpa pa _ => if s.isRemote pa then some (nodeOf pa, laneOf pa) else none
  | _ => none

def Target.isMcast : Target → Bool
  | .mcast _ => true
  | _ => false

/-- The line of this address that this node owns (R350). -/
def State.ownedHere (s : State) (pa : Dpa) : Option Owned :=
  s.fab.owned.find? (fun o => o.owner.isNone && decide (o.dpa = pa.toNat / 64 * 64))

/-- An atomic executes at this node when its line is owned here (R350). -/
def State.ownedFor (s : State) (a : Access) : Option Owned :=
  match a.op, a.tgt with
  | .atomic .., .dpa pa _ => if a.rap then s.ownedHere pa else none
  | _, _ => none

/-- Node and lane of the node where an access performs; none for this node. -/
def State.farOf (s : State) (a : Access) : Option (BitVec 10 × BitVec 4) :=
  if (s.ownedFor a).isSome then none else s.farTarget a.tgt

/-- An ENQ's copy is in no ordering class (R307). -/
def Access.classed (a : Access) : Bool := decide (a.slot ≠ .y)

def Access.inClass (a : Access) (cl : Cls) : Bool := a.classed && decide (a.cls = cl)

def AccOp.isEngine : AccOp → Bool
  | .engRead .. => true
  | _ => false

/-- Access b must perform before access a: one class and one node (CLASS), one class, remote node and lane
(LANE), or multicast stores of one group. Nothing is held behind an engine's reads. -/
def State.before (s : State) (b a : Access) : Bool :=
  (decide (b.po < a.po) || (decide (b.po = a.po) && decide (b.id < a.id))) && !b.op.isEngine &&
  (match b.tgt, a.tgt with
    | .mcast g, .mcast h => decide (g = h)
    | .mcast _, _ | _, .mcast _ => false
    | _, _ => a.classed && b.inClass a.cls && decide (s.farOf b = s.farOf a))

/-- A multicast store waits for an earlier CMCS to its group that has stores to send (R274). -/
def Core.behindCmcs (c : Core) (a : Access) : Bool :=
  match a.tgt with
  | .mcast g => decide (a.slot ≠ .c) && c.eng.cq.any (fun q => decide (q.acc < a.po) && (match q.op with
    | .cmcs w => decide (BitVec.ofNat 12 (w.toNat / 2 ^ 32) = g)
    | _ => false))
  | _ => false

/-- An access may perform now. -/
def State.permitted (s : State) (a : Access) : Bool :=
  !s.core.pend.any (fun b => s.before b a) && !s.core.behindCmcs a &&
  !((s.farOf a).isNone && !a.tgt.isMcast && a.classed &&
    s.core.port.any (fun e => decide (e.cls = some a.cls) && decide (e.id < a.id)))

/-! ### Homes of this module -/

/-- The focus core's own unpublished writes over bytes at places. -/
def State.overlayAt (s : State) (ps : List Place) (raw : List Byte) : List Byte :=
  if s.core.eng.shadow.isEmpty then raw
  else (ps.zip raw).map (fun (p, b) => overlay s.core.eng.shadow s.core.eng.waited s.fresh p b)

/-- What a home answers: reply code, detail and value (with an error, the core-local word met), and the state after. -/
structure Served where
  code : BitVec 16
  detail : BitVec 16
  v : Nat
  st : State

def Served.ok (v : Nat) (s : State) : Served := ⟨0, 0, v, s⟩
def Served.err (code detail : BitVec 16) (s : State) : Served := ⟨code, detail, 0, s⟩
/-- A marked word of a scratchpad was met (R399). -/
def Served.marked (core : Nat) (m : Mark) (s : State) : Served := ⟨fcUNCORR, 0, sawKey core m.addr, s⟩

/-- The machine check that goes with a refusal for security (R450). -/
def State.refusalCheck (s : State) (code : BitVec 16) (g : BitVec 2) (pa : Dpa) : State :=
  if code = fcPERM then
    s.machineCheck 1 15 (match dpaKey g pa with
      | some k => keyDie k
      | none => 5) fcPERM pa.toNat none
  else s

/-- A load of n bytes at a memory die: own unpublished writes over the bytes at the home (R328). -/
def State.homeLoad (s : State) (sec : Bool) (g : BitVec 2) (pa : Dpa) (n : Nat) : Served :=
  match s.homeRefuses sec .rd g pa n with
  | some (c, d) => .err c d (s.refusalCheck c g pa)
  | none =>
    match s.memRead g pa n with
    | (_, some u) => .err fcUNCORR (unitDetail g u) (s.hasRead (.core s.cur) g pa n)
    | (bs, none) =>
      .ok (leNat (s.overlayAt ((keysOf g pa n).map (fun k => ⟨.mem, k⟩)) bs)) (s.usedShadow.hasRead (.core s.cur) g pa n)

/-- A store of bytes at a memory die by a task of this module (R364, R425, R449). -/
def State.homeStore (s : State) (task : Option Nat) (sec : Bool) (g : BitVec 2) (pa : Dpa) (bs : List Byte) : Served :=
  match s.homeRefuses sec .wr g pa bs.length with
  | some (c, d) => .err c d (s.refusalCheck c g pa)
  | none =>
    let keys := keysOf g pa bs.length
    if keys.any s.windowFull then .err fcWINDOW_FULL 0 s
    else
      let s := s.keepOld task keys
      match s.store (.core s.cur) g pa bs with
      | (s, some u) => .err fcUNCORR (unitDetail g u) s
      | (s, none) => .ok 0 s

/-- An atomic at a memory die: a poisoned unit is left as it is (R425, R442). -/
def State.homeAtomic (s : State) (task : Option Nat) (sec : Bool) (g : BitVec 2) (pa : Dpa) (op : AtomOp) (n v c : Nat) : Served :=
  match s.homeRefuses sec .at g pa n with
  | some (c, d) => .err c d (s.refusalCheck c g pa)
  | none =>
    match s.memRead g pa n with
    | (_, some u) => .err fcUNCORR (unitDetail g u) (s.hasRead (.core s.cur) g pa n)
    | (bs, none) =>
      let keys := keysOf g pa n
      if keys.any s.windowFull then .err fcWINDOW_FULL 0 s
      else
        let old := leNat bs
        let s := s.keepOld task keys
        .ok old (s.store (.core s.cur) g pa (leBytes n (atomNew op (8 * n) old v c))).1

/-- Load, store and atomic at a scratchpad by cluster address (R93, R399). -/
def State.clusterLoad (s : State) (core a n : Nat) : Served :=
  match s.dieReply core with
  | some c => .err c 0 s
  | none =>
    let c := s.getCore core
    match c.spadMark a n with
    | some m => .marked core m s
    | none => .ok (leNat (s.overlayAt ((List.range n).map (fun i => ⟨.spad core, a + i⟩)) (c.spadRead a n))) s.usedShadow

def State.clusterStore (s : State) (core a : Nat) (bs : List Byte) : Served :=
  match s.dieReply core with
  | some c => .err c 0 s
  | none =>
    let (c, part) := (s.getCore core).spadStore (placed a bs)
    let s := s.setCore core c
    match part with
    | some m => .marked core m s
    | none => .ok 0 s

def State.clusterAtomic (s : State) (core a : Nat) (op : AtomOp) (n v c : Nat) : Served :=
  match s.dieReply core with
  | some x => .err x 0 s
  | none =>
    let k := s.getCore core
    match k.spadMark a n with
    | some m => .marked core m s
    | none =>
      let old := leNat (k.spadRead a n)
      .ok old (s.setCore core (k.spadStore (placed a (leBytes n (atomNew op (8 * n) old v c)))).1)

/-- The places of n device-register or remote bytes. -/
def farPlaces (pa : Dpa) (n : Nat) : List Place := (List.range n).map (fun i => ⟨.remote, pa.toNat + i⟩)

/-- A device-register access (R336, R374): offsets beyond the block read 0 and ignore writes. -/
def State.regLoad (s : State) (pa : Dpa) (n : Nat) : Served :=
  let o := offOf pa
  if s.gapRead o n then .err fcMCAST_GAP 0 s
  else
    let bs := if 0x40000 ≤ o then List.replicate n 0 else s.regReadBytes s.taskAgent o n
    .ok (leNat (s.overlayAt (farPlaces pa n) bs)) s.usedShadow

def State.regStore (s : State) (pa : Dpa) (bs : List Byte) : Served :=
  let o := offOf pa
  if 0x40000 ≤ o then .ok 0 s else .ok 0 (s.regWriteBytes s.taskAgent o bs)

/-- Published bytes reach a register: the bits they do not change stay. -/
def State.regPublish (s : State) (pa : Dpa) (bs : List (Byte × Byte)) : Served :=
  let old := s.regReadBytes s.taskAgent (offOf pa) bs.length
  s.regStore pa ((bs.zip old).map (fun (x, b) => (b &&& ~~~x.2) ||| (x.1 &&& x.2)))

/-! ### A line this node owns (R350) -/

/-- An ATM to an owned line executes at this node's unit. -/
def State.ownedAtomic (s : State) (o : Owned) (pa : Dpa) (op : AtomOp) (n v c : Nat) : Served :=
  let i := pa.toNat % 64
  let old := leNat ((o.bytes.drop i).take n)
  let new := leBytes n (atomNew op (8 * n) old v c)
  let bs := o.bytes.take i ++ new ++ o.bytes.drop (i + n)
  .ok old (s.mfab (fun f => { f with owned := f.owned.map (fun x =>
    if x = o then { x with bytes := bs } else x) }))

/-! ### Performing a pending access -/

def AccOp.bytes : AccOp → Nat
  | .ldTrack _ n _ | .ldWait _ n _ => n
  | .ldHandle _ => 32
  | .ldPcw _ => 8
  | .store bs => bs.length
  | .atomic _ e .. => if e then 8 else 4
  | .mst _ _ bs => bs.length
  | .published bs .. => bs.length
  | .engRead .. => 64

/-- Serve an access at a place of this module. -/
def State.serve (s : State) (a : Access) : Served :=
  let n := a.op.bytes
  match a.tgt with
  | .cluster core x => (match a.op with
    | .store bs => s.clusterStore core x bs
    | .atomic op _ v c _ => s.clusterAtomic core x op n (v.toNat % 2 ^ (8 * n)) (c.toNat % 2 ^ (8 * n))
    | _ => s.clusterLoad core x n)
  | .dpa pa g =>
    let die := dieCode pa
    if die = 14 then (match a.op with
      | .store bs => s.regStore pa bs
      | .published bs .. => s.regPublish pa bs
      | _ => s.regLoad pa n)
    else if die = 13 then
      if !s.host.up then .err fcHOST_ERROR 0 s
      else (match a.op with
        | .store bs => .ok 0 (s.hostWrite (s.hostAddr pa) bs)
        | .engRead _ line _ => .ok (leNat (s.hostRead line 64)) s
        | _ => .ok (leNat (s.overlayAt ((List.range n).map (fun i => ⟨.host, s.hostAddr pa + i⟩))
            (s.hostRead (s.hostAddr pa) n))) s.usedShadow)
    else (match a.op with
      | .store bs => s.homeStore a.task a.sec g pa bs
      | .atomic op _ v c _ => s.homeAtomic a.task a.sec g pa op n (v.toNat % 2 ^ (8 * n)) (c.toNat % 2 ^ (8 * n))
      | _ => s.homeLoad a.sec g pa n)
  | _ => .ok 0 s

def State.modPend (s : State) (id : Nat) (f : Access → Access) : State :=
  s.mc (fun c => { c with pend := c.pend.map (fun x => if x.id = id then f x else x) })

/-- A tracked load that turns out to read a device register waits as LDW does: it gives its entry up unless its cycle has come,
and issue stops for it (R268). -/
def State.registerLoad (s : State) (a : Access) : State :=
  match a.op with
  | .ldTrack t n sx => (match s.core.track[t.toNat]'(t.isLt) with
    | some x =>
      if x.late || x.drop then s
      else (s.mc (fun c => { c with track := c.track.set t.toNat none t.isLt })).modPend a.id (fun b => { b with op := .ldWait x.reg n sx })
    | none => s)
  | _ => s

/-- An access whose leaf was moving walks again (R91); an offset beyond its die's range is answered as no leaf. -/
def State.rewalk (s : State) (a : Access) (va : Nat) (x : XlatRegs) : State :=
  match s.translate x va a.kind with
  | .moving => s
  | .away ea => s.askLine ea
  | .ok pa g ap rap =>
    let s := (s.walked x va).modPend a.id (fun b => { b with tgt := .dpa pa g, rap := decide (ap = 1) && rap })
    if dieCode pa = 14 then s.registerLoad a else s
  | .noLeaf | .hole => (s.walked x va).reply a fcTRANS (kindNum a.kind) 0
  | .perm => (s.walked x va).reply a fcPERM (kindNum a.kind) 0
  | .uncorr ea => ((s.walked x va).unitCheck 1 ea).reply a fcUNCORR (unitDetail 1 ea) 0

/-- Send a request to another node: it waits while the router is held or its channel has no credit, and is answered at
once when nothing reaches that node (R340, R344, R346, R441). -/
def State.sendOut (s : State) (a : Access) (dst : BitVec 10) (vc : BitVec 3) (lane : BitVec 4) : State :=
  if s.fab.qreq then s
  else match s.way dst with
    | none => s.reply a fcPATH_LOST 0 0
    | some q =>
      if s.linkFree q vc then
        (s.modPend a.id (fun b => { b with sent := true })).transmit q ⟨dst, vc, lane, .access s.cur a.id⟩
      else s

/-- A multicast store leaves for its sequencer, here or on another node (R354). -/
def State.sendMcast (s : State) (a : Access) (g : BitVec 12) : State :=
  match a.op with
  | .mst _ off bs =>
    let x := s.group g
    if x.seqnode = s.fab.node then
      (s.modPend a.id (fun b => { b with sent := true })).setGroup g
        { x with queue := x.queue ++ [(s.fab.node, off, bs, a.born + 100000)] }
    else s.sendOut a x.seqnode 1 (BitVec.ofNat 4 g.toNat)
  | _ => s

/-- A pending access of the focus core performs, or its request leaves. -/
def State.performAcc (s : State) (a : Access) : State :=
  if a.sent || !s.permitted a then s
  else
    match a.tgt with
    | .va va x => s.rewalk a va x
    | .mcast g => s.sendMcast a g
    | .cluster .. =>
      let r := s.serve a
      r.st.reply a r.code r.detail r.v
    | .dpa pa _ =>
      if s.isRemote pa then
        match a.op, s.ownedFor a with
        | .atomic op _ v c _, some o =>
          let n := a.op.bytes
          let r := s.ownedAtomic o pa op n (v.toNat % 2 ^ (8 * n)) (c.toNat % 2 ^ (8 * n))
          r.st.reply a r.code r.detail r.v
        | _, _ => s.sendOut a (nodeOf pa) 0 (laneOf pa)
      else if s.lineAway pa a.op.bytes then s.askLine pa
      else
        let r := s.serve a
        r.st.reply a r.code r.detail r.v

/-! ### Beats of the local port (R264, R268 to R273, R307, R310) -/

/-- Bytes of the focus core's scratchpad as it reads them. -/
def State.spadOwn (s : State) (a n : Nat) : List Byte := s.ownBytes (.spad s.cur) a (s.core.spadRead a n)

/-- A value read at a beat, and the landing it becomes. -/
def State.landAt (s : State) (e : PortEntry) (lat : Nat) (d : Dest) : State :=
  s.mc (fun c => { c with flight := c.flight ++ [⟨e.cyc + lat, slotNum .l, d, 0, e.pc, e.btag⟩] })

/-- An uncorrectable word met by a beat of the running task: its fault is taken with those of the cycle's other beats (R399,
R403). -/
def State.portBad (s : State) (e : PortEntry) (f : FC) : State :=
  if s.core.task.isSome && decide (s.core.task = e.task) then
    s.mc (fun c => c.lateFault ⟨slotNum e.slot, f.code, f.detail, e.pc, e.btag, f.saw⟩)
  else s

/-- Bits of the elements of w bits that `as` places by lane, read from the scratchpad. -/
def State.gatherRow (s : State) (w : Nat) (as : List (Nat × Nat)) : RowVal :=
  BitVec.ofNat 4096 (as.foldl (fun acc p =>
    acc ||| ((leNat (s.spadOwn p.2 (w / 8))) <<< (w * p.1))) 0)

/-- ENQ's entry goes to the task's next reserved slot (R42, R307). -/
def State.enqBeat (s : State) (e : PortEntry) (bs : List Byte) : State :=
  match e.task.bind s.task? with
  | none => s
  | some t =>
    match s.leafOf t with
    | none => s
    | some r =>
      match s.queue? r.outq with
      | none => s
      | some q =>
        let own := (q.slots.filter (fun p => decide (p.2 = .reserved t.id))).map Prod.fst
        match bestBy (fun a b => decide (a < b)) own with
        | none => s
        | some n =>
          let pa := BitVec.ofNat 53 (q.qbase + 64 * (n % 2 ^ q.logcap))
          let s := s.modQueue q.desc (fun q => { q with slots := q.slots.map (fun p =>
            if p.1 = n then (n, .filled t.id e.id s.core.eng.nextCmd) else p) })
          let a : Access := { id := e.id, cls := 0, slot := .y, tgt := .dpa pa r.gran, op := .store bs, kind := .wr,
                              pc := e.pc, btag := e.btag, sent := false, born := s.ns, rap := false, task := e.task,
                              sec := s.core.sys.sec, po := e.id }
          -- a line that another node owns is recalled first (R350); an entry under another coordinate is another module's (R337)
          if s.isRemote pa then s.mc (fun c => { c with pend := c.pend ++ [a] })
          else if s.lineAway pa 64 then (s.mc (fun c => { c with pend := c.pend ++ [a] })).askLine pa
          else
            let r := s.homeStore e.task a.sec r.gran pa bs
            r.st.reply a r.code r.detail 0

/-- One port entry of the focus core performs. -/
def State.beat (s : State) (e : PortEntry) : State :=
  let s := s.mc (fun c => { c with port := c.port.filter (fun x => decide (x ≠ e)) })
  match e.op with
  | .ld d n sx side a =>
    match (if side then s.core.sideMark a n else s.core.spadMark a n) with
    | some m => s.portBad e m.consumed
    | none =>
      let bs := if side then s.ownBytes (.side s.cur) a (s.core.side.read a n) else s.spadOwn a n
      let s := s.usedShadow
      if d = 0 then s else s.landAt e 4 (.s d (extBytes n sx (leNat bs)))
  | .ldh h a =>
    match s.core.spadMark a 32 with
    | some m => s.portBad e m.consumed
    | none => (s.landAt e 4 (.h h (BitVec.ofNat 256 (leNat (s.spadOwn a 32))) (BitVec.allOnes 256))).usedShadow
  | .ldpcw i a =>
    match s.core.spadMark a 8 with
    | some m => s.portBad e m.consumed
    | none => (s.landAt e 4 (.pcw i (BitVec.ofNat 64 (leNat (s.spadOwn a 8))))).usedShadow
  | .vld r m a =>
    match s.core.spadMark a 512 with
    | some m => s.portBad e m.consumed
    | none => (s.landAt e 7 (.row r (BitVec.ofNat 4096 (leNat (s.spadOwn a 512))) m)).usedShadow
  | .vldp r m sw dw sx a =>
    let k := 4096 / dw
    match s.core.spadMark a (k * sw / 8) with
    | some m => s.portBad e m.consumed
    | none =>
      let v := leNat (s.spadOwn a (k * sw / 8))
      let f (i : Nat) : Nat :=
        let x := v / 2 ^ (sw * i) % 2 ^ sw
        if sx then trunc dw (toS sw x) else x
      (s.landAt e 7 (.row r (mkRow k dw f) m)).usedShadow
  | .vldg r m w as =>
    match as.findSome? (fun p => s.core.spadMark p.2 (w / 8)) with
    | some m => s.portBad e m.consumed
    | none => (s.landAt e 11 (.row r (s.gatherRow w as) m)).usedShadow
  | .st side bs =>
    let (c, part) := if side then s.core.sideStore bs else s.core.spadStore bs
    let s := { s with core := c }
    part.elim s (fun m => s.portBad e m.consumed)
  | .enq a =>
    match s.core.spadMark a 64 with
    | some m => s.portBad e m.consumed
    | none =>
      let bs := s.spadOwn a 64
      s.usedShadow.enqBeat e bs
  | .dictld _ a =>
    match s.core.spadMark a 512 with
    | some m => s.portBad e m.consumed
    | none =>
      let bs := s.spadOwn a 512
      s.usedShadow.mc (fun c => { c with curd := { c.curd with load := c.curd.load ++ bs } })
  | .at op eight v c t a =>
    let n := if eight then 8 else 4
    let r := s.clusterAtomic s.cur a op n (v.toNat % 2 ^ (8 * n)) (c.toNat % 2 ^ (8 * n))
    match t with
    | some t => r.st.trackReply t r.code r.detail (if r.code = 0 then extBytes n false r.v else BitVec.ofNat 64 r.v)
    | none => if r.code = 0 then r.st else r.st.portBad e ⟨r.code, r.detail, sawOf r.v⟩

/-! ### Tracker deadlines (R265, R422) -/

/-- Cycle t + L of entry n: the value when the reply has arrived without error, else the register's poison, takes its
place among the writes that land in that cycle, in the slot of the instruction (R183, R265). -/
def State.deadline (s : State) (n : BitVec 4) : State :=
  match s.core.track[n.toNat]'(n.isLt) with
  | none => s
  | some x =>
    if x.late || x.drop || decide (s.pcyc < x.due) then s
    else
      let put (o : Option Track) (d : Dest) : State :=
        s.mc (fun c => { c with
          track := c.track.set n.toNat o n.isLt,
          flight := if x.reg = 0 then c.flight
            else c.flight ++ [⟨x.due, slotNum (if x.opc = 2 then .l else .w), d, 0, x.pc, x.btag⟩] })
      match x.reply with
      | some (0, v) => put none (.s x.reg v)
      | _ => put (some { x with late := true }) (.poison x.reg)

/-- The entries that LDW.RPL, or a held bundle, writes: late, with a register among `regs` (all when none). -/
def Core.owedFor (c : Core) (regs : Option (List SReg)) : List Nat :=
  (List.range 16).filter (fun i => match c.track.getD i none with
    | some x => x.late && !x.drop && decide (x.reg ≠ 0) && (match regs with
        | some l => l.contains x.reg
        | none => true)
    | none => false)

/-- Every such entry holds its reply. -/
def Core.owedReady (c : Core) (regs : Option (List SReg)) : Bool :=
  (c.owedFor regs).all (fun i => match c.track.getD i none with
    | some x => x.reply.isSome
    | none => true)

/-- LDW.RPL: each such register is written and unpoisoned and its entry frees; an error reply is consumed
(R268, R422). -/
def State.writeOwed (s : State) (regs : Option (List SReg)) : State :=
  let es := (s.core.owedFor regs).filterMap (fun i => (s.core.track.getD i none).map (fun x => (i, x)))
  let s := es.foldl (fun s (i, x) =>
    let s := s.mc (fun c => { c with track := c.track.setIfInBounds i none,
                                     poison := c.poison &&& ~~~(1#64 <<< x.reg.toNat) })
    match x.reply with
    | some (0, v) => s.mc (fun c => c.writeS x.reg v)
    | _ => s) s
  let errs := es.filterMap (fun (_, x) => match x.reply with
    | some (code, v) => if code = 0 then none else some (FaultInfo.mk code x.detail 12 0 0 0 0 s.core.eng.cidx
        x.pc x.btag (decide (code = fcATOMIC_APPLIED)) (sawOf v.toNat))
    | none => none)
  s.takeFaults none errs

/-! ### Faults raised by register writes (R399, R422) -/

/-- The faults that register writes have raised are taken, in slot order. -/
def State.takeLate (s : State) : State :=
  match s.core.ctl.late with
  | [] => s
  | l =>
    let s := s.mc (fun c => c.mctl (fun k => { k with late := [] }))
    s.takeFaults none ((l.mergeSort (fun a b => decide (a.slot ≤ b.slot))).map (fun f =>
      ⟨f.code, f.detail, f.slot, 0, 0, 0, 0, s.core.eng.cidx, f.pc, f.btag, decide (f.code = fcATOMIC_APPLIED), f.saw⟩))

/-- The beats whose turn it is by cycle t: those of the earliest cycle, L before W, in program order. -/
def Core.portDue (c : Core) (t : Nat) : List PortEntry :=
  match bestBy (fun a b => decide (a.cyc < b.cyc) || (decide (a.cyc = b.cyc) && decide (b.lag < a.lag))) c.port with
  | some e => if e.cyc + e.lag ≤ t then c.port.filter (fun x => decide (x.cyc = e.cyc)) else []
  | none => []

/-- The beats of one cycle perform, and the faults that they meet are taken together (R403). -/
def State.beats (s : State) (l : List PortEntry) : State := (l.foldl State.beat s).takeLate

/-- The waiting beats of the core in focus perform up to three cycles late (R335). -/
def State.portLag (s : State) (n : Nat) : State :=
  s.mc (fun c => { c with port := c.port.map (fun e => { e with lag := min 3 (e.lag + n) }) })

end Sys2Proof.Machine
end

