-- ==== Sys2Proof/Machine/Vector.lean ====
section
/-! DEFINITION. The vector slots V0 and V1 (R225 to R251): one meaning per operation over the shared
operand, mask and latch rules of R186 and R226 to R228. -/

namespace Sys2Proof.Machine

open Sys2Proof

/-! ### Operands, checks and results -/

def vslot : VUnit → Slot
  | .v0 => .v0
  | .v1 => .v1

/-- Lanes of a type (R225). -/
def laneN (ty : VType) : Nat := 4096 / typeW ty

/-- The value of a source selector in beat j for element width w (VSrc, R186). -/
def State.vsrc (s : State) (imm : SReg) (w : Nat) (sel : VSel) (j : Nat) : RowVal :=
  match sel with
  | .row r => s.arow (r + BitVec.ofNat 8 j)
  | .latch n => (s.core.regs.getB n).getD 0
  | .scalar => mkRow (4096 / w) w (fun _ => (s.sreg imm).toNat)
  | .zero => 0

/-- A read of an empty latch (R188). -/
def State.latchEmpty (s : State) (sels : List VSel) : Bool :=
  sels.any (fun x => match x with
    | .latch n => (s.core.regs.getB n).isNone
    | _ => false)

/-- A row run that passes a255 (R186). -/
def runBad (b1 : BitVec 4) (r : Row) : Bool := decide (255 < r.toNat + b1.toNat)

def vselRun (b1 : BitVec 4) (sels : List VSel) : Bool :=
  sels.any (fun x => match x with
    | .row r => runBad b1 r
    | _ => false)

/-- The physical rows of a run. -/
def State.srcRows (s : State) (b1 : BitVec 4) (r : Row) : List Mark :=
  (List.range (b1.toNat + 1)).map (fun j => .row (rotA s.core.sys (r + BitVec.ofNat 8 j)) 0)

/-- The registers that the selectors read (R227). -/
def State.srcSels (s : State) (imm : SReg) (b1 : BitVec 4) (sels : List VSel) : List Mark :=
  (sels.map (fun x => match x with
    | .row r => s.srcRows b1 r
    | .latch n => [.latch n]
    | .scalar => s.srcS [imm]
    | .zero => [])).flatten

/-- First free cycle of a vector unit. -/
def State.busyV (s : State) (u : VUnit) : Nat :=
  match u with
  | .v0 => s.core.ctl.busyV0
  | .v1 => s.core.ctl.busyV1

def State.occupyV (u : VUnit) (b : Nat) (s : State) : State :=
  s.mc (fun c => c.mctl (fun k => match u with
    | .v0 => { k with busyV0 := max k.busyV0 (s.pcyc + b) }
    | .v1 => { k with busyV1 := max k.busyV1 (s.pcyc + b) }))

/-- Issue a V operation of B beats: schedule checks, then row runs and what the entry adds. -/
def vIssue (u : VUnit) (b1 : BitVec 4) (sels : List VSel) (d : Option Row) (srcs : List Mark)
    (more : Option FC) (eff : State → State) (s : State) : Host.Outcome State Fault Refusal :=
  issue (vslot u) 0 srcs
    (fcFirst [fcIf (decide (s.pcyc < s.busyV u)) fcSCHEDULE 1, fcIf (s.latchEmpty sels) fcSCHEDULE 5])
    (fcFirst [fcIf (vselRun b1 sels || (match d with
        | some r => runBad b1 r
        | none => false)) fcOPERAND 7, more, s.noReplay])
    (State.occupyV u (b1.toNat + 1)) eff s

/-- VDst (R186): beat j of a result whose written bits are `m`, with its flags. -/
def State.vdst (s : State) (c : VCtl) (lat j : Nat) (v m : RowVal) (fl : BitVec 5) : State :=
  let sl := vslot c.unit
  let s := s.land (lat + j) sl
    (if c.nowb then .none else .row (rotA s.core.sys (c.d + BitVec.ofNat 8 j)) v m) fl
  match c.latch with
  | none => s
  | some l =>
    if j = c.b1.toNat then
      s.land (lat + j) sl
        (.latch ((match c.unit with
          | .v0 => 0#1
          | .v1 => 1#1) ++ l) (v &&& m) s.core.ctl.latchEpoch) 0
    else s

/-- All beats of a V operation: `f s j` gives beat j's row, its written bits and its flags. -/
def State.vbeats (s : State) (c : VCtl) (lat : Nat) (f : Nat → RowVal × RowVal × BitVec 5) : State :=
  (List.range (c.b1.toNat + 1)).foldl (fun s j =>
    let (v, m, fl) := f j
    s.vdst c lat j v m fl) s

/-- A V operation that writes rows; `imm` is the register that selector 264 reads. -/
def vRow (c : VCtl) (imm : SReg) (lat : Nat) (sels : List VSel) (srcs : List Mark) (more : Option FC)
    (f : State → Nat → RowVal × RowVal × BitVec 5) (s : State) : Host.Outcome State Fault Refusal :=
  vIssue c.unit c.b1 sels (some c.d) (s.srcSels imm c.b1 sels ++ [.k c.k] ++ srcs) more
    (fun s => s.vbeats c lat (f s)) s

/-- A row from lane results, with the flags of the enabled lanes. -/
def rowOf (w : Nat) (k : Line) (l : List (Nat × BitVec 5)) : RowVal × BitVec 5 :=
  (BitVec.ofNat 4096 (packList w (l.map Prod.fst)),
    joinFlags (l.zipIdx.map (fun (x, i) => if k.getLsbD i then x.2 else 0)))

/-- ElemOp (R226): lane i of the result from lane i of the sources. -/
def vElem (c : VCtl) (ty : VType) (lat : Nat) (sels : List VSel)
    (f : List Nat → Nat → Nat × BitVec 5) (s : State) : Host.Outcome State Fault Refusal :=
  let w := typeW ty
  vRow c c.imm lat sels [] none (fun s j =>
    let rows := sels.map (fun x => s.vsrc c.imm w x j)
    let k := s.kreg c.k
    let (v, fl) := rowOf w k ((List.range (4096 / w)).map (fun i =>
      f (rows.map (fun r => lane r i w)) i))
    (v, laneMask k w, fl)) s

/-- A two-source lane operation without flags. -/
def vElem2 (c : VCtl) (ty : VType) (lat : Nat) (a b : VSel) (f : Nat → Nat → Nat) (s : State) :
    Host.Outcome State Fault Refusal :=
  vElem c ty lat [a, b] (fun l _ => (f (l.getD 0 0) (l.getD 1 0), 0)) s

/-- A one-source lane operation. -/
def vElem1 (c : VCtl) (ty : VType) (lat : Nat) (a : VSel) (f : Nat → Nat × BitVec 5) (s : State) :
    Host.Outcome State Fault Refusal :=
  vElem c ty lat [a] (fun l _ => f (l.getD 0 0)) s

/-- An arithmetic lane operation on exact values (R229). -/
def vArith (c : VCtl) (ty : VType) (md : VMode) (li lf : Nat) (a b : VSel)
    (fl : RMode → Val → Val → Val × BitVec 5) (it : Int → Int → Int) (s : State) :
    Host.Outcome State Fault Refusal :=
  vElem c ty (if typeFloat ty then lf else li) [a, b] (fun l _ =>
    let x := l.getD 0 0
    let y := l.getD 1 0
    arith ty md (fun rm => fl rm (laneVal ty x) (laneVal ty y)) (it (laneInt ty x) (laneInt ty y))) s

/-! ### Lane-wise arithmetic (R229 to R236) -/

def execVadd (c : VCtl) (ty : VType) (md : VMode) (a b : VSel) (s : State) :
    Host.Outcome State Fault Refusal :=
  vArith c ty md 2 4 a b addVal (· + ·) s

def execVsub (c : VCtl) (ty : VType) (md : VMode) (a b : VSel) (s : State) :
    Host.Outcome State Fault Refusal :=
  vArith c ty md 2 4 a b (fun rm x y => addVal rm x y.negate) (· - ·) s

def execVmul (c : VCtl) (ty : VType) (md : VMode) (a b : VSel) (s : State) :
    Host.Outcome State Fault Refusal :=
  vArith c ty md 4 4 a b (fun _ x y => mulVal x y) (· * ·) s

def execVfma (c : VCtl) (ty : VType) (md : VMode) (a b cc : VSel) (s : State) :
    Host.Outcome State Fault Refusal :=
  vElem c ty 4 [a, b, cc] (fun l _ =>
    let x := l.getD 0 0
    let y := l.getD 1 0
    let z := l.getD 2 0
    arith ty md (fun rm =>
      let (p, f1) := mulVal (laneVal ty x) (laneVal ty y)
      let (r, f2) := addVal rm p (laneVal ty z)
      (r, f1 ||| f2)) (laneInt ty x * laneInt ty y + laneInt ty z)) s

def execVmin (c : VCtl) (ty : VType) (_md : VMode) (a b : VSel) (s : State) :
    Host.Outcome State Fault Refusal :=
  vElem2 c ty (if typeFloat ty then 4 else 2) a b (pickLane ty false) s

def execVmax (c : VCtl) (ty : VType) (_md : VMode) (a b : VSel) (s : State) :
    Host.Outcome State Fault Refusal :=
  vElem2 c ty (if typeFloat ty then 4 else 2) a b (pickLane ty true) s

def execVabs (c : VCtl) (ty : VType) (md : VMode) (a : VSel) (s : State) :
    Host.Outcome State Fault Refusal :=
  vElem1 c ty (if typeFloat ty then 4 else 2) a (fun x =>
    (if typeFloat ty then
      (if (laneVal ty x).isNan then (typeF ty).nanCode else x % 2 ^ (typeW ty - 1))
    else toIntType ty md.sat (laneInt ty x).natAbs, 0)) s

def execVmulh (c : VCtl) (ty : VType) (_md : VMode) (a b : VSel) (s : State) :
    Host.Outcome State Fault Refusal :=
  vElem2 c ty 4 a b (fun x y =>
    trunc (typeW ty) (laneInt ty x * laneInt ty y / (2 ^ typeW ty : Nat))) s

def execVand (c : VCtl) (ty : VType) (a b : VSel) (s : State) : Host.Outcome State Fault Refusal :=
  vElem2 c ty 2 a b (fun x y => x &&& y) s

def execVor (c : VCtl) (ty : VType) (a b : VSel) (s : State) : Host.Outcome State Fault Refusal :=
  vElem2 c ty 2 a b (fun x y => x ||| y) s

def execVxor (c : VCtl) (ty : VType) (a b : VSel) (s : State) : Host.Outcome State Fault Refusal :=
  vElem2 c ty 2 a b (fun x y => x ^^^ y) s

def execVshl (c : VCtl) (ty : VType) (a b : VSel) (s : State) : Host.Outcome State Fault Refusal :=
  vElem2 c ty 2 a b (shlN (typeW ty)) s

def execVshr (c : VCtl) (ty : VType) (a b : VSel) (s : State) : Host.Outcome State Fault Refusal :=
  vElem2 c ty 2 a b (shrN (typeW ty)) s

def execVsar (c : VCtl) (ty : VType) (a b : VSel) (s : State) : Host.Outcome State Fault Refusal :=
  vElem2 c ty 2 a b (sarN (typeW ty)) s

def execVsel (c : VCtl) (ty : VType) (m : KReg) (a b : VSel) (s : State) :
    Host.Outcome State Fault Refusal :=
  let w := typeW ty
  vRow c c.imm 2 [a, b] [.k m] none (fun s j =>
    let x := s.vsrc c.imm w a j
    let y := s.vsrc c.imm w b j
    (mergeRow y x (laneMask (s.kreg m) w), laneMask (s.kreg c.k) w, 0)) s

/-- The field of VBEXT (R234). -/
def vbextLane (w : Nat) (sgn : Bool) (a b c : Nat) : Nat :=
  let len := min c w
  let f := if w ≤ b then 0 else fieldOf a b len
  if len = 0 then 0 else if sgn then trunc w (toS len f) else f

def execVbext (c : VCtl) (ty : VType) (sgn : Bool) (a b cc : VSel) (s : State) :
    Host.Outcome State Fault Refusal :=
  vElem c ty 2 [a, b, cc] (fun l _ =>
    (vbextLane (typeW ty) sgn (l.getD 0 0) (l.getD 1 0) (l.getD 2 0), 0)) s

def execVfshr (c : VCtl) (ty : VType) (a b cc : VSel) (s : State) : Host.Outcome State Fault Refusal :=
  let w := typeW ty
  vElem c ty 2 [a, b, cc] (fun l _ =>
    (((l.getD 0 0 <<< w) + l.getD 1 0) >>> (l.getD 2 0 % (2 * w)) % 2 ^ w, 0)) s

def execVclmul (c : VCtl) (ty : VType) (hi : Bool) (a b : VSel) (s : State) :
    Host.Outcome State Fault Refusal :=
  let w := typeW ty
  vElem2 c ty 3 a b (fun x y =>
    let p := clmul w x y
    if hi then p >>> w else p % 2 ^ w) s

def execVpopc (c : VCtl) (ty : VType) (a : VSel) (s : State) : Host.Outcome State Fault Refusal :=
  vElem1 c ty 2 a (fun x => (popcGo (typeW ty) x, 0)) s

def execVclz (c : VCtl) (ty : VType) (a : VSel) (s : State) : Host.Outcome State Fault Refusal :=
  vElem1 c ty 2 a (fun x => (clzN (typeW ty) x, 0)) s

/-! ### Lane masks (R228, R232, R246, R247) -/

/-- A 512-bit mask from its bits 0 to n − 1. -/
def maskOf (n : Nat) (f : Nat → Bool) : Line :=
  BitVec.ofNat 512 (packGo 1 (fun i => if f i then 1 else 0) n 0)

/-- The bits that VCMP and VMASK write: enabled lanes, and bits n to 511 (R228). -/
def maskWr (n : Nat) (k : Line) : Line := maskOf 512 (fun i => decide (n ≤ i) || k.getLsbD i)

/-- An operation that writes a lane mask, landing at t + 2. -/
def vMaskOp (u : VUnit) (sels : List VSel) (srcs : List Mark) (dk : KReg)
    (f : State → Line × Line) (s : State) : Host.Outcome State Fault Refusal :=
  vIssue u 0 sels none srcs none (fun s =>
    let (v, m) := f s
    s.land 2 (vslot u) (.k dk v m) 0) s

/-- The condition of VCMP on two lanes (R117, R232). -/
def vcondLane (ty : VType) (cc : VCond) (a b : Nat) : Bool :=
  let x := laneVal ty a
  let y := laneVal ty b
  if x.isNan || y.isNan then decide (cc = .ne)
  else
    let o := Val.cmpReal x y
    match cc with
    | .eq => decide (o = .eq)
    | .ne => decide (o ≠ .eq)
    | .lt => decide (o = .lt)
    | .le => decide (o ≠ .gt)
    | .gt => decide (o = .gt)
    | .ge => decide (o ≠ .lt)

def execVcmp (c : VMaskCtl) (ty : VType) (cc : VCond) (a b : VSel) (s : State) :
    Host.Outcome State Fault Refusal :=
  let w := typeW ty
  vMaskOp c.unit [a, b] (.k c.k :: s.srcSels c.imm 0 [a, b]) c.dk (fun s =>
    let x := s.vsrc c.imm w a 0
    let y := s.vsrc c.imm w b 0
    (maskOf (4096 / w) (fun i => vcondLane ty cc (lane x i w) (lane y i w)),
      maskWr (4096 / w) (s.kreg c.k))) s

def execVmask (c : VMaskCtl) (ty : VType) (md : VMaskMode) (a : VSel) (s : State) :
    Host.Outcome State Fault Refusal :=
  let w := typeW ty
  vMaskOp c.unit [a] (.k c.k :: s.srcSels c.imm 0 [a]) c.dk (fun s =>
    let x := s.vsrc c.imm w a 0
    match md with
    | .nz => (maskOf (4096 / w) (fun i => decide (lane x i w ≠ 0)), maskWr (4096 / w) (s.kreg c.k))
    | .neg => (maskOf (4096 / w) (fun i => decide (2 ^ (w - 1) ≤ lane x i w)),
        maskWr (4096 / w) (s.kreg c.k))
    | .raw => (x.extractLsb' 0 512, BitVec.allOnes 512)) s

def execVsetk (unit : VUnit) (dk : KReg) (f : SetkForm) (s : State) : Host.Outcome State Fault Refusal :=
  vMaskOp unit [] (match f with
    | .pre _ n => s.srcS [n]
    | .and a b | .or a b | .xor a b | .andn a b => [.k a, .k b]
    | .not a => [.k a]) dk (fun s =>
    (match f with
      | .pre ty n => maskOf (laneN ty) (fun i => decide (i < (s.sreg n).toNat))
      | .and a b => s.kreg a &&& s.kreg b
      | .or a b => s.kreg a ||| s.kreg b
      | .xor a b => s.kreg a ^^^ s.kreg b
      | .andn a b => s.kreg a &&& ~~~s.kreg b
      | .not a => ~~~s.kreg a, BitVec.allOnes 512)) s

/-! ### Lane movement and indices (R237 to R242) -/

/-- A whole row of results under the lane mask. -/
def vMove (c : VCtl) (ty : VType) (imm : SReg) (lat : Nat) (sels : List VSel) (srcs : List Mark)
    (more : Option FC) (f : State → Nat → Nat → Nat) (s : State) : Host.Outcome State Fault Refusal :=
  let w := typeW ty
  vRow c imm lat sels srcs more (fun s j =>
    (mkRow (4096 / w) w (f s j), laneMask (s.kreg c.k) w, 0)) s

/-- The lane an index names: an immediate, or a register modulo n (R237, R241). -/
def laneIdx (s : State) (n : Nat) (l : LaneIdx) : Nat :=
  match l with
  | .imm v => v.toNat
  | .reg r => (s.sreg r).toNat % n

def laneSrc : LaneIdx → List SReg
  | .imm _ => []
  | .reg r => [r]

/-- An immediate lane index at or above n (R458). -/
def laneBad (n : Nat) (l : LaneIdx) : Option FC :=
  match l with
  | .imm v => fcIf (decide (n ≤ v.toNat)) fcOPERAND 7
  | .reg _ => none

def execVbcast (c : VCtl) (ty : VType) (a : VSel) (l : LaneIdx) (s : State) :
    Host.Outcome State Fault Refusal :=
  let w := typeW ty
  let imm := match l with
    | .imm _ => c.imm
    | .reg r => r
  vMove c ty imm 2 [a] (s.srcS (laneSrc l)) (laneBad (4096 / w) l) (fun s j _ =>
    lane (s.vsrc imm w a j) (laneIdx s (4096 / w) l) w) s

def execViota (c : VCtl) (ty : VType) (f : IotaForm) (s : State) : Host.Outcome State Fault Refusal :=
  let n := laneN ty
  vMove c ty c.imm 2 [] (match f with
    | .count r => s.srcS [r]
    | .mask m => [.k m]) none (fun s j i =>
    match f with
    | .count r => (s.sreg r).toNat + j * n + i
    | .mask m => popcGo i (s.kreg m).toNat) s

def execVshuf (c : VCtl) (ty : VType) (a b cc : VSel) (s : State) : Host.Outcome State Fault Refusal :=
  let w := typeW ty
  let n := 4096 / w
  vMove c ty c.imm 3 [a, b, cc] [] none (fun s j i =>
    let t := lane (s.vsrc c.imm w b j) i w
    if t < n then lane (s.vsrc c.imm w a j) t w
    else if t < 2 * n then lane (s.vsrc c.imm w cc j) (t - n) w
    else 0) s

def execVslide (c : VCtl) (ty : VType) (up : Bool) (a b : VSel) (am : SlideAmt) (s : State) :
    Host.Outcome State Fault Refusal :=
  let w := typeW ty
  let n := 4096 / w
  let imm : SReg := match am with
    | .imm v => v
    | .reg r => r
  vMove c ty imm 3 [a, b] (match am with
    | .imm _ => []
    | .reg r => s.srcS [r]) none (fun s j i =>
    let k := match am with
      | .imm v => v.toNat
      | .reg r => min (s.sreg r).toNat n
    let x := s.vsrc imm w a j
    let y := s.vsrc imm w b j
    if up then (if k ≤ i then lane x (i - k) w else lane y (n + i - k) w)
    else if i + k < n then lane x (i + k) w else lane y (i + k - n) w) s

def execVmov (c : VCtl) (ty : VType) (a : VSel) (s : State) : Host.Outcome State Fault Refusal :=
  let w := typeW ty
  vRow c c.imm 1 [a] [] none (fun s j =>
    (s.vsrc c.imm w a j, laneMask (s.kreg c.k) w, 0)) s

def execVextr (unit : VUnit) (ty : VType) (d : SReg) (a : VSel) (l : LaneIdx) (imm : SReg) (s : State) :
    Host.Outcome State Fault Refusal :=
  let w := typeW ty
  vIssue unit 0 [a] none (s.srcSels imm 0 [a] ++ s.srcS (laneSrc l)) (laneBad (4096 / w) l) (fun s =>
    let v := lane (s.vsrc imm w a 0) (laneIdx s (4096 / w) l) w
    s.landS 3 (vslot unit) d
      (if typeSigned ty then BitVec.ofInt 64 (toS w v) else BitVec.ofNat 64 v)) s

def execVins (unit : VUnit) (ty : VType) (d : Row) (nowb : Bool) (n : SReg) (l : LaneIdx) (s : State) :
    Host.Outcome State Fault Refusal :=
  let w := typeW ty
  vIssue unit 0 [] none (s.srcS (n :: laneSrc l)) (laneBad (4096 / w) l) (fun s =>
    let i := laneIdx s (4096 / w) l
    let v : RowVal := BitVec.ofNat 4096 (((s.sreg n).toNat % 2 ^ w) <<< (i * w))
    let m : RowVal := BitVec.ofNat 4096 ((2 ^ w - 1) <<< (i * w))
    s.land 2 (vslot unit) (if nowb then .none else .row (rotA s.core.sys d) v m) 0) s

/-! ### Reductions, scans and top-k (R243 to R245) -/

/-- The lanes of a row, disabled ones as the identity. -/
def lanesOr (w : Nat) (k : Line) (ident : Nat) (r : RowVal) : List Nat :=
  (List.range (4096 / w)).map (fun i => if k.getLsbD i then lane r i w else ident)

/-- A reduction (R243): its result in every lane, whatever k says. -/
def vReduce (c : VCtl) (ty : VType) (lat ident : Nat) (a : VSel) (op : Nat → Nat → Nat × BitVec 5)
    (s : State) : Host.Outcome State Fault Refusal :=
  let w := typeW ty
  vRow c c.imm lat [a] [] none (fun s j =>
    let (v, fl) := treeReduce op 12 (lanesOr w (s.kreg c.k) ident (s.vsrc c.imm w a j))
    (mkRow (4096 / w) w (fun _ => v), BitVec.allOnes 4096, fl)) s

def execVrsum (c : VCtl) (ty : VType) (sat : Bool) (a : VSel) (s : State) :
    Host.Outcome State Fault Refusal :=
  vReduce c ty (if typeFloat ty then 14 else 10) (identSum ty) a (addStep ty sat) s

def execVrmax (c : VCtl) (ty : VType) (a : VSel) (s : State) : Host.Outcome State Fault Refusal :=
  vReduce c ty 10 (identMax ty) a (fun x y => (pickLane ty true x y, 0)) s

def execVrmin (c : VCtl) (ty : VType) (a : VSel) (s : State) : Host.Outcome State Fault Refusal :=
  vReduce c ty 10 (identMin ty) a (fun x y => (pickLane ty false x y, 0)) s

/-- The step and identity of a scan (R244). -/
def scanStep (ty : VType) (op : ScanOp) (sat : Bool) : Nat → Nat → Nat × BitVec 5 :=
  match op with
  | .add => addStep ty sat
  | .max => fun x y => (pickLane ty true x y, 0)
  | .min => fun x y => (pickLane ty false x y, 0)
  | .xor => fun x y => (x ^^^ y, 0)

def scanIdent (ty : VType) (op : ScanOp) : Nat :=
  match op with
  | .add => identSum ty
  | .max => identMax ty
  | .min => identMin ty
  | .xor => 0

/-- A NaN that a result takes over is canonical (R116). -/
def canon (ty : VType) (x : Nat) : Nat :=
  if typeFloat ty && (laneVal ty x).isNan then (typeF ty).nanCode else x

def execVscan (c : VCtl) (ty : VType) (op : ScanOp) (sat : Bool) (a : VSel) (s : State) :
    Host.Outcome State Fault Refusal :=
  let w := typeW ty
  vRow c c.imm (if typeFloat ty then 34 else 10) [a] [] none (fun s j =>
    let k := s.kreg c.k
    match lanesOr w k (scanIdent ty op) (s.vsrc c.imm w a j) with
    | [] => (0, 0, 0)
    | x :: xs =>
      let x := canon ty x
      let r := (x, 0) :: scanSeq (scanStep ty op sat) x xs
      (BitVec.ofNat 4096 (packList w (r.map Prod.fst)), laneMask k w, joinFlags (r.map Prod.snd))) s

/-- Whether candidate x stands above y in the order of R245 (equal candidates keep lane order). -/
def topAbove (ty : VType) (x y : Nat) : Bool :=
  let a := laneVal ty x
  let b := laneVal ty y
  if a.isNan then false else if b.isNan then true else decide (Val.cmpTotal a b = .gt)

/-- Insert a later lane behind its equals. -/
def topInsert (ty : VType) (x : Nat × Nat) : List (Nat × Nat) → List (Nat × Nat)
  | [] => [x]
  | y :: ys => if topAbove ty x.1 y.1 then x :: y :: ys else y :: topInsert ty x ys

/-- The K best candidates, best first. -/
def topK (ty : VType) (n : Nat) (cands : List (Nat × Nat)) : List (Nat × Nat) :=
  cands.foldl (fun acc x => (topInsert ty x acc).take n) []

def execVtopk (c : VCtl) (ty : VType) (n : BitVec 5) (a : VSel) (s : State) :
    Host.Outcome State Fault Refusal :=
  let w := typeW ty
  let lanes := 4096 / w
  let imm : SReg := n.zeroExtend 6
  vRow c imm 16 [a] [] none (fun s j =>
    let k := s.kreg c.k
    let r := s.vsrc imm w a j
    let best := topK ty n.toNat
      (((List.range lanes).filter (fun i => k.getLsbD i)).map (fun i => (lane r i w, i)))
    (mkRow lanes w (fun i =>
      if i < n.toNat then (match best[i]? with
        | some x => canon ty x.1
        | none => 0)
      else if lanes / 2 ≤ i ∧ i < lanes / 2 + n.toNat then (match best[i - lanes / 2]? with
        | some x => x.2
        | none => 2 ^ w - 1)
      else 0), BitVec.allOnes 4096, 0)) s

/-! ### Conversion, quantisation and special functions (R248 to R251) -/

/-- The format of an element type (R226). -/
def typeFmt : VType → Fmt
  | .f32 => .fp32
  | .bf16 => .bf16
  | .i32 => .int32
  | .i16 => .int16
  | .i8 => .int8
  | .i64 => .int64
  | .n32 => .n32
  | .n8 => .n8

/-- One element converted under R129; equal types copy the bits. -/
def cvtLane (dt st : VType) (md : VMode) (x : Nat) : Nat × BitVec 5 :=
  if dt = st then (x, 0)
  else encPlain (typeFmt dt) (!typeFloat st) md.rm md.sat (laneVal st x)

def execVcvt (c : VCtl) (dt st : VType) (md : VMode) (part : BitVec 3) (a : VSel) (s : State) :
    Host.Outcome State Fault Refusal :=
  let ws := typeW st
  let wd := typeW dt
  let m := 4096 / max ws wd
  let p := part.toNat
  let imm : SReg := part ++ tyCode st
  let db := if wd < ws then p * m else 0
  let sb := if ws < wd then p * m else 0
  vRow c imm 4 [a] [] (fcIf (decide (max ws wd / min ws wd ≤ p)) fcOPERAND 7) (fun s j =>
    let k := s.kreg c.k
    let r := s.vsrc imm ws a j
    let l := (List.range m).map (fun i => cvtLane dt st md (lane r (sb + i) ws))
    let fl := joinFlags (l.zipIdx.map (fun (x, i) => if k.getLsbD (db + i) then x.2 else 0))
    let inRange : RowVal := BitVec.ofNat 4096 ((2 ^ (m * wd) - 1) <<< (db * wd))
    (BitVec.ofNat 4096 (packList wd (l.map Prod.fst) <<< (db * wd)), laneMask k wd &&& inRange, fl)) s

def execVsfu (c : VCtl) (ty : VType) (f : SfuFn) (a : VSel) (s : State) :
    Host.Outcome State Fault Refusal :=
  vElem1 c ty 12 a (fun x =>
    let (v, f1) := sfuVal f (laneVal ty x)
    let (r, f2) := (typeF ty).round .rne v
    (r, f1 ||| f2)) s

/-- The bytes of R249 for a run of elements. -/
def quantRow (e : Elems) : RowVal :=
  let pad := e.codes ++ List.replicate (256 - e.codes.length) 0
  let tail :=
    if fmtPx e.fmt then
      (e.scales.zipIdx.map (fun (x, q) => [x, packList 1 ((e.mus.drop (8 * q)).take 8)])).flatten
    else e.scales
  BitVec.ofNat 4096 (packList 8 (pad ++ tail))

/-- The n elements that a row in the form of R249 holds. -/
def quantElems (f : Fmt) (g n : Nat) (r : RowVal) : Elems :=
  let b (i : Nat) : Nat := lane r i 8
  let codes := (List.range n).map (fun i => b i % 2 ^ fmtBits f)
  if fmtPx f then
    ⟨f, g, codes, (List.range (n / 16)).map (fun q => b (256 + 2 * q)),
      (List.range (n / 2)).map (fun p => b (257 + 2 * (p / 8)) >>> (p % 8) % 2)⟩
  else ⟨f, g, codes, (List.range (n / g)).map (fun q => b (256 + q)), []⟩

def execVqnt (c : VCtl) (ty : VType) (f : Fmt) (gs : GSize) (a : VSel) (s : State) :
    Host.Outcome State Fault Refusal :=
  let w := typeW ty
  let imm : SReg := (fmtCode f).zeroExtend 6
  vRow c imm 6 [a] [] none (fun s j =>
    let r := s.vsrc imm w a j
    let (e, fl) := encodeElems f (gsN gs) false .rne false
      ((List.range (4096 / w)).map (fun i => laneVal ty (lane r i w)))
    (quantRow e, BitVec.allOnes 4096, fl)) s

def execVdqnt (c : VCtl) (ty : VType) (f : Fmt) (gs : GSize) (a : VSel) (s : State) :
    Host.Outcome State Fault Refusal :=
  let w := typeW ty
  let imm : SReg := (fmtCode f).zeroExtend 6
  vRow c imm 4 [a] [] none (fun s j =>
    let k := s.kreg c.k
    let e := quantElems f (gsN gs) (4096 / w) (s.vsrc imm w a j)
    let (v, fl) := rowOf w k (e.vals.map ((typeF ty).round .rne))
    (v, laneMask k w, fl)) s

end Sys2Proof.Machine
end

