-- ==== Sys2Proof/Machine/LoadStore.lean ====
section
/-! DEFINITION. The L and W slots (R263 to R274): one meaning per load, store, row transfer, handle transfer,
atomic and multicast store. -/

namespace Sys2Proof.Machine

open Sys2Proof

/-! ### Addresses (R263) -/

def sizeN : MSize → Nat
  | .b => 1
  | .h => 2
  | .w => 4
  | .d => 8

/-- EA. -/
def State.ea {w : Nat} (s : State) (a : SReg) (disp : BitVec w) : Nat := (s.sreg a + disp.signExtend 64).toNat

/-- Alignment to n: OPERAND 1. -/
def misaligned (ea n : Nat) : Option FC := fcIf (decide (ea % n ≠ 0)) fcOPERAND 1

/-- Local scratchpad, side bank and cluster ranges: OPERAND 2. -/
def State.outSpad (s : State) (ea n : Nat) : Option FC :=
  fcIf (decide (2 ^ 21 ≤ ea) || decide (s.spadb < ea + n)) fcOPERAND 2
def State.outSide (s : State) (ea n : Nat) : Option FC :=
  fcIf (decide (2 ^ 18 ≤ ea) || decide (s.sideb < ea + n)) fcOPERAND 2
def outCluster (ea : Nat) : Option FC := fcIf (decide (2 ^ 27 ≤ ea)) fcOPERAND 2

/-- The core and local address that a cluster address names (R19, R93). -/
def State.clusterAt (s : State) (ea : Nat) : Nat × Nat :=
  (64 * clusterOf s.cur + ea / 2 ^ 21 % 64, ea % 2 ^ 21)

/-- The check of a memory address: TRANS, PERM or UNCORR of the walk (R431, R430). -/
def xlCheckFC (x : Xl) (kind : AKind) : Option FC :=
  match x with
  | .noLeaf => some ⟨fcTRANS, kindNum kind, none⟩
  | .perm => some ⟨fcPERM, kindNum kind, none⟩
  | .uncorr ea => some ⟨fcUNCORR, unitDetail 1 ea, none⟩
  | _ => none

/-! ### Putting accesses under way -/

/-- A new access number, in program order. -/
def State.newAcc (s : State) : Nat × State :=
  (s.core.nextAcc, s.mc (fun c => { c with nextAcc := c.nextAcc + 1 }))

/-- Beats of one access at the local port, at the cycles given (R264). -/
def State.pushPort (s : State) (slot : Slot) (cls : Option Cls) (bs : List (Nat × PortOp)) : State :=
  let (id, s) := s.newAcc
  let last := bs.foldl (fun m p => max m p.1) s.pcyc
  s.mc (fun c => { c with
    port := c.port ++ bs.map (fun (cyc, op) => PortEntry.mk cyc id c.task cls slot op c.ctl.curPc c.ctl.btag 0),
    ctl := { c.ctl with busyPort := max c.ctl.busyPort (last + 1) } })

/-- Loads: beat j in cycle t + 1 + j. -/
def State.pushLoads (s : State) (slot : Slot) (cls : Option Cls) (ops : List PortOp) : State :=
  s.pushPort slot cls (ops.zipIdx.map (fun (op, j) => (s.pcyc + 1 + j, op)))

/-- Beats that write: each compressed tile a beat meets first delays it and the later ones by 72 cycles
(R98). -/
def Core.storeCycles (c : Core) (t : Nat) : List (List (Nat × Byte)) → Nat → Nat → List Nat →
    List (Nat × List (Nat × Byte))
  | [], _, _, _ => []
  | b :: bs, j, delay, seen =>
    let tiles := ((b.map (fun p => p.1 / 4096)).eraseDups).filter (fun x => !c.curd.plain x && !seen.contains x)
    let d := delay + 72 * tiles.length
    (t + 1 + j + d, b) :: Core.storeCycles c t bs (j + 1) d (tiles ++ seen)

/-- The cycle from which a W access of the bundle counts its beats: that of issue, or so that its first beat follows the last
of the bundle's L access (R264). -/
def State.afterL (s : State) : Nat :=
  (s.core.port.filter (fun e => decide (e.slot = .l) && decide (s.pcyc < e.cyc))).foldl (fun t e => max t (e.cyc - 1)) s.pcyc

/-- Stores through the port, one list of bytes per beat. -/
def State.pushStores (s : State) (slot : Slot) (cls : Option Cls) (side : Bool)
    (beats : List (List (Nat × Byte))) : State :=
  let t := if slot = .w then s.afterL else s.pcyc
  let l := if side then beats.zipIdx.map (fun (b, j) => (t + 1 + j, b)) else s.core.storeCycles t beats 0 0 []
  s.pushPort slot cls (l.map (fun (cyc, b) => (cyc, PortOp.st side b)))

/-- An access that performs later at its home. -/
def State.pushAcc (s : State) (slot : Slot) (cls : Cls) (tgt : Target) (rap : Bool) (kind : AKind)
    (op : AccOp) : Nat × State :=
  let (id, s) := s.newAcc
  (id, s.mc (fun c => { c with pend := c.pend ++ [{
    id := id, cls := cls, slot := slot, tgt := tgt, op := op, kind := kind, pc := c.ctl.curPc,
    btag := c.ctl.btag, sent := false, born := s.ns, rap := rap, task := c.task, sec := c.sys.sec, po := id }] }))

/-- The target of a translated address; a moving page is walked again (R91). -/
def xlTarget (x : Xl) (va : Nat) (r : XlatRegs) : Target :=
  match x with
  | .ok pa g _ _ => .dpa pa g
  | _ => .va va r

def xlRap : Xl → Bool
  | .ok _ _ ap rap => decide (ap = 1) && rap
  | _ => false

/-- Whether a translated target is a device register (R268). -/
def xlRegister : Xl → Bool
  | .ok pa _ _ _ => decide (dieCode pa = 14)
  | _ => false

/-- A free tracker entry (R265). -/
def Core.freeTrack (c : Core) : Option (BitVec 4) :=
  ((List.range 16).find? (fun i => decide (c.track.getD i none = none))).map (BitVec.ofNat 4)

/-- Take a tracker entry for a destination named now. -/
def State.takeTrack (s : State) (n : BitVec 4) (d : SReg) (opc : BitVec 4) (cls : Cls) (lat : BitVec 8) : State :=
  s.mc (fun c => { c with track := c.track.set n.toNat (some {
    reg := if d = 0 then 0 else rotS c.sys d, opc := opc, cls := cls, due := s.pcyc + lat.toNat, late := false,
    reply := none, detail := 0, drop := false, cons := false, pc := c.ctl.curPc, btag := c.ctl.btag }) n.isLt })

/-- Issue stops after this bundle for a load's reply (R268). -/
def State.waitLoad (s : State) (id : Nat) : State :=
  s.mc (fun c => { c with ldwReply := none, ctl := { c.ctl with wait := some (.ldw id) } })

/-! ### Issue of L and W operations -/

/-- An operation on a memory address: a target that R81 does not give its die stops the model; an
uncorrectable entry raises the walker's machine check; the rest is `issue`. -/
def memIssue (slot : Slot) (g : PReg) (srcs : List Mark) (scal : Option FC) (va : Nat) (kind : AKind)
    (eff : Xl → State → State) (s : State) : Host.Outcome State Fault Refusal :=
  let x := s.translate s.core.sys.xlat va kind
  let here := scal.isNone && s.checksHere g srcs
  let go := issue slot g srcs none (fcFirst [scal, xlCheckFC x kind]) id (eff x)
  match (if here then some x else none) with
  | some .hole => .fault .noSuchMemory
  | some (.uncorr ea) => go ((s.walked s.core.sys.xlat va).unitCheck 1 ea)
  | some _ => go (s.walked s.core.sys.xlat va)
  | none => go s

/-- Sources of an address. -/
def State.srcA (s : State) (a : SReg) (more : List Mark) : List Mark := s.srcS [a] ++ more

def execLds (g : PReg) (cl : Cls) (d a : SReg) (sz : MSize) (sx : Bool) (side : Bool) (disp : BitVec 32)
    (s : State) : Host.Outcome State Fault Refusal :=
  let n := sizeN sz
  let ea := s.ea a disp
  issue .l g (s.srcS [a]) none
    (fcFirst [s.noReplay, misaligned ea n, if side then s.outSide ea n else s.outSpad ea n]) id
    (fun s => s.pushLoads .l (some cl) [.ld (if d = 0 then 0 else rotS s.core.sys d) n sx side ea]) s

/-- LDW's effect once its target is known. -/
def State.loadWait (s : State) (cl : Cls) (d : SReg) (n : Nat) (sx : Bool) (tgt : Target) : State :=
  let (id, s) := s.pushAcc .l cl tgt false .rd (.ldWait (if d = 0 then 0 else rotS s.core.sys d) n sx)
  s.waitLoad id

/-- LDM's effect: a tracker entry and the access; a device register is waited for (R265, R268). -/
def State.loadTracked (s : State) (cl : Cls) (d : SReg) (n : Nat) (sx : Bool) (lat : BitVec 8)
    (tgt : Target) : State :=
  match s.core.freeTrack with
  | none => s
  | some t => ((s.takeTrack t d 2 cl lat).pushAcc .l cl tgt false .rd (.ldTrack t n sx)).2

def execLdm (g : PReg) (cl : Cls) (d a : SReg) (sz : MSize) (sx : Bool) (clus : Bool) (disp : BitVec 24)
    (lat : BitVec 8) (s : State) : Host.Outcome State Fault Refusal :=
  let n := sizeN sz
  let ea := s.ea a disp
  if clus then
    issue .l g (s.srcS [a]) none (fcFirst [s.noReplay, misaligned ea n, outCluster ea]) id
      (fun s => s.loadTracked cl d n sx lat (.cluster (s.clusterAt ea).1 (s.clusterAt ea).2)) s
  else
    memIssue .l g (s.srcS [a]) (fcFirst [s.noReplay, misaligned ea n]) ea .rd (fun x s =>
      let tgt := xlTarget x ea s.core.sys.xlat
      if xlRegister x then s.loadWait cl d n sx tgt else s.loadTracked cl d n sx lat tgt) s

def execLdw (g : PReg) (cl : Cls) (d a : SReg) (sz : MSize) (sx : Bool) (clus : Bool) (disp : BitVec 32)
    (s : State) : Host.Outcome State Fault Refusal :=
  let n := sizeN sz
  let ea := s.ea a disp
  if clus then
    issue .l g (s.srcS [a]) none (fcFirst [misaligned ea n, outCluster ea]) id
      (fun s => s.loadWait cl d n sx (.cluster (s.clusterAt ea).1 (s.clusterAt ea).2)) s
  else
    memIssue .l g (s.srcS [a]) (misaligned ea n) ea .rd
      (fun x s => s.loadWait cl d n sx (xlTarget x ea s.core.sys.xlat)) s

def execLdwRpl (g : PReg) (s : State) : Host.Outcome State Fault Refusal :=
  issue .l g [] none none id (fun s => s.mc (fun c => c.mctl (fun k => { k with wait := some .rpl }))) s

/-- The masks that LDQ reads. -/
def Core.trackMask (c : Core) (f : Track → Bool) : Nat :=
  recBits ((List.range 16).map (fun i => (i, 1, match c.track.getD i none with
    | some x => bit (f x)
    | none => 0)))

/-- What LDQ and LDQ.E answer (R268). -/
def Core.ldqValue (c : Core) (n : Option (BitVec 4)) : Word :=
  match n with
  | none => BitVec.ofNat 64 (c.trackMask (fun x => x.late && !x.drop && decide (x.reg ≠ 0)) +
      2 ^ 16 * c.trackMask (fun x => x.reply.isSome))
  | some i => match c.track[i.toNat]'(i.isLt) with
    | none => 0
    | some x => pack [(0, 6, x.reg.toNat), (8, 4, x.opc.toNat), (12, 4, x.cls.toNat),
        (16, 16, (x.reply.map (fun r => r.1.toNat)).getD 0)]

def execLdq (g : PReg) (d : SReg) (n : Option (BitVec 4)) (s : State) : Host.Outcome State Fault Refusal :=
  issue .l g [] none none id (fun s => s.landS 1 .l d (s.core.ldqValue n)) s

/-- Bytes of Trunc(Sreg(src), 8n), read at issue (R269). -/
def State.storeBytes (s : State) (src : SReg) (n : Nat) : List Byte := leBytes n (s.sreg src).toNat

def execSts (g : PReg) (cl : Cls) (src a : SReg) (sz : MSize) (sp : SpSpace) (disp : BitVec 24) (s : State) :
    Host.Outcome State Fault Refusal :=
  let n := sizeN sz
  let ea := s.ea a disp
  let range := match sp with
    | .loc => s.outSpad ea n
    | .side => s.outSide ea n
    | .cluster => outCluster ea
  issue .w g (s.srcS [a, src]) none (fcFirst [s.noReplay, misaligned ea n, range]) id
    (fun s => match sp with
      | .loc => s.pushStores .w (some cl) false [placed ea (s.storeBytes src n)]
      | .side => s.pushStores .w (some cl) true [placed ea (s.storeBytes src n)]
      | .cluster => (s.pushAcc .w cl (.cluster (s.clusterAt ea).1 (s.clusterAt ea).2) false .wr
          (.store (s.storeBytes src n))).2) s

def execStm (g : PReg) (cl : Cls) (src a : SReg) (sz : MSize) (clus : Bool) (disp : BitVec 24) (s : State) :
    Host.Outcome State Fault Refusal :=
  let n := sizeN sz
  let ea := s.ea a disp
  if clus then
    issue .w g (s.srcS [a, src]) none (fcFirst [s.noReplay, misaligned ea n, outCluster ea]) id
      (fun s => (s.pushAcc .w cl (.cluster (s.clusterAt ea).1 (s.clusterAt ea).2) false .wr
        (.store (s.storeBytes src n))).2) s
  else
    memIssue .w g (s.srcS [a, src]) (fcFirst [s.noReplay, misaligned ea n]) ea .wr (fun x s =>
      (s.pushAcc .w cl (xlTarget x ea s.core.sys.xlat) false .wr (.store (s.storeBytes src n))).2) s

/-! ### Row transfers (R270, R271) -/

def execVld (g : PReg) (cl : Cls) (d : Row) (a : SReg) (b1 : BitVec 4) (w : LaneW) (k : KReg)
    (disp : BitVec 29) (s : State) : Host.Outcome State Fault Refusal :=
  let ea := s.ea a disp
  issue .l g (s.srcA a [.k k]) none
    (fcFirst [s.noReplay, fcIf (runBad b1 d) fcOPERAND 7, misaligned ea 64,
      s.outSpad ea (512 * (b1.toNat + 1))]) id
    (fun s => s.pushLoads .l (some cl) ((List.range (b1.toNat + 1)).map (fun j =>
      .vld (rotA s.core.sys (d + BitVec.ofNat 8 j)) (laneMask (s.kreg k) (laneWN w)) (ea + 512 * j)))) s

/-- Bytes of a row that a mask enables, each at its address. -/
def maskedBytes (w : Nat) (k : Line) (v : RowVal) (a : Nat) : List (Nat × Byte) :=
  (List.range 512).filterMap (fun i =>
    if k.getLsbD (8 * i / w) then some (a + i, v.extractLsb' (8 * i) 8) else none)

def execVst (g : PReg) (cl : Cls) (src : Row) (a : SReg) (b1 : BitVec 4) (w : LaneW) (k : KReg)
    (disp : BitVec 21) (s : State) : Host.Outcome State Fault Refusal :=
  let ea := s.ea a disp
  issue .w g (s.srcA a (.k k :: s.srcRows b1 src)) none
    (fcFirst [s.noReplay, fcIf (runBad b1 src) fcOPERAND 7, misaligned ea 64,
      s.outSpad ea (512 * (b1.toNat + 1))]) id
    (fun s => s.pushStores .w (some cl) false ((List.range (b1.toNat + 1)).map (fun j =>
      maskedBytes (laneWN w) (s.kreg k) (s.arow (src + BitVec.ofNat 8 j)) (ea + 512 * j)))) s

def execVldp (g : PReg) (cl : Cls) (d : Row) (a : SReg) (sw dw : LaneW) (sx : Bool) (k : KReg)
    (disp : BitVec 29) (s : State) : Host.Outcome State Fault Refusal :=
  let ea := s.ea a disp
  let n := 4096 / laneWN dw * laneWN sw / 8
  issue .l g (s.srcA a [.k k]) none
    (fcFirst [s.noReplay, fcIf (decide (laneWN dw ≤ laneWN sw)) fcOPERAND 7, misaligned ea 64, s.outSpad ea n]) id
    (fun s => s.pushLoads .l (some cl)
      [.vldp (rotA s.core.sys d) (laneMask (s.kreg k) (laneWN dw)) (laneWN sw) (laneWN dw) sx ea]) s

/-- Enabled lanes with their addresses A_i (R271). -/
def State.gatherAt (s : State) (ea w sh : Nat) (x : Row) (k : KReg) : List (Nat × Nat) :=
  ((List.range (4096 / w)).filter (fun i => (s.kreg k).getLsbD i)).map (fun i =>
    (i, (ea + lane (s.arow x) i w * 2 ^ sh) % 2 ^ 64))

/-- Every enabled lane aligned, then in its space. -/
def State.gatherBad (s : State) (w : Nat) (l : List (Nat × Nat)) : Option FC :=
  fcFirst [fcIf (l.any (fun p => decide (p.2 % (w / 8) ≠ 0))) fcOPERAND 1,
    fcIf (l.any (fun p => (s.outSpad p.2 (w / 8)).isSome)) fcOPERAND 2]

def execVldg (g : PReg) (cl : Cls) (d : Row) (a : SReg) (w : LaneW) (sh : BitVec 2) (x : Row) (k : KReg)
    (disp : BitVec 21) (s : State) : Host.Outcome State Fault Refusal :=
  let l := s.gatherAt (s.ea a disp) (laneWN w) sh.toNat x k
  issue .l g (s.srcA a (.k k :: s.srcRows 0 x)) none (fcFirst [s.noReplay, s.gatherBad (laneWN w) l]) id
    (fun s => s.pushLoads .l (some cl) [.vldg (rotA s.core.sys d) (laneMask (s.kreg k) (laneWN w)) (laneWN w) l]) s

def execVsts (g : PReg) (cl : Cls) (src : Row) (a : SReg) (w : LaneW) (sh : BitVec 2) (x : Row) (k : KReg)
    (disp : BitVec 13) (s : State) : Host.Outcome State Fault Refusal :=
  let l := s.gatherAt (s.ea a disp) (laneWN w) sh.toNat x k
  issue .w g (s.srcA a (.k k :: (s.srcRows 0 src ++ s.srcRows 0 x))) none
    (fcFirst [s.noReplay, s.gatherBad (laneWN w) l]) id
    (fun s => s.pushStores .w (some cl) false
      [l.flatMap (fun p => placed p.2 (leBytes (laneWN w / 8) (lane (s.arow src) p.1 (laneWN w))))]) s

/-! ### Handles and PCWs (R272) -/

def execLdh (g : PReg) (cl : Cls) (h : HReg) (a : SReg) (mem : Bool) (disp : BitVec 32) (s : State) :
    Host.Outcome State Fault Refusal :=
  let ea := s.ea a disp
  if mem then
    memIssue .l g (s.srcS [a]) (fcFirst [s.noReplay, misaligned ea 32]) ea .rd (fun x s =>
      let (id, s) := s.pushAcc .l cl (xlTarget x ea s.core.sys.xlat) false .rd (.ldHandle h)
      s.waitLoad id) s
  else
    issue .l g (s.srcS [a]) none (fcFirst [s.noReplay, misaligned ea 32, s.outSpad ea 32]) id
      (fun s => s.pushLoads .l (some cl) [.ldh h ea]) s

def execSth (g : PReg) (cl : Cls) (h : HReg) (a : SReg) (mem : Bool) (disp : BitVec 24) (s : State) :
    Host.Outcome State Fault Refusal :=
  let ea := s.ea a disp
  if mem then
    memIssue .w g (s.srcA a [.h h]) (fcFirst [s.noReplay, misaligned ea 32]) ea .wr (fun x s =>
      (s.pushAcc .w cl (xlTarget x ea s.core.sys.xlat) false .wr (.store (leBytes 32 (s.hreg h).toNat))).2) s
  else
    issue .w g (s.srcA a [.h h]) none (fcFirst [s.noReplay, misaligned ea 32, s.outSpad ea 32]) id
      (fun s => s.pushStores .w (some cl) false [placed ea (leBytes 32 (s.hreg h).toNat)]) s

def execLdpcw (g : PReg) (cl : Cls) (n : BitVec 4) (a : SReg) (mem : Bool) (disp : BitVec 32) (s : State) :
    Host.Outcome State Fault Refusal :=
  let ea := s.ea a disp
  if mem then
    memIssue .l g (s.srcS [a]) (fcFirst [s.noReplay, misaligned ea 8]) ea .rd (fun x s =>
      let (id, s) := s.pushAcc .l cl (xlTarget x ea s.core.sys.xlat) false .rd (.ldPcw n)
      s.waitLoad id) s
  else
    issue .l g (s.srcS [a]) none (fcFirst [s.noReplay, misaligned ea 8, s.outSpad ea 8]) id
      (fun s => s.pushLoads .l (some cl) [.ldpcw n ea]) s

/-! ### Atomics (R273, R265) -/

/-- The tracker entry of an atomic with a destination; the phase is no longer restartable (R301). -/
def State.atomTrack (s : State) (cl : Cls) (opc : BitVec 4) (dd : SReg) (lat : BitVec 8) :
    Option (Option (BitVec 4) × State) :=
  let s := s.breakPhase
  if dd = 0 then some (none, s)
  else s.core.freeTrack.map (fun t => (some t, s.takeTrack t dd opc cl lat))

/-- fadd and bfadd2 require 4 bytes: OPERAND 7 (R460). -/
def atomWide (op : AtomOp) (eight : Bool) : Option FC :=
  fcIf (eight && (decide (op = .fadd) || decide (op = .bfadd2))) fcOPERAND 7

/-- Scalars an atomic reads: the comparand only for cas. -/
def atomSrcs (op : AtomOp) (src a dd : SReg) : List SReg := [a, src] ++ (if op = .cas then [dd] else [])

def execAts (g : PReg) (cl : Cls) (op : AtomOp) (eight : Bool) (src : SReg) (clus : Bool) (a dd : SReg)
    (lat : BitVec 8) (disp : BitVec 10) (s : State) : Host.Outcome State Fault Refusal :=
  let n := if eight then 8 else 4
  let ea := s.ea a disp
  issue .w g (s.srcS (atomSrcs op src a dd)) none
    (fcFirst [s.noReplay, atomWide op eight, misaligned ea n, if clus then outCluster ea else s.outSpad ea n]) id
    (fun s =>
      let v := s.sreg src
      let c := s.sreg dd
      match s.atomTrack cl 6 dd lat with
      | none => s
      | some (t, s) =>
        if clus then (s.pushAcc .w cl (.cluster (s.clusterAt ea).1 (s.clusterAt ea).2) false .at
          (.atomic op eight v c t)).2
        else
          let cyc := ((s.core.storeCycles s.afterL [[(ea, 0)]] 0 0 []).head?.map Prod.fst).getD (s.pcyc + 1)
          s.pushPort .w (some cl) [(cyc, .at op eight v c t ea)]) s

def execAtm (g : PReg) (cl : Cls) (op : AtomOp) (eight : Bool) (src a dd : SReg) (lat : BitVec 8)
    (disp : BitVec 10) (s : State) : Host.Outcome State Fault Refusal :=
  let n := if eight then 8 else 4
  let ea := s.ea a disp
  memIssue .w g (s.srcS (atomSrcs op src a dd))
    (fcFirst [s.noReplay, atomWide op eight, misaligned ea n]) ea .at
    (fun x s =>
      let v := s.sreg src
      let c := s.sreg dd
      match s.atomTrack cl 7 dd lat with
      | none => s
      | some (t, s) => (s.pushAcc .w cl (xlTarget x ea s.core.sys.xlat) (xlRap x) .at
          (.atomic op eight v c t)).2) s

/-! ### Multicast stores (R274, R444) -/

/-- A multicast store that its issuing node refuses. -/
def State.mcastBad (s : State) (ea n : Nat) : Option FC :=
  let x := s.group (BitVec.ofNat 12 (ea / 2 ^ 32))
  let off := ea % 2 ^ 32
  fcIf (decide (2 ^ 44 ≤ ea) || !x.v || !x.mem || decide (64 * x.wlen.toNat < off + n))
    (if x.gap then fcMCAST_GAP else fcOPERAND) (if x.gap then 0 else 11)

def execMst (g : PReg) (cl : Cls) (src a : SReg) (sz : MSize) (disp : BitVec 24) (s : State) :
    Host.Outcome State Fault Refusal :=
  let n := sizeN sz
  let ea := s.ea a disp
  issue .w g (s.srcS [a, src]) none (fcFirst [s.noReplay, misaligned ea n, s.mcastBad ea n]) id
    (fun s =>
      let grp : BitVec 12 := BitVec.ofNat 12 (ea / 2 ^ 32)
      (s.breakPhase.pushAcc .w cl (.mcast grp) false .wr
        (.mst grp (BitVec.ofNat 32 ea) (s.storeBytes src n))).2) s

end Sys2Proof.Machine
end

