-- ==== Sys2Proof/Machine/Copy.lean ====
section
/-! DEFINITION. The C slot (R275 to R287, R461) and the copy engine's events: a line or FIFO entry, the
completion of a command, the start of a CRED, a refresh window of the weight store. -/

namespace Sys2Proof.Machine

open Sys2Proof

/-! ### Issue -/

/-- Commands that the lanes have not finished: entries of the command queue (R275). A CPYA or CPYB whose last
entry is in its FIFO is finished by its lane. -/
def CopyCmd.queued (q : CopyCmd) : Bool :=
  match q.op with
  | .cpya .. | .cpyb .. => decide (q.pos < q.total)
  | _ => true

def Core.copyFull (c : Core) : Bool := decide (16 ≤ (c.eng.cq.filter CopyCmd.queued).length)

/-- A copy or matrix command outstanding (R280, R302). -/
def Core.engineBusy (c : Core) : Bool :=
  let open_ (m : Option MCmd) : Bool := m.any (fun m => match m.stage with
    | .done _ => false
    | _ => true)
  !c.eng.cq.isEmpty || open_ c.eng.act || open_ c.eng.pend

/-- A token whose count would pass 255: SCHEDULE 6 (R184, R190). -/
def State.tokFull (s : State) (t : Tok) : Option FC :=
  fcIf (decide (s.core.eng.tokens[t.toNat]'(t.isLt) = 255)) fcSCHEDULE 6

/-- The HANDLE check of R108 and R455. -/
def State.handleFC (s : State) (h : HReg) : Option FC :=
  (handleFault (s.hreg h)).map (fun c => ⟨fcHANDLE, BitVec.ofNat 16 (32 * c + h.toNat), none⟩)

/-- What a C command captures beside its operation. -/
structure CopyForm where
  cl : Cls
  t : Tok
  hd : Handle
  hs : Handle
  hr : Handle
  hc : Handle
  rm : RMode
  sat : Bool
  outer : Bool
  comp : Bool

/-- The command enters the queue: its token counts one more, CIDX advances (R190, R275, R276, R401). A CMCS takes an access
number, the place of its stores in program order (R274). -/
def State.pushCopy (s : State) (op : CopyOp) (f : CopyForm) : State :=
  if s.core.copyFull then s
  else
    let e := s.core.eng
    let one (b : BitVec 16) : Nat := if f.outer then b.toNat else 1
    let q : CopyCmd := {
      id := e.nextCmd, op := op, cls := f.cl, tok := f.t, hd := f.hd, hs := f.hs, hr := f.hr, hc := f.hc,
      rm := f.rm, sat := f.sat, comp := f.comp, oc4 := one e.oc4, oc5 := one e.oc5,
      ds4 := e.ds4, dd4 := e.dd4, ds5 := e.ds5, dd5 := e.dd5, pos := 0, xl := s.core.sys.xlat,
      bank := s.core.curd.bank, cidx := e.cidx + 1, pc := s.core.ctl.curPc, btag := s.core.ctl.btag,
      hold := (match op with
        | .cred .. => .slot
        | _ => .run), acc := s.core.nextAcc, born := s.pcyc, fl := 0 }
    let sends : Bool := match op with
      | .cmcs _ => true
      | _ => false
    let kept : Bool := match op with
      | .cpy | .chst => true
      | _ => false
    (if sends then s.newAcc.2 else s).mc (fun c => c.meng (fun e => { e with
      cq := e.cq ++ [q], nextCmd := e.nextCmd + 1, cidx := e.cidx + 1,
      hist := if kept then e.hist ++ [q] else e.hist,
      tokens := e.tokens.set f.t.toNat (e.tokens[f.t.toNat]'(f.t.isLt) + 1) f.t.isLt }))

/-- The nest registers that a command with outer levels reads (R278). -/
def outerMarks (outer : Bool) : List Mark := if outer then [.outer false, .outer true] else []

/-- Issue a C command: token, handles, then the entry's own checks (R454, R461). -/
def copyIssue (g : PReg) (t : Tok) (hs : List HReg) (srcs : List Mark) (more : List (Option FC))
    (eff : State → State) (s : State) : Host.Outcome State Fault Refusal :=
  issue .c g (srcs ++ hs.map Mark.h) (fcFirst (s.tokFull t :: hs.map s.handleFC))
    (fcFirst (s.noReplay :: more)) id eff s

def hspace (h : Handle) : Nat := hget h .space

/-- Equal FMT, LAY and extents. -/
def sameShape (a b : Handle) : Bool :=
  decide (hget a .fmt = hget b .fmt) && decide (hget a .lay = hget b .lay) && decide (hget a .ex0 = hget b .ex0) &&
    decide (hget a .ex1 = hget b .ex1) && decide (hget a .ex2 = hget b .ex2) && decide (hget a .ex3 = hget b .ex3)

def isBytes (h : Handle) : Bool := decide (hfmt h = some .bytes)

/-- A compressed tile operand: CURD in space 1 or 2. -/
def tileOk (h : Handle) : Bool := decide (hget h .curd = 1) && (decide (hspace h = 1) || decide (hspace h = 2))

/-- The OPERAND checks of CPY, CPYP and CHST, in R461's order. -/
def copyFC (hd hs : Handle) (comp : Bool) : Option FC :=
  fcFirst [
    fcIf (decide (hcount hd ≠ hcount hs)) fcOPERAND 8,
    fcIf (comp && !(sameShape hd hs && tileOk hd && tileOk hs)) fcOPERAND 8,
    fcIf (decide (hspace hd = 3)) fcOPERAND 9,
    fcIf (hscaled hd && (decide (hget hd .ex0 % hgroup hd ≠ 0) || decide (hget hd .off % hgroup hd ≠ 0)))
      fcOPERAND 8,
    fcIf (isBytes hd != isBytes hs) fcOPERAND 8]

def State.form (s : State) (cl : Cls) (t : Tok) (hd hs : HReg) : CopyForm :=
  ⟨cl, t, s.hreg hd, s.hreg hs, 0, 0, .rne, false, false, false⟩

def execCpy (g : PReg) (cl : Cls) (t : Tok) (hd hs : HReg) (rm : RMode) (sat outer comp : Bool) (s : State) :
    Host.Outcome State Fault Refusal :=
  copyIssue g t [hd, hs] (outerMarks outer) [copyFC (s.hreg hd) (s.hreg hs) comp]
    (fun s => s.pushCopy .cpy { s.form cl t hd hs with rm := rm, sat := sat, outer := outer, comp := comp }) s

def execCpyp (g : PReg) (cl : Cls) (t : Tok) (hd hs : HReg) (rm : RMode) (sat outer comp : Bool) (s : State) :
    Host.Outcome State Fault Refusal :=
  copyIssue g t [hd, hs] (outerMarks outer) [copyFC (s.hreg hd) (s.hreg hs) comp, fcIf s.core.engineBusy fcOPERAND 12]
    (fun s => s.pushCopy .cpyp { s.form cl t hd hs with rm := rm, sat := sat, outer := outer, comp := comp }) s

def execChst (g : PReg) (cl : Cls) (t : Tok) (hd hs : HReg) (rm : RMode) (sat outer comp : Bool) (s : State) :
    Host.Outcome State Fault Refusal :=
  copyIssue g t [hd, hs] (outerMarks outer) [copyFC (s.hreg hd) (s.hreg hs) comp]
    (fun s => s.pushCopy .chst { s.form cl t hd hs with rm := rm, sat := sat, outer := outer, comp := comp }) s

def execCpya (g : PReg) (cl : Cls) (t : Tok) (f : Fmt) (hs : HReg) (gs : GSize) (outer : Bool) (s : State) :
    Host.Outcome State Fault Refusal :=
  copyIssue g t [hs] (outerMarks outer) [fcIf (isBytes (s.hreg hs)) fcOPERAND 8, fcIf (decide (128 < hget (s.hreg hs) .ex0)) fcOPERAND 7]
    (fun s => s.pushCopy (.cpya f gs) { s.form cl t hs hs with outer := outer }) s

def execCpyb (g : PReg) (cl : Cls) (t : Tok) (f : Fmt) (hs : HReg) (gs : GSize) (outer : Bool) (s : State) :
    Host.Outcome State Fault Refusal :=
  copyIssue g t [hs] (outerMarks outer) [fcIf (isBytes (s.hreg hs)) fcOPERAND 8,
      fcIf (decide (128 < hget (s.hreg hs) .ex0) || decide (128 < hget (s.hreg hs) .ex1)) fcOPERAND 7]
    (fun s => s.pushCopy (.cpyb f gs) { s.form cl t hs hs with outer := outer }) s

def execCfil (g : PReg) (cl : Cls) (t : Tok) (hd : HReg) (p : SReg) (outer : Bool) (s : State) :
    Host.Outcome State Fault Refusal :=
  copyIssue g t [hd] (s.srcS [p] ++ outerMarks outer) [fcIf (decide (hspace (s.hreg hd) = 3)) fcOPERAND 9]
    (fun s => s.pushCopy (.cfil (s.sreg p)) { s.form cl t hd hd with outer := outer }) s

/-- The task of the issuer's region with an ORD (R283). -/
def State.peerTask (s : State) (ord : Word) : Option Task :=
  s.curTask.bind (fun t => s.hub.tasks.find? (fun p => decide (p.region = t.region) && decide (p.ord = ord.toNat)))

/-- The issuer must be in a together region, and the peer another task of it. -/
def State.credBad (s : State) (ord : Word) : Option FC :=
  let tog := ((s.curTask.bind s.leafOf).map Region.together).getD false
  fcIf (!tog || !(s.peerTask ord).any (fun p => decide (some p.id ≠ s.core.task))) fcOPERAND 10

def execCred (g : PReg) (cl : Cls) (t : Tok) (hd hs : HReg) (peer slot : SReg) (add : Bool) (s : State) :
    Host.Outcome State Fault Refusal :=
  copyIssue g t [hd, hs] (s.srcS [peer, slot])
    [s.credBad (s.sreg peer), fcIf (!sameShape (s.hreg hd) (s.hreg hs) || (add && isBytes (s.hreg hd))) fcOPERAND 8,
      fcIf (decide (hspace (s.hreg hd) ≠ 1) || decide (hspace (s.hreg hs) ≠ 1)) fcOPERAND 9]
    (fun s => s.breakPhase.pushCopy (.cred (s.sreg peer) (s.sreg slot) add) (s.form cl t hd hs)) s

/-- The shapes of CRES: FP32 contribution and residual, an element-major MX destination, one N8 byte a group. -/
def cresBad (hd hs hr hc : Handle) (gs : GSize) : Option FC :=
  let n := gsN gs
  let exts (h : Handle) : List Nat := [hget h .ex1, hget h .ex2, hget h .ex3]
  fcFirst [
    fcIf (!((hfmt hd).any fmtMx && !hplane hd)) fcOPERAND 8,
    fcIf (decide (hfmt hc ≠ some .n8)) fcOPERAND 8,
    fcIf (decide (hfmt hs ≠ some .fp32) || decide (hfmt hr ≠ some .fp32)) fcOPERAND 8,
    fcIf (decide (hget hd .ex0 ≠ hget hs .ex0) || decide (hget hr .ex0 ≠ hget hs .ex0) ||
      decide (hget hc .ex0 ≠ (hget hs .ex0 + n - 1) / n) || decide (exts hd ≠ exts hs) ||
      decide (exts hr ≠ exts hs) || decide (exts hc ≠ exts hs)) fcOPERAND 8,
    fcIf ([hd, hr, hc].any (fun h => decide (hspace h = 3))) fcOPERAND 9]

def execCres (g : PReg) (cl : Cls) (t : Tok) (hd hs hr hc : HReg) (gs : GSize) (s : State) :
    Host.Outcome State Fault Refusal :=
  copyIssue g t [hd, hs, hr, hc] [] [cresBad (s.hreg hd) (s.hreg hs) (s.hreg hr) (s.hreg hc) gs]
    (fun s => s.breakPhase.pushCopy (.cres gs) { s.form cl t hd hs with hr := s.hreg hr, hc := s.hreg hc }) s

def execCmcs (g : PReg) (cl : Cls) (t : Tok) (hs : HReg) (a : SReg) (s : State) :
    Host.Outcome State Fault Refusal :=
  copyIssue g t [hs] (s.srcS [a]) [s.mcastBad (s.sreg a).toNat ((hcount (s.hreg hs) * hwidth (s.hreg hs) + 7) / 8)]
    (fun s => s.breakPhase.pushCopy (.cmcs (s.sreg a)) (s.form cl t hs hs)) s

/-- Bytes of one row of a destination's storage (R286). -/
def rowStore (h : Handle) : Nat := if hplane h then 64 * hwidth h else (hget h .ex0 * hwidth h + 7) / 8

def hrows (h : Handle) : Nat := hget h .ex1 * hget h .ex2 * hget h .ex3

def cwldBad (hd hs : Handle) : Option FC :=
  fcFirst [
    fcIf (decide (hspace hd ≠ 3) || decide (2 ≤ hspace hs)) fcOPERAND 9,
    fcIf (!isBytes hs && !sameShape hd hs) fcOPERAND 8,
    fcIf (isBytes hs && decide (hcount hs ≠ hrows hd * rowStore hd)) fcOPERAND 8]

def execCwld (g : PReg) (cl : Cls) (t : Tok) (hd hs : HReg) (outer : Bool) (s : State) :
    Host.Outcome State Fault Refusal :=
  copyIssue g t [hd, hs] (outerMarks outer) [cwldBad (s.hreg hd) (s.hreg hs)]
    (fun s => s.breakPhase.pushCopy .cwld { s.form cl t hd hs with outer := outer }) s

/-- The answer's place must be 8-byte aligned, and lie in the scratchpad. -/
def State.answerBad (s : State) (a : SReg) : Option FC :=
  let ea := (s.sreg a).toNat
  fcFirst [misaligned ea 8, s.outSpad ea 8]

def execCmig (g : PReg) (cl : Cls) (t : Tok) (v a : SReg) (far : Bool) (gran : BitVec 2) (s : State) :
    Host.Outcome State Fault Refusal :=
  copyIssue g t [] (s.srcS [v, a]) [s.answerBad a]
    (fun s => s.breakPhase.pushCopy (.cmig (s.sreg v) (s.sreg a) far gran)
      ⟨cl, t, 0, 0, 0, 0, .rne, false, false, false⟩) s

def execCrly (g : PReg) (cl : Cls) (t : Tok) (v a : SReg) (gran : BitVec 2) (s : State) :
    Host.Outcome State Fault Refusal :=
  copyIssue g t [] (s.srcS [v, a]) [s.answerBad a]
    (fun s => s.breakPhase.pushCopy (.crly (s.sreg v) (s.sreg a) gran)
      ⟨cl, t, 0, 0, 0, 0, .rne, false, false, false⟩) s

/-- CNEST: the outer shadow serves commands of later bundles (R278). -/
def execCnest (g : PReg) (l5 : Bool) (c ds dd : SReg) (s : State) : Host.Outcome State Fault Refusal :=
  issue .c g (s.srcS [c, ds, dd]) none s.noReplay id
    (fun s => s.land 1 .c (.nest l5 ((s.sreg c).extractLsb' 0 16) (s.sreg ds) (s.sreg dd)) 0) s

/-! ### Stops of a command in progress (R423, R431, R432) -/

def State.modCopy (s : State) (id : Nat) (f : CopyCmd → CopyCmd) : State :=
  s.mc (fun c => c.meng (fun e => { e with cq := e.cq.map (fun q => if q.id = id then f q else q) }))

/-- A probe fault: TRANS, PERM or TARGET_RESET (R432, R438). -/
def probeCode (c : BitVec 16) : Bool :=
  decide (c = fcTRANS) || decide (c = fcPERM) || decide (c = fcTARGET_RESET)

/-- The core-local word that an error is of. -/
def Culprit.saw : Option Culprit → Option Saw
  | some (.word w) => some w
  | _ => none

/-- The machine checks of the home that detected errors in n bytes (R425, R450). -/
def State.stopCheck (s : State) (code : BitVec 16) (of_ : Option Culprit) (n : Nat) : State :=
  match of_ with
  | none | some (.word _) => s
  | some (.unit g u) => if code = fcPERM then s.refusalCheck code g u else s.hasRead (.core s.cur) g u n

/-- A line of another node or of the host is asked for, once, in the place of a command's reads in their class: a WCSLD's are
in none (R276, R325, R346). -/
def State.askOutside (s : State) (cmd : Nat) (slot : Slot) (cls : Cls) (po : Nat) (line : Nat) (host : Bool) : State :=
  let op : AccOp := .engRead cmd line host
  if s.core.pend.any (fun a => decide (a.op = op)) then s
  else
    let pa : Dpa := if host then BitVec.ofNat 53 (13 * 2 ^ 39 + line % 2 ^ 39) else BitVec.ofNat 53 line
    let (id, s) := s.pushAcc slot cls (.dpa pa 0) false .rd op
    s.mc (fun c => { c with pend := c.pend.map (fun a => if a.id = id then { a with po := po } else a) })

/-- A command cannot move its next element. -/
def State.copyStop (s : State) (q : CopyCmd) (e : Stop) : Host.Outcome State Fault Refusal :=
  match e with
  | .wait => .next s
  | .away pa => .next (s.askLine pa)
  | .ask line host => .next (s.askOutside q.id .c q.cls q.acc line host)
  | .hole => .fault .noSuchMemory
  | .fail c d of_ va =>
    let s := s.stopCheck c of_ 1
    if q.op = .cpyp && probeCode c then
      .next ((s.modCopy q.id (fun q => { q with hold := .service })).raiseService (some q.id) (q.info c d) va q.rem)
    else .next (s.takeFaults (some q.id) [{ q.info c d with saw := Culprit.saw of_ }])

/-- Lines read for a command have been used, or it is gone. -/
def Core.dropGot (c : Core) (cmd : Nat) : Core := c.meng (fun e => { e with got := e.got.filter (fun x => decide (x.cmd ≠ cmd)) })

/-- A command has moved n more elements. -/
def State.moved (s : State) (q : CopyCmd) (n : Nat) (fl : BitVec 5) : State :=
  (s.modCopy q.id (fun q => { q with pos := q.pos + n, fl := q.fl ||| fl })).mc (fun c => c.dropGot q.id)

/-! ### Order of a command's reads (R325) -/

/-- An earlier access of the command's class that a read of these places must follow. -/
def State.readHeld (s : State) (q : CopyCmd) (ps : List Place) : Bool :=
  let here := ps.any (fun p => decide (p.sp ≠ .remote) || decide (nodeOf (BitVec.ofNat 53 p.addr) = s.fab.node))
  let far (n : BitVec 10) (l : BitVec 4) : Bool := ps.any (fun p => decide (p.sp = .remote) &&
    decide (nodeOf (BitVec.ofNat 53 p.addr) = n) && decide (laneOf (BitVec.ofNat 53 p.addr) = l))
  s.core.pend.any (fun a => a.inClass q.cls && decide (a.po < q.acc) && (match s.farOf a with
    | some (n, l) => far n l
    | none => here)) ||
  (here && s.core.port.any (fun e => decide (e.cls = some q.cls) && decide (e.id < q.acc)))

/-! ### One line of a tensor copy (R276, R277, R279 to R283) -/

/-- Elements from index i of a handle to the end of its 64-byte line, group or line-row. -/
def lineRun (whole : Bool) (h : Handle) (i : Nat) : Nat :=
  let left := hget h .ex0 - i % hget h .ex0
  if whole || hplane h then left
  else
    let (i0, i1, i2, i3) := hcoord h i
    let (a, b) := elemPlace h i0 i1 i2 i3
    let w := hwidth h
    let n := max 1 ((8 * (64 - (a % 64).toNat) - b + w - 1) / w)
    let g := if hscaled h then hgroup h else 1
    min left ((n + g - 1) / g * g)

/-- An element ready to move: its value, the places of its destination's bytes, and the places read. -/
structure Ready where
  e : Elem
  dst : List Reach
  src : List Reach

/-- Whether the AP = 2 rule admits an element (R279, R280, R461). -/
def apOk (op : CopyOp) (src dst : Bool) : Bool :=
  match op with
  | .cpy | .cpyp => !src && !dst
  | .chst => src != dst
  | _ => true

/-- One element of a copy: read, then its destination's places. `core` holds a destination in space 1. -/
def State.readyElem (s : State) (q : CopyCmd) (a : CopyAt) (core : Nat) (i : Nat) : Except Stop Ready :=
  let bare := decide (q.op = .cwld)
  match s.readElem q.id q.xl s.cur false bare a.hs (hcoord a.hs i) with
  | .error e => .error e
  | .ok (e, ps) =>
    match s.targets q.xl core (hspace a.hd) (elemAddrs a.hd (hcoord a.hd i)) with
    | .error e => .error e
    | .ok rs =>
      if !apOk q.op (ps.any Reach.ap2) (rs.any Reach.ap2) then .error (.fail fcOPERAND 9 none 0)
      else if s.readHeld q (ps.map Reach.pl) then .error .wait
      else .ok ⟨e, rs, ps⟩

/-- One element that is only read. -/
def State.readOnly (s : State) (q : CopyCmd) (bare : Bool) (h : Handle) (i : Nat) : Except Stop Ready :=
  match s.readElem q.id q.xl s.cur false bare h (hcoord h i) with
  | .error e => .error e
  | .ok (e, ps) => if s.readHeld q (ps.map Reach.pl) then .error .wait else .ok ⟨e, [], ps⟩

/-- The effects of what a run has read; own shadow writes that it met used a free choice. -/
def State.ranOver (s : State) (rs : List Ready) : State := s.usedShadow.engineRead (rs.flatMap Ready.src)

/-- Elements in order until one cannot move. -/
def readyRun (f : Nat → Except Stop Ready) : List Nat → List Ready × Option Stop
  | [] => ([], none)
  | i :: is =>
    match f i with
    | .error e => ([], some e)
    | .ok r =>
      let (rs, e) := readyRun f is
      (r :: rs, e)

/-- Memory keys among places. -/
def memKeys (rs : List Reach) : List Nat :=
  rs.filterMap (fun r => if r.pl.sp = .mem then some r.pl.addr else none)

/-- The elements of a run whose writes fit the limit of unpublished lines; the first that does not is stopped (R364, R449). -/
def State.fitRun (s : State) (r : List Ready × Option Stop) : List Ready × Option Stop :=
  if !s.host.windows.toList.any Window.en then r
  else
    let k := s.fitting [] (r.1.map (fun x => memKeys x.dst))
    if k = r.1.length then r else (r.1.take k, some (.fail fcWINDOW_FULL 0 none 0))

/-- How many of the elements that can move do: whole groups, unless the run is complete. -/
def wholeGroups (h : Handle) (n got : Nat) : Nat :=
  if got = n then n else if hscaled h then got / hgroup h * hgroup h else got

/-- How many elements of a line are written: none when a later one has not arrived yet, since the line is then abandoned at a
stop; those before an error (R277). -/
def lineWrites (h : Handle) (n got : Nat) (stop : Option Stop) : Nat :=
  if stop.any Stop.waits then 0 else wholeGroups h n got

/-- The writes of a CHST to host memory perform at once (R280, R410). -/
def State.hostNow (s : State) (cmd : Nat) : State :=
  let mine (w : Shadow) : Bool := decide (w.cmd = cmd) && decide (w.pl.sp = .host)
  let l := s.core.eng.shadow.filter mine
  (s.mc (fun c => c.meng (fun e => { e with shadow := e.shadow.filter (fun w => !mine w) }))).overSpace .host l |>.1

/-- CWLD writes all four copies (R21); that of a die in reset when they are published is not written (R379). -/
def State.fourCopies (s : State) (cmd from_ : Nat) : State :=
  s.mc (fun c => c.meng (fun e => { e with shadow := e.shadow.take from_ ++ (e.shadow.drop from_).flatMap (fun w =>
    if w.cmd = cmd then (List.range 4).map (fun d => { w with pl := ⟨.wstore d, w.pl.addr⟩ }) else [w]) }))

/-- CPY, CPYP, CHST, CRED without add, and CWLD between like handles: one line. -/
def State.copyTensor (s : State) (q : CopyCmd) (core : Nat) : Host.Outcome State Fault Refusal :=
  let a := q.at q.pos
  let n := lineRun false a.hd a.q
  let (rs, stop) := s.fitRun (readyRun (s.readyElem q a core) ((List.range n).map (a.q + ·)))
  let k := lineWrites a.hd n rs.length stop
  match k, stop with
  | 0, some e => s.copyStop q e
  | 0, none => .next s
  | k, _ =>
    match hfmt a.hs, hfmt a.hd with
    | some sf, some df =>
      let rs := rs.take k
      let (e, fl) := if q.op = .cwld then (⟨df, 32, rs.map (fun r => r.e.code), [], []⟩, 0)
        else convRun sf df (hgroup a.hd) (storedPath a.hs a.hd) q.rm q.sat (rs.map Ready.e)
      let old := s.core.eng.shadow.length
      let s := (s.ranOver rs).writeRun q.id q.xl core q.bank (q.op ≠ .cwld) a.hd a.q e (rs.map Ready.dst)
      let s := if q.op = .chst then s.hostNow q.id else if q.op = .cwld then s.fourCopies q.id old else s
      .next (s.moved q k fl)
    | _, _ => .next s

/-- CRED with add: one line of groups at the peer (R283). -/
def State.credAdd (s : State) (q : CopyCmd) (core : Nat) : Host.Outcome State Fault Refusal :=
  let a := q.at q.pos
  let n := lineRun false a.hd a.q
  let (rs, stop) := readyRun (s.readyElem q a core) ((List.range n).map (a.q + ·))
  let (ds, dstop) := readyRun (fun i => match s.readElem q.id q.xl core true false a.hd (hcoord a.hd i) with
    | .error e => .error e
    | .ok (e, ps) => .ok ⟨e, [], ps⟩) ((List.range rs.length).map (a.q + ·))
  let stop := match dstop with
    | some e => some e
    | none => stop
  let k := lineWrites a.hd n ds.length stop
  match k, stop with
  | 0, some e => s.copyStop q e
  | 0, none => .next s
  | k, _ =>
    match hfmt a.hs, hfmt a.hd with
    | some sf, some df =>
      let ys := ((rs.take k).zip ds).map (fun (r, d) =>
        -- the sum is rounded to FP32 and then stored, for integers by wrapping
        let (v, f1) := addVal .rne (d.e.val df) (r.e.val sf)
        let (c, f2) := fp32F.round .rne v
        (fp32F.decode c, f1 ||| f2))
      let (e, fl) := encodeElems df (hgroup a.hd) (fmtInt df).isSome .rne false (ys.map Prod.fst)
      let s := (s.ranOver (rs ++ ds)).writeRun q.id q.xl core q.bank true a.hd a.q e
        ((rs.take k).map Ready.dst)
      .next (s.moved q k (fl ||| joinFlags (ys.map Prod.snd)))
    | _, _ => .next s

/-- CFIL: one line of one code, with its scales (R282). -/
def State.fillLine (s : State) (q : CopyCmd) (p : Word) : Host.Outcome State Fault Refusal :=
  let a := q.at q.pos
  let n := lineRun false a.hd a.q
  let e : Elem := ⟨p.toNat % 2 ^ hwidth a.hd, (p.extractLsb' 56 8).toNat, 0⟩
  let (rs, stop) := s.fitRun (readyRun (fun i => match s.targets q.xl s.cur (hspace a.hd) (elemAddrs a.hd (hcoord a.hd i)) with
    | .error x => .error x
    | .ok r => .ok ⟨e, r, []⟩) ((List.range n).map (a.q + ·)))
  match (if stop.any Stop.waits then 0 else rs.length), stop with
  | 0, some x => s.copyStop q x
  | 0, none => .next s
  | k, _ =>
    match hfmt a.hd with
    | none => .next s
    | some f =>
      let g := groupLen f (hgroup a.hd)
      let heads := (List.range k).filter (fun i => decide (i = 0) ||
        decide ((hget a.hd .off + (hcoord a.hd (a.q + i)).1) % g = 0))
      let s := if hscaled a.hd then s.addShadow (heads.flatMap (fun i => scaleShadow q.id (a.q + i) s.cur a.hd
        (hcoord a.hd (a.q + i)) e.sc (List.replicate 8 0))) else s
      let s := s.writeRun q.id q.xl s.cur q.bank true a.hd a.q ⟨f, hgroup a.hd, rs.map (fun r => r.e.code), [], []⟩
        (rs.map Ready.dst)
      .next (s.moved q k 0)

/-- A tile as a compressed move takes it (R279): its header entry and its stored bytes, of LEN units from START. -/
def Core.takeTile (c : Core) (t : Nat) : BitVec 32 × List Byte :=
  if c.curd.plain t then (hdrEntry true false 128 t, (List.range 4096).map (fun i => c.spad.get (4096 * t + i)))
  else
    let (a, n) := c.curd.stored t
    (c.curd.entry t, (List.range n).map (fun i => c.spad.get (a + i)))

/-- The shadow writes that move one tile of core `x.1` to a tile of core `y.1`: its stored bytes and header entry, and what
they expand to, for the task's own reads. A tile that the task's own unpublished commands have written moves as they
will store it. -/
def State.moveTile (s : State) (q : CopyCmd) (x y : Nat × Nat) : List Shadow :=
  let own := s.core.eng.shadow.filter (fun w => decide (w.pl.sp = .spad x.1) && decide (w.pl.addr / 4096 = x.2))
  let seen := (List.range 4096).map (fun i => s.seeByte q.id false 0 ⟨.spad x.1, 4096 * x.2 + i⟩)
  let put (tile : TileWrite) (bs : List Byte) : List Shadow :=
    bs.zipIdx.map (fun (b, i) => shadowOf q.id q.pos ⟨.spad y.1, 4096 * y.2 + i⟩ b 0xFF tile 0)
  let moved (e : BitVec 32) (bs : List Byte) : List Shadow := put (.stored e) bs ++ put .view seen
  match own.getLast? with
  | none => moved ((s.getCore x.1).takeTile x.2).1 ((s.getCore x.1).takeTile x.2).2
  | some w => match w.tile with
    | .curd bank dict => put (.curd bank dict) seen
    | .plain => moved (hdrEntry true false 128 x.2) seen
    | .stored _ | .view =>
      let st := own.filter (fun v => decide (v.cmd = w.cmd) && decide (v.tile ≠ .view))
      match st.head?.map Shadow.tile with
      | some (.stored e) => moved e ((st.map Shadow.v).take (32 * (e.extractLsb' 16 8).toNat))
      | _ => put (s.curdFor q.id q.bank ⟨.spad y.1, 4096 * y.2⟩) seen

/-- A compressed move: the tiles of one destination row (R279). -/
def State.tileMove (s : State) (q : CopyCmd) : Host.Outcome State Fault Refusal :=
  let a := q.at q.pos
  let n := lineRun true a.hd a.q
  let (rs, stop) := readyRun (s.readyElem q a s.cur) ((List.range n).map (a.q + ·))
  match stop with
  | some e => s.copyStop q e
  | none =>
    let pairs := (((rs.flatMap Ready.src).zip (rs.flatMap Ready.dst)).filterMap (fun (x, y) =>
      match x.pl.sp, y.pl.sp with
      | .spad sn, .spad dn => some ((sn, x.pl.addr / 4096), (dn, y.pl.addr / 4096))
      | _, _ => none)).eraseDups
    .next (((s.ranOver rs).addShadow (pairs.flatMap (fun (x, y) => s.moveTile q x y))).moved q n 0)

/-! ### CRES, CMCS, CWLD of bytes, CMIG and CRLY -/

/-- CRES: one group (R284). -/
def State.cresGroup (s : State) (q : CopyCmd) (gs : GSize) : Host.Outcome State Fault Refusal :=
  let a := q.at q.pos
  let (i0, i1, i2, i3) := hcoord q.hs a.q
  let n := min (gsN gs) (hget q.hs .ex0 - i0)
  let sp (h : Handle) (c : Coord) := s.targets q.xl s.cur (hspace h) (elemAddrs h c)
  let one (i : Nat) : Except Stop (Elem × Elem × List Reach × List Reach × List Reach) :=
    let c : Coord := (i0 + i, i1, i2, i3)
    match s.readElem q.id q.xl s.cur false false q.hs c, s.readElem q.id q.xl s.cur true false q.hr c, sp q.hd c, sp q.hr c with
    | .ok (x, ps), .ok (r, ps'), .ok td, .ok tr =>
      if s.readHeld q ((ps ++ ps').map Reach.pl) then .error .wait else .ok (x, r, td, tr, ps ++ ps')
    | .error e, _, _, _ | _, .error e, _, _ | _, _, .error e, _ | _, _, _, .error e => .error e
  let got := (List.range n).map one
  let full (tc : List Reach) : Bool := s.host.windows.toList.any Window.en &&
    decide (s.fitting [] [memKeys (tc ++ got.flatMap (fun x => match x with
      | .ok (_, _, td, tr, _) => td ++ tr
      | .error _ => []))] = 0)
  let scales : Except Stop (List Reach) := match sp q.hc (i0 / gsN gs, i1, i2, i3) with
    | .ok tc => if full tc then .error (.fail fcWINDOW_FULL 0 none 0) else .ok tc
    | .error e => .error e
  match got.findSome? (fun x => match x with
      | .error e => some e
      | .ok _ => none), scales with
  | some e, _ => s.copyStop q e
  | none, .error e => s.copyStop q e
  | none, .ok tc =>
    let got := got.filterMap (fun x => match x with
      | .ok y => some y
      | .error _ => none)
    match hfmt q.hd with
    | none => .next s
    | some f =>
      let ys := got.map (fun (x, r, _, _, _) =>
        let (v, f1) := addVal .rne (x.val .fp32) (r.val .fp32)
        let (c, f2) := fp32F.round .rne v
        (fp32F.decode c, f1 ||| f2))
      let qg := quantMx f (ys.map Prod.fst)
      let rs := (ys.zip qg.codes).map (fun (y, c) =>
        if qg.sc = 0xFF then (0, 0)
        else
          let d := decodeScaled f c qg.sc 0
          let (v, f1) := addVal .rne y.1 d.negate
          let (c, f2) := fp32F.round .rne v
          (c, f1 ||| f2))
      let w := (got.zip (qg.codes.zip rs)).zipIdx.flatMap (fun (((_, _, td, tr, _), c, r), i) =>
        elemShadow q.id (q.pos + i) (s.tileOf q.id q.hd q.bank) q.hd (i0 + i) c td ++
          elemShadow q.id (q.pos + i) (s.tileOf q.id q.hr q.bank) q.hr (i0 + i) r.1 tr)
      let sc := elemShadow q.id q.pos (s.tileOf q.id q.hc q.bank) q.hc (i0 / gsN gs) qg.sc tc
      let s := (s.usedShadow.engineRead (got.flatMap (fun x => x.2.2.2.2))).addShadow (w ++ sc)
      let s := if hplane q.hr then s.addShadow (s.maskShadow q.id q.pos s.cur q.xl q.hr i1 i2 i3) else s
      let s := if hplane q.hc then s.addShadow (s.maskShadow q.id q.pos s.cur q.xl q.hc i1 i2 i3) else s
      .next (s.moved q n (joinFlags (ys.map Prod.snd) ||| qg.fl ||| joinFlags (rs.map Prod.snd)))

/-- CMCS: one multicast store, up to the end of a 64-byte run of the window (R285). -/
def State.cmcsStore (s : State) (q : CopyCmd) (w : Word) : Host.Outcome State Fault Refusal :=
  let off := (w.extractLsb' 0 32).toNat
  let n := min (q.total - q.pos) (64 - (off + q.pos) % 64)
  let wd := hwidth q.hs
  let lo := 8 * q.pos / wd
  let hi := min (hcount q.hs) ((8 * (q.pos + n) + wd - 1) / wd)
  let (rs, stop) := readyRun (s.readOnly q true q.hs) ((List.range (hi - lo)).map (lo + ·))
  match stop with
  | some e => s.copyStop q e
  | none =>
    let v := packList wd (rs.map (fun r => r.e.code))
    let bs := leBytes n (v >>> (8 * q.pos - lo * wd))
    let g : BitVec 12 := BitVec.ofNat 12 (w.toNat / 2 ^ 32)
    let s := ((s.ranOver rs).pushAcc .c q.cls (.mcast g) false .wr
      (.mst g (BitVec.ofNat 32 (off + q.pos)) bs)).2
    let s := s.mc (fun c => { c with pend := c.pend.map (fun a =>
      if a.id + 1 = c.nextAcc then { a with po := q.acc, pc := q.pc, btag := q.btag } else a) })
    .next (s.moved q n 0)

/-- CWLD from bytes: storage of the destination filled in order (R286). -/
def State.cwldBytes (s : State) (q : CopyCmd) : Host.Outcome State Fault Refusal :=
  let a := q.at q.pos
  let rb := rowStore a.hd
  let j := a.q % rb
  let (_, i1, i2, i3) := hcoord a.hd (a.q / rb * hget a.hd .ex0)
  let base : Int := if hplane a.hd then (planePlace a.hd 0 0 i1 i2 i3).1 else (elemPlace a.hd 0 i1 i2 i3).1
  let n := min (rb - j) (64 - ((base + (j : Nat)) % 64).toNat)
  let (rs, stop) := readyRun (fun i =>
    match s.readElem q.id q.xl s.cur false true a.hs (hcoord a.hs (a.q + i)),
        s.targets q.xl s.cur 3 [base + (j : Nat) + (i : Nat)] with
    | .error e, _ => .error e
    | _, .error e => .error e
    | .ok (e, ps), .ok t => if s.readHeld q (ps.map Reach.pl) then .error .wait else .ok ⟨e, t, ps⟩) (List.range n)
  match (if stop.any Stop.waits then 0 else rs.length), stop with
  | 0, some e => s.copyStop q e
  | 0, none => .next s
  | k, _ =>
    let old := s.core.eng.shadow.length
    let s := (s.ranOver rs).addShadow (rs.zipIdx.flatMap (fun (r, i) =>
      r.dst.map (fun t => byteShadow q.id (a.q + i) t.pl (BitVec.ofNat 8 r.e.code))))
    .next ((s.fourCopies q.id old).moved q k 0)

/-- CMIG and CRLY: the request leaves for the migration engines (R287). -/
def State.migAsk (s : State) (q : CopyCmd) (va : Word) (far relay : Bool) (g : BitVec 2) : State :=
  let s := s.modCopy q.id (fun q => { q with hold := .migrating })
  s.mhub (fun h => { h with migq := h.migq ++ [{
    who := .cmd s.cur q.id, ptroot := q.xl.ptroot, va := va.toNat, far := far, gran := g, relay := relay,
    asid := q.xl.asid, inHeap := inHeap q.xl va.toNat, quota := (s.curForce.map Force.quota).getD 0 }] })

/-! ### FIFO entries (R148, R149, R281) -/

/-- Elements of one FIFO row, read whole: the first error stops the entry. -/
def State.readAll (s : State) (q : CopyCmd) (h : Handle) (is : List Nat) : Except Stop (List Ready) :=
  let (rs, stop) := readyRun (s.readOnly q false h) is
  match stop with
  | some e => .error e
  | none => .ok rs

/-- One row of K elements in the target format: codes, and each element's scale and μ bit. Groups lie along K from 0; where
K is no multiple of the group, the last, short group is quantised as it stands, and a lone last PX element has no μ: a
DESIGN CHOICE, as the manual gives whole groups only (R126). -/
def fifoRow (sf f : Fmt) (g : Nat) (es : List Elem) : List Elem × BitVec 5 :=
  if sf = f then (es, 0)
  else
    let (e, fl) := encodeElems f g (fmtInt sf).isSome .rne false (es.map (Elem.val sf))
    (e.codes.zipIdx.map (fun (c, i) => ⟨c, e.scaleAt i, e.muAt i⟩), fl)

/-- Bits per element in the B stream (R145). -/
def streamBits (f : Fmt) : Nat := sigWidth f + 1

def blockSize (f : Fmt) (k n : Nat) : Nat := (k * n * streamBits f + 2047) / 2048

/-- One A entry. -/
def State.fillA (s : State) (q : CopyCmd) (f : Fmt) (gs : GSize) : Host.Outcome State Fault Refusal :=
  let a := q.at q.pos
  let k := hget a.hs .ex0
  if 128 ≤ s.core.eng.afifo.length then .next s
  else
    match s.readAll q a.hs ((List.range k).map (a.q + ·)), hfmt a.hs with
    | .error e, _ => s.copyStop q e
    | _, none => .next s
    | .ok es, some sf =>
      let (r, fl) := fifoRow sf f (gsN gs) (es.map Ready.e)
      let row : ARow := ⟨r.map Elem.code, r.map Elem.sc, r.map Elem.mu, q.id, q.pos, false⟩
      let s := (s.ranOver es).mc (fun c => c.meng (fun e => { e with afifo := e.afifo ++ [row] }))
      .next (s.moved q k fl)

/-- One weight block. -/
def State.fillB (s : State) (q : CopyCmd) (f : Fmt) (gs : GSize) : Host.Outcome State Fault Refusal :=
  let a := q.at q.pos
  let k := hget a.hs .ex0
  let n := hget a.hs .ex1
  let size := blockSize f k n
  if 128 < (s.core.eng.bfifo.map Block.size).sum + size then .next s
  else
    match s.readAll q a.hs ((List.range (k * n)).map (a.q + ·)), hfmt a.hs with
    | .error e, _ => s.copyStop q e
    | _, none => .next s
    | .ok es, some sf =>
      let rows := (List.range n).map (fun i => fifoRow sf f (gsN gs) (((es.map Ready.e).drop (k * i)).take k))
      let r := (rows.map Prod.fst).flatten
      let b : Block := ⟨k, n, size, r.map Elem.code, r.map Elem.sc, r.map Elem.mu, some q.id, q.pos, false⟩
      let s := (s.ranOver es).mc (fun c => c.meng (fun e => { e with bfifo := e.bfifo ++ [b] }))
      .next (s.moved q (k * n) (joinFlags (rows.map Prod.snd)))

/-! ### Events of the copy engine -/

/-- The command that a lane runs (R275). -/
def Core.laneHead (c : Core) (l : CLane) : Option CopyCmd :=
  (c.eng.cq.filter (fun q => q.queued && (match q.op, l with
    | .cpya .., .a => true
    | .cpyb .., .b => true
    | .cpya .., _ | .cpyb .., _ => false
    | _, .general => true
    | _, _ => false))).head?

/-- The core on which a CRED's peer runs. -/
def State.peerCore (s : State) (ord : Word) : Nat := ((s.peerTask ord).map Task.core).getD s.cur

/-- COPY_LINE: the lane's command moves its next line, group, tile or FIFO entry, or hands its request on. -/
def execCopyLine (l : CLane) (s : State) : Host.Outcome State Fault Refusal :=
  match (if s.core.mode = .running then s.core.laneHead l else none) with
  | none => .next s
  | some q =>
    if q.hold ≠ .run ∨ q.total ≤ q.pos then .next s
    else
      match q.op with
      | .cpy | .cpyp | .chst => if q.comp then s.tileMove q else s.copyTensor q s.cur
      | .cpya f gs => s.fillA q f gs
      | .cpyb f gs => s.fillB q f gs
      | .cfil p => s.fillLine q p
      | .cred o _ add => if add then s.credAdd q (s.peerCore o) else s.copyTensor q (s.peerCore o)
      | .cres gs => s.cresGroup q gs
      | .cmcs w => s.cmcsStore q w
      | .cwld => if isBytes q.hs then s.cwldBytes q else s.copyTensor q s.cur
      | .cmig v _ far g => .next (s.migAsk q v far false g)
      | .crly v _ g => .next (s.migAsk q v false true g)

/-- A command whose work is done, and for FIFO fills whose entries the array has used (R150, R275, R285). -/
def Core.copyDone (c : Core) (q : CopyCmd) : Bool :=
  decide (q.hold = .run) && decide (q.total ≤ q.pos) && (match q.op with
    | .cpya .. => (c.eng.afifo ++ c.eng.inArray).all (fun r => decide (r.cmd ≠ q.id))
    | .cpyb .. => (c.eng.standby :: c.eng.bfifo).all (fun b => decide (b.cmd ≠ some q.id))
    | .cmcs _ => c.pend.all (fun a => !(decide (a.slot = .c) && decide (a.po = q.acc) && a.tgt.isMcast))
    | _ => true)

/-- COPY_COMMAND_COMPLETE: the flags its conversions raised become visible and its token counts one less. -/
def execCopyCommandComplete (s : State) : Host.Outcome State Fault Refusal :=
  if s.core.mode ≠ .running then .next s
  else
    match s.core.eng.cq.find? s.core.copyDone with
    | none => .next s
    | some q => .next (s.mc (fun c => (c.landFlags s.pcyc q.fl).endCopy q))

/-- CRED_TRANSFER_START: the transfer starts in its slot's cycle, or at once when that has passed (R283). -/
def execCredTransferStart (s : State) : Host.Outcome State Fault Refusal :=
  match (if s.core.mode = .running then s.core.laneHead .general else none) with
  | none => .next s
  | some q =>
    match q.op with
    | .cred _ slot _ =>
      if q.hold = .slot ∧ slot.toNat ≤ s.pcyc then .next (s.modCopy q.id (fun q => { q with hold := .run }))
      else .next s
    | _ => .next s

/-- WEIGHT_REFRESH_WINDOW: a bank's window opens and closes by DTIME alone, which `State.refreshing` reads
(R104); nothing else changes. -/
def execWeightRefreshWindow (s : State) : Host.Outcome State Fault Refusal := .next s

end Sys2Proof.Machine
end

