-- ==== Sys2Proof/Machine/Matrix.lean ====
section
/-! DEFINITION. The M slot (R288 to R290, R463) and the matrix engine's events: the loop nest (R151 to R156),
block loads and passes (R145 to R150, R157 to R162, R170), the press (R163 to R165) and completion (R166). -/

namespace Sys2Proof.Machine

open Sys2Proof

/-! ### The fields of a command (R142, R152 to R154) -/

/-- A field of MN register i. -/
def MCmd.fld (m : MCmd) (i lo w : Nat) : Nat := fieldAt (m.mn.getD i 0) lo w
def MCmd.bit (m : MCmd) (i b : Nat) : Bool := (m.mn.getD i 0).getLsbD b

def MCmd.count (m : MCmd) (l : Nat) : Nat := m.fld l 0 16
def MCmd.astep (m : MCmd) (l : Nat) : Int := toS 9 (m.fld l 16 9)
def MCmd.k (m : MCmd) : Nat := m.fld 8 0 7 + 1
def MCmd.n (m : MCmd) : Nat := m.fld 8 8 7 + 1

/-- Levels 1 to 5 that carry an action bit of R152. -/
def MCmd.levels (m : MCmd) (b : Nat) : List Nat := ([1, 2, 3, 4, 5] : List Nat).filter (fun l => m.bit l b)

def mnLDW : Nat := 32
def mnZERO : Nat := 33
def mnACC : Nat := 34
def mnDRN : Nat := 35
def mnRCIR : Nat := 36

def MCmd.xAt (m : MCmd) (l : Nat) : Nat := m.x.getD l 0

/-- The start coordinates of MN6 and MN7 (R153). -/
def MCmd.start (m : MCmd) : Vector Nat 6 :=
  #v[m.fld 6 0 16, m.fld 6 16 16, m.fld 6 32 16, m.fld 6 48 16, m.fld 7 0 16, m.fld 7 16 16]

/-- x lies within the counts. -/
def MCmd.inside (m : MCmd) : Bool := (List.range 6).all (fun l => decide (m.xAt l < m.count l))

/-- Leaves from level L up: how many (x_L, …, x_5) there are, and the index of the present one. -/
def MCmd.span (m : MCmd) (L : Nat) : Nat := ((List.range (6 - L)).map (fun i => m.count (L + i))).foldl (· * ·) 1
def MCmd.index (m : MCmd) (L : Nat) : Nat :=
  (List.range (6 - L)).foldr (fun i acc => m.xAt (L + i) + m.count (L + i) * acc) 0

/-- Leaves not yet written. -/
def MCmd.leavesLeft (m : MCmd) : Nat := if m.inside then m.span 0 - m.index 0 else 0

/-- Rows that drains have yet to fire for, from the present leaf on. -/
def MCmd.rowsToDrain (m : MCmd) : Nat :=
  if m.inside then ((m.levels mnDRN).map (fun L => m.count 0 * (m.span L - m.index L))).sum else 0

/-- The next leaf, x0 fastest; past the last one x5 stands at its count. -/
def MCmd.next (m : MCmd) : Vector Nat 6 :=
  let rec go : Nat → Nat → Vector Nat 6 → Vector Nat 6
    | 0, _, x => x
    | fuel + 1, l, x =>
      if x.getD l 0 + 1 < m.count l ∨ l = 5 then x.setIfInBounds l (x.getD l 0 + 1)
      else go fuel (l + 1) (x.setIfInBounds l 0)
  go 6 0 m.x

/-- Entry actions of the present leaf: blocks it takes (R155). -/
def MCmd.ldws (m : MCmd) : Nat :=
  ((m.levels mnLDW).filter (fun L => (List.range L).all (fun l => decide (m.xAt l = 0)))).length

/-- Some block is still to be taken. -/
def MCmd.ldwAhead (m : MCmd) : Bool :=
  m.inside && (decide (m.taken < m.ldws) || (m.levels mnLDW).any (fun L => decide (m.index L + 1 < m.span L)))

/-- Leaves up to the next that takes a block (R157). -/
def MCmd.passLeaves (m : MCmd) : Nat :=
  match (m.levels mnLDW).head? with
  | none => m.leavesLeft
  | some L =>
    let n := ((List.range L).map m.count).foldl (· * ·) 1
    n - m.index 0 % n

/-- The accumulator row of a leaf; with x0 = i, of row i of a drain. -/
def MCmd.rowAt (m : MCmd) (x0 : Nat) : Row :=
  BitVec.ofInt 8 ((m.fld 8 44 8 : Int) + x0 * m.astep 0 +
    (([1, 2, 3, 4, 5] : List Nat).map (fun l => (m.xAt l : Int) * m.astep l)).sum)

/-- Whether the present leaf's row starts from zero. -/
def MCmd.fresh (m : MCmd) : Bool :=
  (m.levels mnZERO).any (fun L => (List.range L).all (fun l => decide (m.astep l ≠ 0) || decide (m.xAt l = 0)))

/-- Rows that the exit actions of the present leaf drain, in order. -/
def MCmd.drains (m : MCmd) : List Row :=
  ((m.levels mnDRN).filter (fun L => (List.range L).all (fun l => decide (m.xAt l + 1 = m.count l)))).flatMap
    (fun _ => (List.range (m.count 0)).map m.rowAt)

/-- The PCW of a command's leaves. -/
def MCmd.pcw (m : MCmd) : Word := if (m.levels mnRCIR).isEmpty then m.pa else m.pb

/-- COORD0 and COORD1 in the shape of R153. ENT is 0 for a leaf that has no LDW entry action, and while some of its LDW
actions are still to be done: a DESIGN CHOICE, as nothing tells the two values apart there. -/
def MCmd.coord (m : MCmd) : Nat × Nat :=
  (recBits [(0, 16, m.xAt 0), (16, 16, m.xAt 1), (32, 16, m.xAt 2), (48, 16, m.xAt 3)],
    recBits [(0, 16, m.xAt 4), (16, 16, m.xAt 5), (32, 1, if 0 < m.taken ∧ m.taken = m.ldws then 1 else 0),
      (40, 24, m.dcur)])

/-- The fault record fields of a command, at the engine (SLOT 9) or the press (SLOT 11). -/
def MCmd.info (m : MCmd) (slot : Nat) (code detail : BitVec 16) : FaultInfo :=
  let rem := if slot = 11 then (m.reads.length + m.writes.length + m.rowsToDrain) * hget m.hd .ex0
    else m.leavesLeft * m.n
  ⟨code, detail, slot, m.tok.toNat, m.coord.1, m.coord.2, rem, m.cidx, m.pc, m.btag, false, none⟩

/-! ### Precision control words (R142, R143) -/

def pcwAF (p : Word) : Nat := fieldAt p 0 5
def pcwBF (p : Word) : Nat := fieldAt p 5 5
def pcwStep (p : Word) : Nat := if p.getLsbD 10 then 2 else 1
def pcwI32 (p : Word) : Bool := p.getLsbD 28
def pcwHad (p : Word) : Bool := p.getLsbD 29
def pcwRca (p : Word) : Bool := p.getLsbD 30

/-- Formats the array takes, and those of them that are integers. -/
def arrayFmt (f : Nat) : Bool := decide (f = 1) || (decide (3 ≤ f) && decide (f ≤ 12)) || decide (f = 15)
def arrayInt (f : Nat) : Bool := decide (f = 12) || decide (f = 15)

/-- R143; MWLD requires its BF in the set even under HAD. -/
def pcwOk (load : Bool) (p : Word) : Bool :=
  let a := arrayInt (pcwAF p)
  let b := arrayInt (pcwBF p)
  decide (fieldAt p 31 33 = 0) && arrayFmt (pcwAF p) && (arrayFmt (pcwBF p) || (pcwHad p && !load)) &&
    decide (fieldAt p 26 2 ≠ 3) && (!pcwRca p || decide (pcwAF p = 1)) &&
    (if pcwHad p then !pcwI32 p || a else decide (a = b) && (!pcwI32 p || a))

/-! ### Checks at issue (R156, R163, R164, R463) -/

/-- Both slots are occupied: a command that has completed in an earlier cycle leaves its slot (R151). -/
def MCmd.over (m : MCmd) (now : Nat) : Bool :=
  match m.stage with
  | .done t => decide (t < now)
  | _ => false

def State.slotsFull (s : State) : Option FC :=
  fcIf (s.core.eng.pend.isSome && !s.core.eng.act.any (fun m => m.over s.pcyc)) fcSCHEDULE 2

/-- PA, then PB when it runs: OPERAND 4. -/
def MCmd.pcwFC (m : MCmd) : Option FC :=
  fcIf (!pcwOk false m.pa || (!(m.levels mnRCIR).isEmpty && !pcwOk false m.pb)) fcOPERAND 4

/-- R156: OPERAND 5. -/
def MCmd.formFC (m : MCmd) : Option FC :=
  let rsv (l : Nat) : Bool := decide (m.fld l 37 27 ≠ 0) || decide (m.fld l 25 7 ≠ 0)
  fcIf ((List.range 6).any rsv || [mnLDW, mnZERO, mnDRN, mnRCIR].any (m.bit 0) ||
    ([1, 2, 3, 4, 5] : List Nat).any (fun l => m.bit l mnACC) || decide (128 < m.count 0) ||
    (!(m.levels mnRCIR).isEmpty && !pcwRca m.pb) || decide (m.fld 7 33 7 ≠ 0) ||
    decide (m.fld 8 52 12 ≠ 0) || m.bit 8 35 || m.bit 8 15 || m.bit 8 7) fcOPERAND 5

/-- R164: OPERAND 6, for `rows` drained rows from DCUR on. -/
def pressFC (h : Handle) (dcur rows : Nat) : Option FC :=
  fcIf (!((decide (hget h .space = 1) || decide (hget h .space = 2)) && decide (hget h .ex0 ≤ 128) &&
    (!hscaled h || (decide (hget h .ex0 % hgroup h = 0) && decide (hget h .off % hgroup h = 0))) &&
    !isBytes h && (decide (rows = 0) || decide (dcur + rows ≤ hrows h)))) fcOPERAND 6

/-! ### Entering the slots (R151, R190) -/

/-- A command becomes active: the active weight block is zeroed, and MDRN's rows are due at the press
(R155, R165). -/
def State.activate (s : State) (m : MCmd) : State :=
  let m := { m with last := s.pcyc }
  let m := if m.kind = .drn then
      { m with stage := .drained,
               reads := (List.range (m.count 0)).map (fun i => (m.rowAt i, s.pcyc + 1 + 2 * i)) }
    else m
  s.mc (fun c => c.meng (fun e => { e with act := some m, pend := none, blk := Block.zero, blkAt := s.pcyc }))

/-- The pending command follows one that completed in an earlier cycle. -/
def State.followOn (s : State) : State :=
  match s.core.eng.act, s.core.eng.pend with
  | some a, some p => if a.over s.pcyc then s.activate p else s
  | none, some p => s.activate p
  | _, none => s

/-- The rows that a command writes from here on, and whether it reads one that neither they nor `w` hold before it reads
it (R301): leaf by leaf, with the rows that each recirculates and drains. -/
def MCmd.rowWalk : Nat → MCmd → List Row → Bool × List Row
  | 0, _, w => (false, w)
  | n + 1, m, w =>
    let r := m.rowAt (m.xAt 0)
    let acc := m.bit 0 mnACC
    let reads := if acc then (if m.fresh then [] else [r]) ++ (if pcwRca m.pcw then [r ^^^ 128] else []) else []
    let w' := if acc && !w.contains r then r :: w else w
    if reads.any (fun q => !w.contains q) || m.drains.any (fun q => !w'.contains q) then (true, w')
    else MCmd.rowWalk n { m with x := m.next } w'

/-- `MCmd.rowWalk` over a whole command of any kind. -/
def MCmd.rowUse (m : MCmd) (w : List Row) : Bool × List Row :=
  match m.kind with
  | .go | .had => MCmd.rowWalk m.leavesLeft m w
  | .drn => (((List.range (m.count 0)).map m.rowAt).any (fun q => !w.contains q), w)
  | .zero => (false, m.rows ++ w)
  | .wld | .swap => (false, w)

/-- A matrix command that reads a row which its phase will not have written by then breaks R301; the phase stops being
restartable with the issue of the command's bundle (R408). -/
def State.judgeRows (s : State) (m : MCmd) : State :=
  match s.core.phase with
  | none => s
  | some p =>
    if !p.restartable then s
    else
      let before := ([s.core.eng.act, s.core.eng.pend].filterMap id).filter (fun x => decide (p.firstCmd ≤ x.id))
      let w := before.foldl (fun w x => (x.rowUse w).2) p.written
      if (m.rowUse w).1 then s.breakPhase else s

/-- A command enters the active slot, or the pending one. -/
def State.pushMatrix (s : State) (m : MCmd) : State :=
  let s := (s.judgeRows m).followOn
  let e := s.core.eng
  let m := { m with id := e.nextCmd, cidx := e.cidx + 1 }
  let s := s.mc (fun c => c.meng (fun e => { e with
    nextCmd := e.nextCmd + 1, cidx := e.cidx + 1,
    tokens := e.tokens.set m.tok.toNat (e.tokens[m.tok.toNat]'(m.tok.isLt) + 1) m.tok.isLt }))
  match e.act with
  | none => s.activate m
  | some a =>
    if a.over s.pcyc then s.activate m else s.mc (fun c => c.meng (fun e => { e with pend := some m }))

/-- A command with what it captures, before its own fields are set. -/
def State.newMCmd (s : State) (kind : MKind) (tok : Tok) (mn : Vector Word 9) : MCmd :=
  { id := 0, kind := kind, mn := mn, pa := 0, pb := 0, hd := 0, tok := tok, x := Vector.replicate 6 0, dcur := 0,
    taken := 0, stage := .idle, toEnter := 0, enterAt := 0, inArray := [], last := 0, reads := [], writes := [], rows := [], i32 := false,
    bank := s.core.curd.bank, born := s.pcyc, xl := s.core.sys.xlat, cidx := 0, pc := s.core.ctl.curPc, btag := s.core.ctl.btag,
    fl := 0 }

def State.pcwAt (s : State) (n : BitVec 4) : Word := s.core.eng.pcw[n.toNat]'(n.isLt)

/-- The command that MGO makes of the shadow nest (R151 to R155). -/
def State.goCmd (s : State) : MCmd :=
  let m := s.newMCmd .go 0 s.core.eng.mn
  let m := { m with tok := BitVec.ofNat 4 (m.fld 8 24 4), pa := s.pcwAt (BitVec.ofNat 4 (m.fld 8 16 4)),
                    pb := s.pcwAt (BitVec.ofNat 4 (m.fld 8 20 4)), hd := s.hreg (BitVec.ofNat 5 (m.fld 8 28 5)),
                    x := m.start, dcur := m.fld 7 40 24 }
  { m with taken := if m.bit 7 32 then m.ldws else 0, i32 := pcwI32 m.pcw }

/-- MN8 of a command that is not built from the shadow nest. -/
def passWord (row0 : Row) (psh : BitVec 8) (rm : RMode) (n1 k1 : BitVec 7) : Word :=
  pack [(44, 8, row0.toNat), (36, 8, psh.toNat), (33, 2, match rm with
    | .rne => 0
    | .rz => 1
    | .rdn => 2
    | .rup => 3), (8, 7, n1.toNat), (0, 7, k1.toNat)]

def levelWord (count : Nat) (astep : Nat) (bits : List Nat) : Word :=
  pack ([(0, 16, count), (16, 9, astep)] ++ bits.map (fun b => (b, 1, 1)))

/-- MHAD's command (R289). -/
def State.hadCmd (s : State) (row0 : Row) (m1 : BitVec 7) (drn : Bool) (hd : HReg) (t : Tok) (rm : RMode)
    (psh : BitVec 8) : MCmd :=
  let one := levelWord 1 0 []
  let m := s.newMCmd .had t #v[levelWord (m1.toNat + 1) 1 [mnACC],
    levelWord 1 0 ([mnRCIR, mnZERO] ++ if drn then [mnDRN] else []), one, one, one, one, 0, 0,
    passWord row0 psh rm 127 127]
  let p : Word := pack [(0, 5, 1), (29, 1, 1), (30, 1, 1)]
  { m with pa := p, pb := p, hd := s.hreg hd }

def State.drnCmd (s : State) (row0 : Row) (c1 : BitVec 7) (hd : HReg) (t : Tok) (rm : RMode) (psh : BitVec 8)
    (i32 : Bool) : MCmd :=
  let m := s.newMCmd .drn t #v[levelWord (c1.toNat + 1) 1 [], 0, 0, 0, 0, 0, 0, 0, passWord row0 psh rm 127 127]
  { m with hd := s.hreg hd, i32 := i32 }

def State.wldCmd (s : State) (pcw : BitVec 4) (k1 n1 : BitVec 7) (t : Tok) : MCmd :=
  { s.newMCmd .wld t ((Vector.replicate 9 0).set 8 (passWord 0 0 .rne n1 k1)) with pa := s.pcwAt pcw }

def State.zeroCmd (s : State) (row0 : Row) (c1 : BitVec 8) (t : Tok) : MCmd :=
  { s.newMCmd .zero t (Vector.replicate 9 0) with
    rows := (List.range (c1.toNat + 1)).map (fun i => row0 + BitVec.ofNat 8 i) }

/-! ### The M slot (R288 to R290) -/

def execMcfg (g : PReg) (n : BitVec 4) (a : SReg) (s : State) : Host.Outcome State Fault Refusal :=
  issue .m g (s.srcS [a]) none s.noReplay id (fun s => s.land 1 .m (.mn n (s.sreg a)) 0) s

def execMpcw (g : PReg) (n : BitVec 4) (a : SReg) (s : State) : Host.Outcome State Fault Refusal :=
  issue .m g (s.srcS [a]) none s.noReplay id (fun s => s.land 1 .m (.pcw n (s.sreg a)) 0) s

/-- MGO's registers: the nest, the two PCWs it names, and HD when it drains. -/
def MCmd.srcs (m : MCmd) : List Mark :=
  (List.range 9).map Mark.mn ++ [.pcw (BitVec.ofNat 4 (m.fld 8 16 4))] ++
    (if (m.levels mnRCIR).isEmpty then [] else [.pcw (BitVec.ofNat 4 (m.fld 8 20 4))]) ++
    (if (m.levels mnDRN).isEmpty then [] else [.h (BitVec.ofNat 5 (m.fld 8 28 5))])

def execMgo (g : PReg) (s : State) : Host.Outcome State Fault Refusal :=
  let m := s.goCmd
  let drn := !(m.levels mnDRN).isEmpty
  issue .m g m.srcs
    (fcFirst [s.slotsFull, s.tokFull m.tok, if drn then s.handleFC (BitVec.ofNat 5 (m.fld 8 28 5)) else none])
    (fcFirst [s.noReplay, m.pcwFC, m.formFC, if drn then pressFC m.hd m.dcur m.rowsToDrain else none]) id
    (fun s => s.pushMatrix s.goCmd) s

def execMhad (g : PReg) (row0 : Row) (m1 : BitVec 7) (drn : Bool) (hd : HReg) (t : Tok) (rm : RMode)
    (psh : BitVec 8) (s : State) : Host.Outcome State Fault Refusal :=
  issue .m g (if drn then [.h hd] else [])
    (fcFirst [s.slotsFull, s.tokFull t, if drn then s.handleFC hd else none])
    (fcFirst [s.noReplay, if drn then pressFC (s.hreg hd) 0 (m1.toNat + 1) else none]) id
    (fun s => s.pushMatrix (s.hadCmd row0 m1 drn hd t rm psh)) s

def execMwld (g : PReg) (pcw : BitVec 4) (k1 n1 : BitVec 7) (t : Tok) (s : State) :
    Host.Outcome State Fault Refusal :=
  issue .m g [.pcw pcw] (fcFirst [s.slotsFull, s.tokFull t])
    (fcFirst [s.noReplay, fcIf (!pcwOk true (s.pcwAt pcw)) fcOPERAND 4]) id
    (fun s => s.pushMatrix (s.wldCmd pcw k1 n1 t)) s

def execMdrn (g : PReg) (row0 : Row) (c1 : BitVec 7) (hd : HReg) (t : Tok) (rm : RMode) (psh : BitVec 8)
    (i32 : Bool) (s : State) : Host.Outcome State Fault Refusal :=
  issue .m g [.h hd] (fcFirst [s.slotsFull, s.tokFull t, s.handleFC hd])
    (fcFirst [s.noReplay, pressFC (s.hreg hd) 0 (c1.toNat + 1)]) id
    (fun s => s.pushMatrix (s.drnCmd row0 c1 hd t rm psh i32)) s

def execMzero (g : PReg) (row0 : Row) (c1 : BitVec 8) (t : Tok) (s : State) : Host.Outcome State Fault Refusal :=
  issue .m g [] (fcFirst [s.slotsFull, s.tokFull t]) s.noReplay id
    (fun s => s.pushMatrix (s.zeroCmd row0 c1 t)) s

def execMswap (g : PReg) (t : Tok) (s : State) : Host.Outcome State Fault Refusal :=
  issue .m g [] (fcFirst [s.slotsFull, s.tokFull t]) s.noReplay id
    (fun s => s.pushMatrix (s.newMCmd .swap t (Vector.replicate 9 0))) s

/-- An occupied slot, as MSTAT shows it. -/
def MCmd.open_ (m : MCmd) : Bool :=
  match m.stage with
  | .done _ => false
  | _ => true

/-- The 32 bytes of MSTAT. -/
def Core.mstatBytes (c : Core) : List Byte :=
  let e := c.eng
  let act := e.act.filter MCmd.open_
  let x := (act.map MCmd.coord).getD (0, 0)
  leBytes 8 (recBits [(0, 1, bit act.isSome), (1, 1, bit e.pend.isSome), (2, 1, bit e.standbyLoaded)]) ++
    leBytes 8 x.1 ++ leBytes 8 x.2 ++ leBytes 8 0

def execMstat (g : PReg) (a : SReg) (s : State) : Host.Outcome State Fault Refusal :=
  let ea := (s.sreg a).toNat
  issue .m g (s.srcS [a]) none (fcFirst [s.noReplay, misaligned ea 32, s.outSpad ea 32]) id
    (fun s => s.pushStores .m none false [placed ea s.core.mstatBytes]) s

/-! ### Weights as a pass takes them (R145 to R147, R149, R161) -/

/-- The significand of a weight code; of an infinity or NaN, the hidden bit and its mantissa. -/
def sigBits (f : Fmt) (c mu : Nat) : Nat :=
  match sigOf f c mu with
  | some (_, m, _, _) => m
  | none => 2 ^ (sigWidth f - 1) + c % 2 ^ (sigWidth f - 1)

/-- base(g) for a scale or E code (R146). -/
def stepBase (f : Fmt) (sc : Nat) : Option Int :=
  if sc = 0xFF then none
  else if fmtPx f then some ((sc : Int) - 127)
  else if f = .mxint8 then some ((sc : Int) - 126)
  else if fmtMx f then some ((sc : Int) - 127 + emaxOf f)
  else none

/-- Keep(t, g). -/
def keepStep (p : Word) (f : Fmt) (sc t : Nat) : Bool :=
  let w := pcwStep p
  let cut := fieldAt p 11 4
  decide (t < (sigWidth f + w - 1) / w) && (decide (cut = 0) || decide (t < cut)) &&
    !(p.getLsbD 24 && (match stepBase f sc with
      | some b => decide (b - (w * t : Nat) < toS 9 (fieldAt p 15 9))
      | none => false))

/-- The elements of a block: code, scale and μ; an all-zero block has one zero to stand for them. -/
def Block.elems (b : Block) : List (Nat × Nat × Nat) :=
  if b.codes.isEmpty then [(0, 0, 0)] else b.codes.zip (b.scales.zip b.mus)

/-- Peff (R147, R161). -/
def planeSteps (p : Word) (b : Block) : Nat :=
  match pcwHad p, fmtOf (pcwBF p) with
  | true, _ | _, none => 1
  | false, some f =>
    let w := pcwStep p
    let runs (t : Nat) : Bool := b.elems.any (fun (c, sc, mu) => keepStep p f sc t &&
      (!p.getLsbD 25 || (List.range (min (w * t + w) (sigWidth f) - w * t)).any (fun i =>
        (sigBits f c mu).testBit (sigWidth f - 1 - (w * t + i)))))
    (List.range ((sigWidth f + w - 1) / w)).countP runs

/-- The weight at cell (k, n), truncated to the bits the pass processes. A block streamed in another format than the PCW's BF
is read again, codes and scales, in BF: a DESIGN CHOICE, as the manual does not say what such a pass computes (R149). -/
def weightAt (p : Word) (b : Block) (k n : Nat) : Val :=
  if pcwHad p then .fin (decide (popcGo 7 (k &&& n) % 2 = 1)) 1 0
  else
    match fmtOf (pcwBF p), (if k < b.k ∧ n < b.n then b.codes[n * b.k + k]? else none) with
    | some f, some c =>
      let sc := b.scales.getD (n * b.k + k) 0
      let v := truncW f c (b.mus.getD (n * b.k + k) 0) (fun j => keepStep p f sc (j / pcwStep p))
      if fmtMx f || fmtPx f then (if sc = 0xFF then .nan else v.scale ((sc : Int) - 127)) else v
    | _, _ => .fin false 0 0

/-- The width of a K-group (R131). PCW.GS plays no part here beyond its legality: every element keeps the scale it was
streamed with, a DESIGN CHOICE where GS differs from the group size of the stream (R142). -/
def kGroup (p : Word) : Nat :=
  let px (f : Nat) : Bool := (fmtOf f).any fmtPx
  if px (pcwAF p) || (!pcwHad p && px (pcwBF p)) then 16 else 32

/-- An activation row as values (R148). Elements k < K beyond those its CPYA supplied are zero, and a row streamed in another
format than the PCW's AF is read again in AF: DESIGN CHOICES, as the manual gives neither. -/
def ARow.vals (r : ARow) (f : Fmt) (k : Nat) : List Val :=
  (List.range k).map (fun i => decodeScaled f (r.codes.getD i 0) (r.scales.getD i 0) (r.mus.getD i 0))

/-- An accumulator row recirculated: lanes rounded to BF16, with the flags of the rounding (R130, R162). -/
def recircVals (v : RowVal) (k : Nat) : List Val × BitVec 5 :=
  let ls := (List.range k).map (fun i => bf16F.round .rne (fp32F.decode (lane v i 32)))
  (ls.map (fun x => bf16F.decode x.1), joinFlags (ls.map Prod.snd))

/-- One lane of a leaf: the K-groups in ascending order (R132, R134, R155). -/
def laneSum (p : Word) (as bs : List Val) (c : Nat) : Nat × BitVec 5 :=
  ((groupsOf (kGroup p) (as.length + 1) (as.zip bs)).foldl (fun (c, fl) q =>
    let (v, f1) := groupSum (q.map Prod.fst) (q.map Prod.snd) (some 0) (some 0)
    let (c, f2) := accumulate (pcwI32 p) c v
    (c, fl ||| f1 ||| f2)) (c, 0))

/-- The N lanes of a leaf's row. -/
def leafLanes (p : Word) (b : Block) (as : List Val) (old : RowVal) (fresh : Bool) (n : Nat) :
    List (Nat × BitVec 5) :=
  (List.range n).map (fun j => laneSum p as ((List.range as.length).map (fun k => weightAt p b k j))
    (if fresh then 0 else lane old j 32))

/-! ### Passes (R155, R157, R158, R160, R170) -/

def State.modAct (s : State) (f : MCmd → MCmd) : State :=
  s.mc (fun c => c.meng (fun e => { e with act := e.act.map f }))

/-- A fault of the active command, and the core-local word it consumed. -/
def State.matrixFault (s : State) (m : MCmd) (slot : Nat) (code detail : BitVec 16) (saw : Option Saw := none) : State :=
  s.takeFaults (some m.id) [{ m.info slot code detail with saw := saw }]

/-- The press reads of a drain, after every read already due. -/
def drainReads (m : MCmd) (from_ : Nat) : List (Row × Nat) :=
  let t0 := m.reads.foldl (fun t r => max t (r.2 + 2)) from_
  m.reads ++ m.drains.zipIdx.map (fun (r, i) => (r, t0 + 2 * i))

/-- The present leaf is done in cycle c: its drains fire and the next leaf follows. -/
def MCmd.leafDone (m : MCmd) (c : Nat) : MCmd :=
  { m with reads := drainReads m (c + 1), x := m.next, taken := 0 }

/-- The next block becomes active (R155, R159). -/
def State.takeBlock (s : State) : State :=
  (s.mc (fun c => c.meng (fun e => { e with
    blk := e.standby, standby := { e.standby with cmd := none }, standbyLoaded := false, blkAt := s.pcyc }))).modAct
    (fun m => { m with taken := m.taken + 1 })

/-- The word of a row of the accumulator that holds an uncorrectable error. -/
def Core.rowBad (c : Core) (q : Row) : Option Saw := (c.markRead (.row q 0)).map (fun m => ⟨none, m.addr⟩)

/-- The present leaf moved on by n leaves. -/
def MCmd.ahead (m : MCmd) : Nat → MCmd
  | 0 => m
  | n + 1 => MCmd.ahead { m with x := m.next } n

/-- The next activation row enters the array (R158, R160, R162): the head of the A FIFO, or the row of the other tile as it
stands in this cycle. While the FIFO is empty, what is not yet complete of the pass is one cycle later. -/
def State.enterRow (s : State) (m : MCmd) (left peff due : Nat) : State :=
  let x := m.ahead m.inArray.length
  let r := x.rowAt (x.xAt 0) ^^^ 128
  let enter (a : AIn) (s : State) : State := s.modAct (fun m =>
    { m with inArray := m.inArray ++ [a], toEnter := m.toEnter - 1, enterAt := m.enterAt + peff })
  if pcwRca m.pcw then enter (.recirc (s.core.regs.getA r) (s.core.rowBad r)) s
  else
    match s.core.eng.afifo with
    | [] => s.modAct (fun m => { m with enterAt := s.pcyc + 1, stage := .pass left peff (due + 1) })
    | a :: as => enter (.fifo a) (s.mc (fun c => c.meng (fun e => { e with afifo := as })))

/-- The activation values of the row that leaves the array next, and flags of their rounding. -/
def MCmd.leaving (m : MCmd) : Option (List Val × BitVec 5) :=
  match m.inArray, fmtOf (pcwAF m.pcw) with
  | .recirc v _ :: _, _ => some (recircVals v m.k)
  | .fifo a :: _, some f => some (a.vals f m.k, 0)
  | _, _ => none

/-- The uncorrectable error that a row write consumes: of the row it accumulates onto, of the activation row, or of the
weights (R399): DETAIL and the word. Of unit 4, address 0 is the A FIFO, 1 the B FIFO, 2 the weight registers. -/
def State.rowError (s : State) (m : MCmd) (r : Row) : Option (BitVec 16 × Saw) :=
  match m.inArray with
  | .recirc _ (some w) :: _ => some (2, w)
  | .fifo a :: _ => if a.bad then some (4, ⟨none, 0⟩) else go
  | _ => go
where go : Option (BitVec 16 × Saw) :=
  match (if m.fresh then none else s.core.rowBad r) with
  | some w => some (2, w)
  | none => if !pcwHad m.pcw && s.core.eng.blk.bad then some (4, ⟨none, 2⟩) else none

/-- The engine writes a row. A row written for a command carried into the phase is not one that the phase has written
(R301). The answer holds the marked word that was covered in part. -/
def Core.engineRow (c : Core) (m : MCmd) (r : Row) (v mask : RowVal) : Core × Option Saw :=
  let c' := c.writeRow ⟨9, fcUNCORR, 2, m.pc, m.btag, none⟩ r v mask
  let partly := (c'.ctl.late.drop c.ctl.late.length).findSome? LateFault.saw
  let c' := c'.mctl (fun k => { k with late := c.ctl.late })
  (if c.phase.any (fun p => decide (m.id < p.firstCmd)) then { c' with phase := c.phase } else c', partly)

/-- A K-group whose products all lie in the window, so that the residue check covers its sum (R170). -/
def coveredGroup (as bs : List Val) : Bool :=
  match groupSum as bs (some 0) (some 0) with
  | (.fin .., f) => decide (f &&& flagINX = 0)
  | _ => false

/-- The residue check covers some group of a row. -/
def coveredRow (p : Word) (b : Block) (as : List Val) (n : Nat) : Bool :=
  (List.range n).any (fun j =>
    (groupsOf (kGroup p) (as.length + 1) (as.zip ((List.range as.length).map (fun k => weightAt p b k j)))).any (fun q =>
      coveredGroup (q.map Prod.fst) (q.map Prod.snd)))

/-- One row of the running pass is written. A row that the press has yet to read holds the array (R165). -/
def State.passRow (s : State) (m : MCmd) (left peff : Nat) : State :=
  let r := m.rowAt (m.xAt 0)
  if m.reads.any (fun q => decide (q.1 = r)) then
    s.modAct (fun m => { m with enterAt := m.enterAt + 1, stage := .pass left peff (s.pcyc + 1) })
  else
    match s.rowError m r, m.leaving with
    | some (d, w), _ => s.matrixFault m 9 fcUNCORR d (some w)
    | none, none => s
    | none, some (as, fa) =>
      if s.core.eng.residue && coveredRow m.pcw s.core.eng.blk as m.n then
        (s.mc (fun c => c.meng (fun e => { e with residue := false }))).matrixFault m 9 fcRESIDUE 0
      else
        let ls := leafLanes m.pcw s.core.eng.blk as (s.core.regs.getA r) m.fresh m.n
        let v := mkRow m.n 32 (fun i => (ls.getD i (0, 0)).1)
        let (c, partly) := s.core.engineRow m r v (BitVec.ofNat 4096 (2 ^ (32 * m.n) - 1))
        let s := { s with core := c }
        if partly.isSome then s.matrixFault m 9 fcUNCORR 2 partly
        else
          s.modAct (fun m =>
            let m := m.leafDone s.pcyc
            { m with fl := m.fl ||| fa ||| joinFlags (ls.map Prod.snd), last := s.pcyc, inArray := m.inArray.drop 1,
                     stage := if left ≤ 1 then .idle else .pass (left - 1) peff (s.pcyc + peff) })

/-- What the array does in this cycle for an active MGO or MHAD. -/
def State.nestStep (s : State) (m : MCmd) : State :=
  match m.stage with
  | .idle =>
    if !m.inside then s.modAct (fun m => { m with stage := .drained })
    else if m.taken < m.ldws then
      (if s.core.eng.standbyLoaded ∧ m.last < s.pcyc ∧ s.core.eng.standbyAt < s.pcyc then s.takeBlock else s)
    else if !m.bit 0 mnACC then s.modAct (fun m => m.leafDone (max m.last (s.pcyc - 1)))
    else if m.last < s.pcyc then
      let peff := planeSteps m.pcw s.core.eng.blk
      s.modAct (fun m => { m with stage := .pass m.passLeaves peff (s.pcyc + 15 + peff * (m.k + m.n - 1)),
                                  toEnter := m.passLeaves, enterAt := s.pcyc, inArray := [] })
    else s
  | .pass left peff due =>
    if 0 < m.toEnter ∧ m.enterAt ≤ s.pcyc then s.enterRow m left peff due
    else if due ≤ s.pcyc then s.passRow m left peff
    else s
  | _ => s

/-- MZERO writes one row (R289). -/
def State.zeroRow (s : State) (m : MCmd) : State :=
  match m.rows with
  | [] => s.modAct (fun m => { m with stage := .drained })
  | r :: rs =>
    if m.last < s.pcyc then
      (s.mc (fun c => (c.engineRow m r 0 (BitVec.allOnes 4096)).1)).modAct (fun m =>
        { m with rows := rs, last := s.pcyc, stage := if rs.isEmpty then .drained else m.stage })
    else s

/-- PASS: the array's next action of the active command: a row of a pass, a pass's start, a block taken, or a row
zeroed. -/
def execPass (s : State) : Host.Outcome State Fault Refusal :=
  match (if s.core.mode = .running then s.core.eng.act else none) with
  | none => .next s
  | some m => .next (match m.kind with
    | .go | .had => s.nestStep m
    | .zero => s.zeroRow m
    | _ => s)

/-! ### Block loads (R149, R159, R289) -/

/-- The command needs a block that is not yet in the standby registers. -/
def Core.wantsBlock (c : Core) (m : MCmd) : Bool :=
  match m.kind with
  | .go | .had => !c.eng.standbyLoaded && m.ldwAhead
  | .wld => decide (m.stage = .idle)
  | _ => false

/-- A block that holds the last entry of a command. -/
def Block.lastOf (b : Block) (q : CopyCmd) : Bool := decide (b.cmd = some q.id) && decide (q.total ≤ b.pos + b.k * b.n)

/-- A load ends: the block leaves the FIFO; one that holds an uncorrectable error is consumed (R399). The command of a block
still in the standby registers does not retire when it was its last (R150). -/
def State.loadEnds (s : State) (m : MCmd) (due : Nat) : State :=
  if (s.core.eng.bfifo.head?.map Block.bad).getD false then s.matrixFault m 9 fcUNCORR 4 (some ⟨none, 1⟩)
  else
    let s := s.mc (fun c => c.meng (fun e => { e with
      cq := if e.standbyLoaded then e.cq.map (fun q => if e.standby.lastOf q then { q with hold := .overwritten } else q) else e.cq,
      standby := e.bfifo.headD Block.zero, bfifo := e.bfifo.drop 1, standbyLoaded := true, standbyAt := due,
      loading := none }))
    if m.kind = .wld then s.modAct (fun m => { m with stage := .drained, last := due }) else s

/-- A load begins. -/
def State.loadBegins (s : State) (m : MCmd) : State :=
  match s.core.eng.bfifo.head? with
  | none => s
  | some b =>
    if m.kind = .wld ∧ (b.k ≠ m.k ∨ b.n ≠ m.n) then s.matrixFault m 9 fcOPERAND 7
    else
      let size := match m.kind, fmtOf (pcwBF m.pa) with
        | .wld, some f => blockSize f m.k m.n
        | _, _ => b.size
      s.mc (fun c => c.meng (fun e => { e with loading := some (max (e.blkAt + 1) s.pcyc + 3 + size) }))

/-- MSWAP exchanges the two blocks (R289). -/
def State.swapBlocks (s : State) (m : MCmd) : State :=
  if m.stage = .idle ∧ m.last < s.pcyc then
    (s.mc (fun c => c.meng (fun e => { e with
      blk := { e.standby with cmd := none }, standby := { e.blk with cmd := none }, standbyLoaded := true, standbyAt := s.pcyc,
      blkAt := s.pcyc }))).modAct (fun m => { m with stage := .drained })
  else s

/-- BLOCK_LOAD: the standby registers take the next block of the B FIFO, or are exchanged. -/
def execBlockLoad (s : State) : Host.Outcome State Fault Refusal :=
  match (if s.core.mode = .running then s.core.eng.act else none) with
  | none => .next s
  | some m =>
    if m.kind = .swap then .next (s.swapBlocks m)
    else
      match s.core.eng.loading with
      | some due => .next (if due ≤ s.pcyc then s.loadEnds m due else s)
      | none => .next (if s.core.wantsBlock m then s.loadBegins m else s)

/-! ### The press (R163 to R165) -/

/-- The scaled lanes of a drained row. -/
def pressVals (m : MCmd) (v : RowVal) : List Val :=
  let psh := toS 8 (m.fld 8 36 8)
  (List.range (hget m.hd .ex0)).map (fun i =>
    let c := lane v i 32
    (if m.i32 then Val.ofInt (toS 32 c) else fp32F.decode c).scale (-psh))

/-- Conversion of a row to the destination's format; i32 lanes to an integer type raise no flag. -/
def pressConv (m : MCmd) (f : Fmt) (vs : List Val) : Elems × BitVec 5 :=
  let rm : RMode := match m.fld 8 33 2 with
    | 0 => .rne
    | 1 => .rz
    | 2 => .rdn
    | _ => .rup
  match m.i32, fmtInt f with
  | true, some (sgn, w) =>
    (⟨f, hgroup m.hd, vs.map (fun v => trunc w (clamp (intLo sgn w) (intHi sgn w) (roundInt rm v).1)), [], []⟩, 0)
  | _, _ => encodeElems f (hgroup m.hd) false rm true vs

/-- One destination row is written (R163). -/
def State.pressWrite (s : State) (m : MCmd) (v : RowVal) : State :=
  let h := m.hd
  let q := m.dcur * hget h .ex0
  let places := (List.range (hget h .ex0)).map (fun i =>
    s.targets m.xl s.cur (hget h .space) (elemAddrs h (hcoord h (q + i))))
  let stop : Option Stop := places.findSome? (fun x => match x with
    | .error e => some e
    | .ok _ => none)
  let rs := places.map (fun x => match x with
    | .ok r => r
    | .error _ => [])
  let full := s.host.windows.toList.any Window.en && decide (s.fitting [] [memKeys rs.flatten] = 0)
  match stop, hfmt h with
  | some (.fail code detail _ _), _ => s.matrixFault m 11 code detail
  | some _, _ | _, none => s
  | none, some f =>
    if full then s.matrixFault m 11 fcWINDOW_FULL 0
    else
    let (e, fl) := pressConv m f (pressVals m v)
    (s.writeRun m.id m.xl s.cur m.bank true h q e rs).modAct (fun m =>
      { m with dcur := m.dcur + 1, fl := m.fl ||| fl, writes := m.writes.drop 1,
               last := if m.stage = .drained then max m.last s.pcyc else m.last })

/-- A row is read: its values leave 24 cycles later (R165). -/
def State.pressRead (s : State) (m : MCmd) (r : Row) (t : Nat) : State :=
  match s.core.rowBad r with
  | some w => s.matrixFault m 11 fcUNCORR 2 (some w)
  | none =>
    s.modAct (fun m =>
      { m with reads := m.reads.drop 1, writes := m.writes ++ [(t + 24, s.core.regs.getA r)] })

/-- PRESS_DRAIN: the press reads the next due row, or writes the next due destination row. -/
def execPressDrain (s : State) : Host.Outcome State Fault Refusal :=
  match (if s.core.mode = .free then none else s.core.eng.act) with
  | none => .next s
  | some m =>
    match m.writes, m.reads with
    | (t, v) :: _, rs =>
      if t ≤ s.pcyc then .next (s.pressWrite m v)
      else (match rs with
        | (r, u) :: _ => .next (if u ≤ s.pcyc then s.pressRead m r u else s)
        | [] => .next s)
    | [], (r, u) :: _ => .next (if u ≤ s.pcyc then s.pressRead m r u else s)
    | [], [] => .next s

/-! ### Completion and succession (R151, R163, R166) -/

/-- The lines of compressed tiles that a command has not produced are written as zero (R163). -/
def zeroLines (m : MCmd) (l : List Shadow) : List Shadow :=
  let mine := l.filter (fun w => decide (w.cmd = m.id) && w.tile.isCurd)
  let lines := (mine.map (fun w => (w.pl.sp, w.pl.addr / 64))).eraseDups
  let tiles := (mine.map (fun w => (w.pl.sp, w.pl.addr / 4096, w.tile))).eraseDups
  tiles.flatMap (fun (sp, t, tile) => (List.range 64).flatMap (fun j =>
    if lines.contains (sp, 64 * t + j) then []
    else (List.range 64).map (fun i => shadowOf m.id (hcount m.hd) ⟨sp, 4096 * t + 64 * j + i⟩ 0 0xFF tile 0)))

def MCmd.finished (m : MCmd) (now : Nat) : Bool :=
  decide (m.stage = .drained) && m.reads.isEmpty && m.writes.isEmpty && decide (m.last < now)

/-- MATRIX_COMMAND_COMPLETE: flags become visible, the token counts one less, the writes count as complete. -/
def execMatrixCommandComplete (s : State) : Host.Outcome State Fault Refusal :=
  match (if s.core.mode = .free then none else s.core.eng.act) with
  | none => .next s
  | some m =>
    if !m.finished s.pcyc then .next s
    else .next ((s.addShadow (zeroLines m s.core.eng.shadow)).mc (fun c => (c.landFlags s.pcyc m.fl).meng (fun e => { e with
      act := some { m with stage := .done s.pcyc },
      complete := e.complete ++ [⟨m.id, m.tok, 0, m.info 11 0 0, none, some (hget m.hd .ex0, m.dcur)⟩],
      tokens := e.tokens.set m.tok.toNat (e.tokens[m.tok.toNat]'(m.tok.isLt) - 1) m.tok.isLt })))

/-- PENDING_COMMAND_ACTIVATES: in the cycle after the active command completes. -/
def execPendingCommandActivates (s : State) : Host.Outcome State Fault Refusal :=
  if s.core.mode = .running then .next s.followOn else .next s

end Sys2Proof.Machine
end

