-- ==== Sys2Proof/Machine/Sync.lean ====
section
/-! DEFINITION. Fetching (R22), control transfer and hardware loops (R192 to R197, R293 to R296), and the Y-slot
operations that wait: token waits, barriers, fences, publication and the phase commit (R292, R297 to R301). -/

namespace Sys2Proof.Machine

open Sys2Proof

/-! ### Fetching (R22, R464) -/

/-- What fetching 64 bytes gives: them, with where they were read when a memory die gave them; a wait for a moving page,
or for a line another node owns; a DPA beyond its die's range; or an error, with the failing unit. -/
inductive Fetch where
  | line (w : Line) (from_ : Option (BitVec 2 × Dpa))
  | wait
  | away (pa : Dpa)
  | hole
  | fail (code detail : BitVec 16) (unit : Option (BitVec 2 × Dpa × Nat))
  deriving DecidableEq, Repr

def State.fetchLine (s : State) (va : Nat) : Fetch :=
  match s.translate s.core.sys.xlat va .rd with
  | .noLeaf => .fail fcTRANS 0 none
  | .perm => .fail fcPERM 0 none
  | .moving => .wait
  | .uncorr ea => .fail fcUNCORR (unitDetail 1 ea) (some (1, ea, 1))
  | .away ea => .away ea
  | .hole => .hole
  | .ok pa g ap _ =>
    if ap ≠ 0 ∨ 12 < dieCode pa ∨ nodeOf pa ≠ s.fab.node then .fail fcPERM 0 none
    else match s.homeRefuses s.core.sys.sec .rd g pa 64 with
      | some (c, d) => .fail c d (if c = fcPERM then some (g, pa, 64) else none)
      | none =>
        if s.lineAway pa 64 then .away pa
        else match s.memRead g pa 64 with
          | (_, some u) => .fail fcUNCORR (unitDetail g u) (some (g, pa, 64))
          | (bs, none) => .line (BitVec.ofNat 512 (leNat bs)) (some (g, pa))

/-- What a fetch at a VA leaves: the effects of its reads on the memory dies, or the recall it asks for. -/
def State.fetched (s : State) (va : Nat) : Fetch → State
  | .line _ (some (g, pa)) => (s.walked s.core.sys.xlat va).hasRead (.core s.cur) g pa 64
  | .away pa => s.askLines pa 64
  | _ => s

/-- The fault of a fetch: SLOT 8, the target's PC, BTAG 0. -/
def State.fetchFault (s : State) (va : Word) (code detail : BitVec 16) (unit : Option (BitVec 2 × Dpa × Nat)) : State :=
  let s := s.stopCheck code (unit.map (fun u => .unit u.1 u.2.1)) (unit.elim 1 (fun u => u.2.2))
  s.takeFaults none [⟨code, detail, 8, 0, 0, 0, 0, s.core.eng.cidx, va, 0, false, none⟩]

/-! ### Loop levels (R192 to R197) -/

def Loops.at (l : Loops) (i : Nat) : LoopLvl :=
  match i with
  | 0 => l.l0
  | 1 => l.l1
  | _ => l.l2

def Loops.put (l : Loops) (i : Nat) (v : LoopLvl) : Loops :=
  match i with
  | 0 => { l with l0 := v }
  | 1 => { l with l1 := v }
  | _ => { l with l2 := v }

def Loops.any (l : Loops) : Bool := l.l0.active || l.l1.active || l.l2.active

/-- The outermost active level. -/
def Loops.outer (l : Loops) : Option LoopLvl :=
  if l.l2.active then some l.l2 else if l.l1.active then some l.l1 else if l.l0.active then some l.l0 else none

/-- A PC lies in a level's body. -/
def LoopLvl.holds (v : LoopLvl) (pc : Word) : Bool :=
  decide (v.start.toNat ≤ pc.toNat) && decide (pc.toNat < v.start.toNat + 64 * v.len)

/-- The last bundle of a level's body. -/
def LoopLvl.last (v : LoopLvl) : Word := v.start + BitVec.ofNat 64 (64 * (v.len - 1))

/-- A level that ends: inactive, its counter 0. -/
def LoopLvl.off (v : LoopLvl) : LoopLvl := { v with active := false, lc := 0, desc := none }

/-- R197: levels whose body a taken transfer leaves, and those inside them, become inactive. -/
def Loops.leave (l : Loops) (tgt : Word) : Loops :=
  (List.range 3).foldl (fun l i =>
    let v := l.at i
    if v.active && !v.holds tgt then (List.range (i + 1)).foldl (fun l j => l.put j (l.at j).off) l else l) l

/-- 64 bytes held in the loop buffer. -/
def Loops.held (l : Loops) (va : Word) : Option Line := (l.buf.find? (fun p => decide (p.1 = va))).map Prod.snd

/-- A bundle or descriptor fetched while a loop runs is held, when it lies in the outermost active body. -/
def Loops.keep (l : Loops) (va : Word) (w : Line) : Loops :=
  match l.outer with
  | some o => if o.holds va && (l.held va).isNone then { l with buf := (va, w) :: l.buf } else l
  | none => l

/-! ### Transfers (R293 to R295) -/

/-- A taken transfer. -/
def State.transfer (s : State) (tgt : Word) : State :=
  s.mc (fun c => { c with
    loops := if c.ctl.trap then c.loops else c.loops.leave tgt,
    ctl := { c.ctl with npc := some tgt, mark := true, ready := max c.ctl.ready (s.pcyc + 2) } })

/-- PC + 64 · SignExt(disp, 64). -/
def State.relative (s : State) (disp : BitVec 24) : Word :=
  s.core.ctl.curPc + (disp.signExtend 64) * 64

def State.targetOf (s : State) (t : Sys2Proof.Target) : Word :=
  match t with
  | .disp d => s.relative d
  | .reg a => s.sreg a

/-- A control address with bits [5:0] or [63:48] nonzero: OPERAND 3. -/
def controlBad (v : Word) : Option FC :=
  fcIf (decide (v.toNat % 64 ≠ 0) || decide (2 ^ 48 ≤ v.toNat)) fcOPERAND 3

def State.targetBad (s : State) (t : Sys2Proof.Target) : Option FC :=
  match t with
  | .disp _ => none
  | .reg a => controlBad (s.sreg a)

def State.targetSrc (s : State) (t : Sys2Proof.Target) : List Mark :=
  match t with
  | .disp _ => []
  | .reg a => s.srcS [a]

/-- A Y operation: replay mode admits none but ERET (R266, R460). -/
def yIssue (g : PReg) (srcs : List Mark) (static : Option FC) (scal : List (Option FC)) (eff : State → State)
    (s : State) : Host.Outcome State Fault Refusal :=
  issue .y g srcs static (fcFirst (s.noReplay :: scal)) id eff s

def execBr (g : PReg) (t : Sys2Proof.Target) (s : State) : Host.Outcome State Fault Refusal :=
  yIssue g (s.targetSrc t) none [s.targetBad t] (fun s => s.transfer (s.targetOf t)) s

def execBrc (g : PReg) (q : PReg) (n : Bool) (disp : BitVec 24) (s : State) : Host.Outcome State Fault Refusal :=
  yIssue g [.p (rotP s.core.sys q)] none [] (fun s =>
    if s.preg q != n then s.transfer (s.relative disp) else s) s

def execCall (g : PReg) (l : SReg) (t : Sys2Proof.Target) (s : State) : Host.Outcome State Fault Refusal :=
  yIssue g (s.targetSrc t) none [s.targetBad t]
    (fun s => (s.landS 1 .y l (s.core.ctl.curPc + 64)).transfer (s.targetOf t)) s

def execRet (g : PReg) (a : SReg) (s : State) : Host.Outcome State Fault Refusal :=
  yIssue g (s.srcS [a]) none [controlBad (s.sreg a)] (fun s => s.transfer (s.sreg a)) s

/-! ### LOOP and LOOPR (R192, R193, R195, R196, R296) -/

/-- Entry i of a delta descriptor: KIND, IDX, HF, DELTA and the reserved bits. -/
def descKind (w : Line) (i : Nat) : Nat := (w.extractLsb' (64 * i + 30) 2).toNat
def descIdx (w : Line) (i : Nat) : Nat := (w.extractLsb' (64 * i + 24) 6).toNat
def descHf (w : Line) (i : Nat) : Nat := (w.extractLsb' (64 * i + 21) 3).toNat
def descDelta (w : Line) (i : Nat) : Word := (w.extractLsb' (64 * i + 32) 32).signExtend 64
def descRsv (w : Line) (i : Nat) : Nat := (w.extractLsb' (64 * i) 21).toNat

/-- The lowest bit of the lowest field that a descriptor breaks, as DETAIL of RESERVED (R455, R464). -/
def descBad (w : Line) : Option FC :=
  (List.range 8).findSome? (fun i =>
    let at_ (b : Nat) : Option FC := some ⟨fcRESERVED, BitVec.ofNat 16 (0x200 + 64 * i + b), none⟩
    if descRsv w i ≠ 0 then at_ 0
    else if 2 < descHf w i then at_ 21
    else if descKind w i = 3 then at_ 30
    else none)

/-- The descriptor after the LOOP's bundle, from the loop buffer or memory. -/
def State.descLine (s : State) (desc : Bool) : Option Fetch :=
  if desc then
    let va := s.core.ctl.curPc + 64
    some (match s.core.loops.held va with
      | some w => .line w none
      | none => s.fetchLine va.toNat)
  else none

/-- The checks of a loop start that read no scalar. -/
def State.loopFC (s : State) (lvl : BitVec 2) (len1 : BitVec 8) (d : Option Fetch) : Option FC :=
  let l := s.core.loops
  fcFirst [
    (match d with
      | some (.line w _) => descBad w
      | _ => none),
    fcIf (decide (lvl = 3) || (l.at lvl.toNat).active) fcLOOP 1,
    fcIf (!l.any && decide (256 < len1.toNat + 1 + (if d.isSome then 1 else 0))) fcLOOP 5,
    fcIf (decide (l.le ≠ 0)) fcLOOP 6,
    fcIf (s.core.ctl.trap && l.any) fcLOOP 9,
    (match d with
      | some (.fail c x _) => some ⟨c, x, none⟩
      | _ => none)]

/-- n of a loop, read at issue. -/
def State.loopCount (s : State) (n : LoopCount) : Nat :=
  match n with
  | .imm v => v.toNat
  | .reg r => (s.sreg r).toNat % 2 ^ 32

/-- The loop begins, or its body is skipped. -/
def State.loopStart (s : State) (lvl : BitVec 2) (len1 : BitVec 8) (d : Option Fetch) (n : Nat) (drain : Option Nat) :
    State :=
  let len := len1.toNat + 1
  let start := s.core.ctl.curPc + (if d.isSome then 128 else 64)
  if n = 0 then s.mc (fun c => c.mctl (fun k => { k with npc := some (start + BitVec.ofNat 64 (64 * len)) }))
  else
    let line := match d with
      | some (.line w _) => some w
      | _ => none
    let v : LoopLvl := { active := true, lc := BitVec.ofNat 32 (n + drain.getD 0), n := n, begun := 1,
                         isR := drain.isSome, start := start, len := len, desc := line }
    let s := s.mc (fun c => { (c.unmark (.lc lvl.toNat)) with
      loops :=
        let l := if c.loops.any then c.loops else { c.loops with buf := [] }
        let l := match line with
          | some w => l.keep (c.ctl.curPc + 64) w
          | none => l
        l.put lvl.toNat v,
      ctl := { c.ctl with npc := some start } })
    if drain.isSome then
      (List.range 8).foldl (fun s i => s.landP 1 .y (BitVec.ofNat 4 (8 + i)) (decide (i = 0))) s
    else s

def loopSrc (s : State) (n : LoopCount) : List Mark :=
  match n with
  | .imm _ => []
  | .reg r => s.srcS [r]

/-- A loop start: a descriptor that cannot be fetched yet holds the bundle. -/
def loopIssue (g : PReg) (lvl : BitVec 2) (desc : Bool) (len1 : BitVec 8) (drain : Option Nat) (n : LoopCount)
    (s : State) : Host.Outcome State Fault Refusal :=
  let d := if s.preg g then s.descLine desc else none
  match d with
  | some .wait => .next s
  | some (.away pa) => .next (s.askLines pa 64)
  | some .hole => .fault .noSuchMemory
  | _ =>
    yIssue g (loopSrc s n) (s.loopFC lvl len1 d)
      [fcIf (decide (2 ^ 32 ≤ s.loopCount n + drain.getD 0)) fcLOOP 7]
      (fun s => s.loopStart lvl len1 d (s.loopCount n) drain)
      (if s.checksHere g (loopSrc s n) then d.elim s (s.fetched (s.core.ctl.curPc + 64).toNat) else s)

def execLoop (g : PReg) (lvl : BitVec 2) (desc : Bool) (len1 : BitVec 8) (n : LoopCount) (s : State) :
    Host.Outcome State Fault Refusal :=
  loopIssue g lvl desc len1 none n s

def execLoopr (g : PReg) (lvl : BitVec 2) (desc : Bool) (len1 : BitVec 8) (drain : BitVec 3) (n : LoopCount)
    (s : State) : Host.Outcome State Fault Refusal :=
  loopIssue g lvl desc len1 (some drain.toNat) n s

/-! ### Loop ends (R194 to R196) -/

/-- The deltas of a loop-back, each a change that takes its place after every write that lands with it (R183). -/
def State.deltas (s : State) (w : Line) : State :=
  (List.range 8).foldl (fun s i =>
    let v := descDelta w i
    let put (d : Dest) : State := s.mc (fun c => { c with
      flight := c.flight ++ [⟨s.pcyc + 1, 9, d, 0, c.ctl.curPc, c.ctl.btag⟩] })
    match descKind w i with
    | 1 => put (.deltaS (BitVec.ofNat 6 (descIdx w i)) v)
    | 2 =>
      let h := BitVec.ofNat 5 (descIdx w i)
      let f := match descHf w i with
        | 0 => hfieldAt .base
        | 1 => hfieldAt .side
        | _ => hfieldAt .off
      put (.deltaH h f.1 f.2 v)
    | _ => s) s

/-- Level l loops back: deltas, rotation, counter, next PC. -/
def State.loopBack (s : State) (i : Nat) (v : LoopLvl) : State :=
  let s := match v.desc with
    | some w => s.deltas w
    | none => s
  let begun := v.begun + 1
  let s := if v.isR then s.mc (fun c => { c with
      flight := c.flight ++ [⟨s.pcyc + 1, 10, .rotate (decide (begun ≤ v.n)), 0, c.ctl.curPc, c.ctl.btag⟩] }) else s
  s.mc (fun c => { c with
    loops := c.loops.put i { v with lc := v.lc - 1, begun := begun },
    ctl := { c.ctl with npc := some v.start } })

/-- LoopEnd on the LE bits of the bundle being issued, from level i up. -/
def State.loopEnds (s : State) : List Nat → State
  | [] => s
  | i :: is =>
    let v := s.core.loops.at i
    if s.core.loops.le.getLsbD i ∧ v.active then
      if 1 < v.lc.toNat then s.loopBack i v
      else State.loopEnds (s.mc (fun c => { c with loops := c.loops.put i v.off })) is
    else State.loopEnds s is

/-! ### Waits (R292) -/

/-- Issue stops after the bundle until the wait ends. -/
def State.stopFor (s : State) (w : Wait) : State := s.mc (fun c => c.mctl (fun k => { k with wait := some w }))

/-- The wait has ended: the next bundle issues in the next cycle or later. -/
def State.endWait (s : State) : State :=
  s.mc (fun c => c.mctl (fun k => { k with wait := none, ready := max k.ready (s.pcyc + 1) }))

/-- Every token of a mask is signalled (R190). -/
def Core.tokensClear (c : Core) (mask : BitVec 16) : Bool :=
  (List.range 16).all (fun i => !mask.getLsbD i || decide (c.eng.tokens.getD i 0 = 0))

def execWaite (g : PReg) (mask : BitVec 16) (s : State) : Host.Outcome State Fault Refusal :=
  yIssue g [] none [] (fun s => s.stopFor (.waite mask)) s

/-- After a WAITE the commands counted on its tokens are waited on (R297, R328). -/
def Core.markWaited (c : Core) (mask : BitVec 16) : Core :=
  c.meng (fun e => { e with waited := e.waited ++
    (e.complete.filter (fun d => mask.getLsbD d.tok.toNat && !e.waited.contains d.id)).map Done.id })

/-! ### Barriers (R59 to R61, R298) -/

/-- The tasks that take part in a task's barrier of a scope, itself included; none when no region gives it the
scope. -/
def State.bspTasks (s : State) (t : Task) (sc : BScope) : List Nat :=
  let tog := ((s.leafOf t).map Region.together).getD false
  let near (f : Nat → Nat) : List Nat := if tog then t.peers.filter (fun p => match s.task? p with
    | some x => decide (f x.core = f t.core)
    | none => false) else []
  match sc with
  | .gang => t.gang
  | .cluster => near clusterOf
  | .die => near dieOf
  | .package => near (fun _ => 0)

def scopeIx : BScope → Nat
  | .gang => 0
  | .cluster => 1
  | .die => 2
  | .package => 3

def execBsp (g : PReg) (sc : BScope) (s : State) : Host.Outcome State Fault Refusal :=
  let ps := (s.curTask.map (fun t => s.bspTasks t sc)).getD []
  yIssue g [] none [fcIf ps.isEmpty fcOPERAND 10] (fun s =>
    (s.mc (fun c => { c with bsps := c.bsps.setIfInBounds (scopeIx sc) (c.bsps.getD (scopeIx sc) 0 + 1) })).stopFor
      (.bsp sc)) s

/-! ### What has yet to perform -/

/-- The task on the focus core issued this access. -/
def Core.mine (c : Core) (t : Option Nat) : Bool := decide (t = c.task)

def AccOp.isWrite : AccOp → Bool
  | .store _ | .mst .. | .atomic .. => true
  | _ => false

def PortOp.isWrite : PortOp → Bool
  | .st .. | .at .. | .enq _ => true
  | _ => false

/-- Stores, stamps and atomics of the task's own operations that have not performed (R300). -/
def Core.storesLeft (c : Core) : Bool :=
  c.pend.any (fun a => c.mine a.task && a.op.isWrite && decide (a.slot ≠ .c)) ||
    c.port.any (fun e => c.mine e.task && e.op.isWrite)

/-- Writes that a publication has sent and that have not performed (R300). -/
def Core.sending (c : Core) : Bool :=
  c.pend.any (fun a => c.mine a.task && (match a.op with
    | .published .. => true
    | _ => false))

/-- Any access of the task that has not performed (R330). -/
def Core.accessLeft (c : Core) : Bool := c.pend.any (fun a => c.mine a.task) || c.port.any (fun e => c.mine e.task)

/-- No copy or matrix command is outstanding. -/
def Core.engineIdle (c : Core) : Bool := !c.engineBusy

/-! ### Fences (R299, R318, R326) -/

def fenceLevel : FScope → Nat
  | .core => 0
  | .cluster => 1
  | .die => 2
  | .package => 3
  | .system => 4

/-- The narrowest scope that holds a core's scratchpad, seen from the focus core (R318). -/
def State.padLevel (s : State) (core : Nat) : Nat :=
  if core = s.cur then 0
  else if clusterOf core = clusterOf s.cur then 1
  else if dieOf core = dieOf s.cur then 2
  else 3

/-- The narrowest scope that holds a DPA. -/
def State.dpaLevel (s : State) (pa : Dpa) : Nat := if s.isRemote pa || decide (dieCode pa = 13) then 4 else 3

/-- The narrowest scope that holds a target. A page under move lies in this module. -/
def State.targetLevel (s : State) (t : Target) : Nat :=
  match t with
  | .cluster core _ => s.padLevel core
  | .mcast _ => 4
  | .va .. => 3
  | .dpa pa _ => s.dpaLevel pa

/-- The narrowest scope that holds a byte of a handle's space; `core` holds space 1. -/
def State.byteLevel (s : State) (x : XlatRegs) (core : Nat) (kind : AKind) (sp : Nat) (a : Int) : Nat :=
  match sp with
  | 0 => (match s.translate x a.toNat kind with
    | .ok pa _ _ _ => s.dpaLevel pa
    | _ => 3)
  | 1 => s.padLevel core
  | 2 => s.padLevel (64 * clusterOf s.cur + a.toNat / 2 ^ 21 % 64)
  | _ => 2

/-- The narrowest scopes that an element's bytes lie in, its side record among them (R102, R318). -/
def State.elemLevels (s : State) (x : XlatRegs) (core : Nat) (kind : AKind) (h : Handle) (c : Coord) : List Nat :=
  (if hscaled h || hplane h then [s.padLevel core] else []) ++
    (elemAddrs h c).map (s.byteLevel x core kind (hget h .space))

/-- The scopes that the accesses of a copy command's element at position p lie in. -/
def State.copyLevels (s : State) (q : CopyCmd) (p : Nat) : List Nat :=
  let at_ := { q with pos := p }
  let a := q.at at_.elem
  let src := s.elemLevels q.xl s.cur .rd a.hs (hcoord a.hs a.q)
  let dst (core : Nat) (h : Handle) (c : Coord) := s.elemLevels q.xl core .wr h c
  match q.op with
  | .cpy | .cpyp | .chst | .cwld => src ++ dst s.cur a.hd (hcoord a.hd a.q)
  | .cpya .. | .cpyb .. => src
  | .cfil _ => dst s.cur a.hd (hcoord a.hd a.q)
  | .cred o _ _ => src ++ dst (s.peerCore o) a.hd (hcoord a.hd a.q)
  | .cres gs =>
    let (i0, i1, i2, i3) := hcoord q.hs a.q
    src ++ dst s.cur q.hr (i0, i1, i2, i3) ++ dst s.cur q.hd (i0, i1, i2, i3) ++ dst s.cur q.hc (i0 / gsN gs, i1, i2, i3)
  | .cmcs _ => 4 :: src
  | .cmig .. | .crly .. => [0]

/-- A copy command has an access within a scope that has not performed (R299). -/
def State.copyLeft (s : State) (q : CopyCmd) (lv : Nat) : Bool :=
  (List.range (q.total - q.pos)).any (fun i => (s.copyLevels q (q.pos + i)).any (fun l => decide (l ≤ lv)))

/-- A command whose press still writes: an MDRN until it is complete, an MGO or MHAD while it drains. -/
def MCmd.presses (m : MCmd) : Bool :=
  (match m.kind with
    | .drn => true
    | .go | .had => !(m.levels mnDRN).isEmpty || !m.reads.isEmpty || !m.writes.isEmpty
    | _ => false) &&
  (match m.stage with
    | .done _ => false
    | _ => true)

/-- A command's press has a write within a scope that has not performed: from row DCUR of its destination on. -/
def State.pressLeft (s : State) (m : MCmd) (lv : Nat) : Bool :=
  m.presses && (List.range (hcount m.hd - m.dcur * hget m.hd .ex0)).any (fun i =>
    (s.elemLevels m.xl s.cur .wr m.hd (hcoord m.hd (m.dcur * hget m.hd .ex0 + i))).any (fun l => decide (l ≤ lv)))

/-- Every access in a named class within the scope has performed. -/
def State.fenceDone (s : State) (mask : BitVec 16) (sc : FScope) : Bool :=
  let c := s.core
  let lv := fenceLevel sc
  let inMask (k : Cls) : Bool := mask.getLsbD k.toNat
  c.pend.all (fun a => !(c.mine a.task && a.classed && inMask a.cls && decide (s.targetLevel a.tgt ≤ lv))) &&
  c.port.all (fun e => !(c.mine e.task && (match e.cls with
    | some k => inMask k
    | none => false))) &&
  c.eng.cq.all (fun q => !(inMask q.cls && s.copyLeft q lv)) &&
  (!mask.getLsbD 0 || ([c.eng.act, c.eng.pend].filterMap id).all (fun m => !s.pressLeft m lv))

def execFence (g : PReg) (mask : BitVec 16) (sc : FScope) (s : State) : Host.Outcome State Fault Refusal :=
  yIssue g [] none [] (fun s => s.stopFor (.fence mask sc)) s

/-! ### Publication and the phase commit (R300, R301, R408) -/

def execPublish (g : PReg) (mask : BitVec 16) (s : State) : Host.Outcome State Fault Refusal :=
  yIssue g [] none [] (fun s => s.stopFor (.publish mask)) s

def execSwapb (g : PReg) (mask : BitVec 16) (h : HReg) (m : SReg) (rs flip : Bool) (s : State) :
    Host.Outcome State Fault Refusal :=
  yIssue g (if flip then .h h :: s.srcS [m] else []) (if flip then s.handleFC h else none) []
    (fun s => s.stopFor (.swapb mask h (if m = 0 then 0 else rotS s.core.sys m) rs flip)) s

/-- Lines of this node that other nodes own and that the unpublished writes of complete commands of these cores' tasks
reach: they are recalled before the writes perform (R319, R332). -/
def State.linesToPublish (s : State) (cores : List Nat) : List Dpa :=
  let away := s.fab.owned.filter (fun o => o.owner.isSome)
  if away.isEmpty then []
  else
    let keys := cores.flatMap (fun n => ((s.getCore n).eng.shadow.filter (fun w => decide (w.pl.sp = .mem) &&
      ((s.getCore n).eng.complete.map Done.id).contains w.cmd)).map (fun w => w.pl.addr))
    (away.filter (fun o => (keysOf o.g (BitVec.ofNat 53 o.dpa) 64).any keys.contains)).map (fun o => BitVec.ofNat 53 o.dpa)

/-- Published writes of device registers of this node perform, in order, by the tasks of their commands (R329, R374). -/
def State.publishRegs (s : State) (l : List Shadow) : State :=
  (remoteRuns l).foldl (fun s r => s.onCore r.by_.1 (fun s => (s.regPublish (BitVec.ofNat 53 r.addr) r.bytes).st)) s

/-- Publication, in one step, of every complete command of the tasks on these cores, once no line that it writes is away;
each write that did not take place is its command's fault (R329, R399, R425). The answer tells whether it has happened. -/
def State.publishOf (s : State) (cores : List Nat) : State × Bool :=
  match s.linesToPublish cores with
  | [] =>
    let which (n i : Nat) : Bool := ((s.getCore n).eng.complete.map Done.id).contains i
    let regs := (sortShadow (cores.flatMap (fun n => (s.getCore n).eng.shadow.filter (fun w => which n w.cmd)))).filter s.ofRegister
    let (t, errs) := s.publish cores which
    (errs.foldl (fun t e =>
      t.onCore e.core (fun u => u.takeFaults (some e.done.id) [{ e.done.faultAt e.elem e.code e.detail with saw := e.saw }])) (t.publishRegs regs), true)
  | l => (l.foldl State.askLine s, false)

/-- Loop-end actions that have not taken effect yet do. -/
def Core.afterLoopEnd (c : Core) : Core :=
  (c.flight.filter (fun x => match x.dest with
    | .deltaS .. | .deltaH .. | .rotate _ => true
    | _ => false)).foldl Core.applyDest c

/-- SWAPB's flip and snapshot. The snapshot's registers are those of this cycle, its loop counters, levels and rotation
bases those after the bundle's loop-end actions (R301). -/
def Core.commit (c : Core) (mask : BitVec 16) (h : HReg) (m : SReg) (rs flip : Bool) : Core :=
  let x := hget (c.regs.getH h) .base
  let c := if flip then
      (c.mregs (fun g => g.setH h (hput (g.getH h) 0 56 ((g.getS m).toNat % 2 ^ 56)))).writeS m (BitVec.ofNat 64 x)
    else c
  let inputs := if flip then c.eng.hist.filter (fun q =>
      mask.getLsbD q.tok.toNat && decide (q.hd = c.regs.getH h)) else []
  let d := c.afterLoopEnd
  { c with
    eng := { c.eng with hist := [] },
    phase := some {
      pc := c.ctl.pc, regs := d.regs, pcw := c.eng.pcw, loops := c.loops, rrbs := d.sys.rrbs, rrba := d.sys.rrba,
      rrbp := d.sys.rrbp, trap := c.ctl.trap, trapRet := c.ctl.trapRet,
      restartable := rs && decide (inputs.length ≤ 4), rolled := false, inputs := inputs.take 4,
      firstCmd := c.eng.nextCmd, firstAcc := c.nextAcc, written := [] } }

end Sys2Proof.Machine
end

