-- ==== Sys2Proof/Machine/System.lean ====
section
/-! DEFINITION. The rest of the Y slot: probes, checks, traps and returns, queues, launches, task end,
dictionaries, time, pre-emption points and the privileged operations (R302 to R316). -/

namespace Sys2Proof.Machine

open Sys2Proof

/-! ### Probes and checks (R302, R303) -/

def execProbe (g : PReg) (a b : SReg) (kind : AKind) (s : State) : Host.Outcome State Fault Refusal :=
  yIssue g (s.srcS [a, b]) none [fcIf s.core.engineBusy fcOPERAND 12]
    (fun s => s.stopFor (.probe (s.sreg a).toNat (s.sreg b).toNat kind false)) s

def execCkts (g : PReg) (a b c : SReg) (three : Bool) (s : State) : Host.Outcome State Fault Refusal :=
  let x := s.sreg a
  let y := s.sreg b
  let z := s.sreg c
  yIssue g (s.srcS ([a, b] ++ (if three then [c] else []))) none
    [fcIf (decide (x ≠ y) || (three && (decide (x ≠ z) || decide (y ≠ z)))) fcCHECK 0] id s

/-- A 32-bit lane that k enables differs between the runs (R303). -/
def State.runsDiffer (s : State) (x y : Row) (b1 : BitVec 4) (k : KReg) : Bool :=
  (List.range (b1.toNat + 1)).any (fun j =>
    decide ((s.arow (x + BitVec.ofNat 8 j) ^^^ s.arow (y + BitVec.ofNat 8 j)) &&& laneMask (s.kreg k) 32 ≠ 0))

def execCktv (g : PReg) (x y : Row) (b1 : BitVec 4) (k : KReg) (s : State) : Host.Outcome State Fault Refusal :=
  let bad := runBad b1 x || runBad b1 y
  yIssue g (.k k :: (if bad then [] else s.srcRows b1 x ++ s.srcRows b1 y))
    none [fcIf bad fcOPERAND 7, fcIf (s.runsDiffer x y b1 k) fcCHECK 0] id s

/-! ### Traps and returns (R304 to R306) -/

def execTrap (g : PReg) (d : SReg) (code : BitVec 16) (s : State) : Host.Outcome State Fault Refusal :=
  issue .y g [] (fcIf (decide (s.core.sys.trapaddr = 0) || s.core.ctl.trap || s.core.ctl.replay) fcUSER_TRAP code)
    none id (fun s => s.enterTrap d code) s

def execEret (g : PReg) (s : State) : Host.Outcome State Fault Refusal :=
  issue .y g [] none (fcIf (!s.core.ctl.replay && !s.core.ctl.trap) fcOPERAND 10) id State.returnFrom s

def execSetrpl (g : PReg) (t : Sys2Proof.Target) (s : State) : Host.Outcome State Fault Refusal :=
  yIssue g (s.targetSrc t) none [controlBad (s.targetOf t)]
    (fun s => s.land 1 .y (.sys .rpladdr (s.targetOf t)) 0) s

/-! ### Queues and launches (R307, R308) -/

/-- Output entries that the running task has yet to fill; none when its leaf has no output queue. -/
def State.outLeft (s : State) : Option Nat :=
  s.curTask.bind (fun t => (s.leafOf t).bind (fun r => if r.outq = 0 then none else some t.outLeft))

def execEnq (g : PReg) (a : SReg) (s : State) : Host.Outcome State Fault Refusal :=
  let ea := (s.sreg a).toNat
  yIssue g (s.srcS [a]) none
    [misaligned ea 64, s.outSpad ea 64, fcIf s.outLeft.isNone fcQUEUE 2, fcIf (decide (s.outLeft = some 0)) fcQUEUE 1]
    (fun s =>
      let s := s.breakPhase
      let s := match s.core.task with
        | some t => s.modTask t (fun x => { x with outLeft := x.outLeft - 1 })
        | none => s
      s.pushPort .y none [(s.pcyc + 1, .enq ea)]) s

/-- The DPA of a root RCB that SPAWN names, when the launch is legal (R308, R34, R464). -/
def State.spawnRoot (s : State) (va : Nat) : Option Dpa :=
  let x := s.core.sys.xlat
  let depth := ((s.curTask.bind s.leafOf).map Region.depth).getD 8
  if va % 256 ≠ 0 ∨ !inHeap x va ∨ 8 < depth + 1 then none
  else
    match s.translate x va .rd with
    | .ok pa g _ _ =>
      let ovr := s.rcbNat g pa.toNat 4 4
      if ovr.testBit 1 || ovr.testBit 4 || ovr.testBit 5 then none else some pa
    | _ => none

def execSpawn (g : PReg) (a : SReg) (s : State) : Host.Outcome State Fault Refusal :=
  let root := s.spawnRoot (s.sreg a).toNat
  yIssue g (s.srcS [a]) none [fcIf root.isNone fcOPERAND 13]
    (fun s => match root with
      | some pa => s.breakPhase.stopFor (.spawn pa.toNat)
      | none => s) s

def execEndTask (g : PReg) (s : State) : Host.Outcome State Fault Refusal :=
  yIssue g [] none [] (fun s => s.stopFor .endT) s

/-! ### Dictionaries (R310) -/

def execDictld (g : PReg) (a : SReg) (s : State) : Host.Outcome State Fault Refusal :=
  let ea := (s.sreg a).toNat
  yIssue g (s.srcS [a]) none [fcIf (decide (ea % 1024 ≠ 0) || decide (s.spadb < ea + 1024)) fcOPERAND 14]
    (fun s =>
      let bank := !s.core.curd.bank
      let s := s.mc (fun c => { c with curd := { c.curd with load := [] } })
      (s.pushPort .y none [(s.pcyc + 1, .dictld bank ea), (s.pcyc + 2, .dictld bank (ea + 512))]).stopFor
        (.dictld bank)) s

def execDictsw (g : PReg) (s : State) : Host.Outcome State Fault Refusal :=
  yIssue g [] none [] (fun s => s.mc (fun c => { c with curd := { c.curd with flip := !c.curd.flip } })) s

/-! ### Time and pre-emption points (R311, R312) -/

def execRdtime (g : PReg) (d e : SReg) (s : State) : Host.Outcome State Fault Refusal :=
  yIssue g [] none [] (fun s => (s.landS 1 .y d s.dtime).landS 1 .y e (BitVec.ofNat 64 s.pcyc)) s

/-- F of R312. -/
def yieldBound (spadb a : Nat) : Nat := min ((a + 4095) / 4096 * 4096) spadb

def execQpt (g : PReg) (p : PReg) (y : Option SReg) (s : State) : Host.Outcome State Fault Refusal :=
  yIssue g (match y with
      | some a => s.srcS [a]
      | none => []) none [] (fun s =>
    let s := s.landP 1 .y p s.core.preempt.isSome
    match y with
    | some a =>
      if s.core.preempt.isSome then
        (s.mc (fun c => { c with yieldF := some (yieldBound s.spadb (s.sreg a).toNat) })).stopFor
          (.qpt (if p = 0 then 0 else rotP s.core.sys p))
      else s
    | none => s) s

/-! ### Privileged operations (R313 to R316) -/

/-- PRIVILEGE with the opcode as DETAIL, outside ASID 0. -/
def State.userMode (s : State) (op : BitVec 16) : Option FC := fcIf (decide (s.core.sys.asid ≠ 0)) fcPRIVILEGE op

def execInval (g : PReg) (a b : SReg) (kind : InvKind) (s : State) : Host.Outcome State Fault Refusal :=
  let srcs := match kind with
    | .page => [a, b]
    | .asid => [b]
    | .all => []
  let va := (s.sreg a).toNat
  let asid := (s.sreg b).extractLsb' 0 13
  yIssue g (s.srcS srcs) (s.userMode 25) [] (fun s =>
    { s with tlb := s.tlb.filter (fun t => !t.named kind va asid) }.stopFor (.inval s.ns s.pcyc kind va asid)) s

def execWcsld (g : PReg) (d a b : SReg) (s : State) : Host.Outcome State Fault Refusal :=
  let n := (s.sreg b).toNat
  yIssue g (s.srcS [a, b]) (s.userMode 26)
    [fcIf (decide (n % 64 ≠ 0) || decide (n = 0) || decide (65536 < n)) fcOPERAND 14]
    (fun s => s.stopFor (.wcsld (if d = 0 then 0 else rotS s.core.sys d) (s.sreg a) (s.sreg b))) s

def execHalt (g : PReg) (s : State) : Host.Outcome State Fault Refusal :=
  yIssue g [] (s.userMode 27) [] (fun s => s.stopFor .halt) s

/-! ### What each wait does until it ends (R292) -/

/-- A fault raised while a Y operation waits. -/
def State.waitFault (s : State) (code detail : BitVec 16) (of_ : Option Culprit) : State :=
  (s.stopCheck code of_ 1).takeFaults none [{ s.opInfo 8 code detail with saw := Culprit.saw of_ }]

/-- PROBE tests its next page; a failing page is serviced and tested again after that (R302, R432, R433). -/
def State.probePage (s : State) (va len : Nat) (kind : AKind) : State :=
  if len = 0 then s.endWait
  else
    let next := (va / 2 ^ 18 + 1) * 2 ^ 18
    let x := s.translate s.core.sys.xlat va kind
    let s := match x with
      | .moving | .away _ => s
      | _ => s.walked s.core.sys.xlat va
    let service (code : BitVec 16) : State :=
      (s.stopFor (.probe va len kind true)).raiseService none (s.opInfo 8 code (kindNum kind)) va len
    match x with
    | .moving => s
    | .noLeaf => service fcTRANS
    | .perm => service fcPERM
    | .uncorr ea => s.waitFault fcUNCORR (unitDetail 1 ea) (some (.unit 1 ea))
    | .away ea => s.askLine ea
    | .ok .. | .hole =>
      if va + len ≤ next then s.endWait else s.stopFor (.probe next (va + len - next) kind false)

/-- Spawned regions of the module that have not completed (R308). -/
def State.spawnedOpen (s : State) : Nat :=
  s.hub.regs.countP (fun r => decide (r.st ≠ 3) && (s.rootOf r).spawner.isSome)

/-- The hub accepts a spawned launch: EFFDL, CIL and TAG are the spawner's (R308, R50). -/
def State.spawnNow (s : State) (root : Nat) : State :=
  match s.curTask.bind s.leafOf with
  | none => s.endWait
  | some r =>
    if 4096 ≤ s.spawnedOpen then s
    else
      let g := s.core.sys.heapattr.extractLsb' 0 2
      let ns := s.readTree g 8 [⟨root, none, none, 2, r.depth + 1, none, r.f, r.f⟩] s.hub.regs.length
      let away := s.treeAway ns
      if away.isEmpty then
        let (n, s) := s.arrive
        (s.launch ⟨g, r.effdl, r.cil, r.tag, none, some r.id, n⟩ false ns).endWait
      else s.askTree away

/-- END discards the replies the tracker holds and those still to come; an error among them is consumed
(R309, R422). -/
def State.endReplies (s : State) : State :=
  let errs := s.core.track.toList.filterMap (fun t => t.bind (fun x => match x.reply with
    | some (code, v) => if code = 0 then none else some (FaultInfo.mk code x.detail 12 0 0 0 0 s.core.eng.cidx x.pc
        x.btag (decide (code = fcATOMIC_APPLIED)) (sawOf v.toNat))
    | none => none))
  let s := s.mc (fun c => { c with track := c.track.map (fun t => t.bind (fun x =>
    if x.reply.isSome then none else if x.drop then some x else some { x with drop := true, cons := true })) })
  s.takeFaults none errs

def State.waitsEnd (s : State) : Bool := decide (s.core.ctl.wait = some .endT)

/-- END's waits, then the end of the task (R309). A task asked to halt does not end before it has been saved and resumed
(R58). -/
def State.endStep (s : State) : State :=
  let s := s.endReplies
  if s.core.preempt.isSome then s
  else if s.waitsEnd && s.core.tokensClear (BitVec.allOnes 16) && s.core.track.toList.all Option.isNone &&
      !s.core.storesLeft then
    let (s, published) := s.publishOf [s.cur]
    if published && s.waitsEnd && !s.core.sending then
      match s.core.task with
      | some t => s.endTaskNow t
      | none => s
    else s
  else s

def TileWrite.under (bank : Bool) : TileWrite → Bool
  | .curd b _ => b == bank
  | _ => false

/-- Another core's command is compressing a tile of this core under a bank: it runs, and has begun the tile and not ended it
(R99). -/
def State.bankBusy (s : State) (bank : Bool) : Bool :=
  s.parked.any (fun (_, c) =>
    let l := c.eng.shadow.filter (fun w => decide (w.pl.sp = .spad s.cur) && w.tile.under bank &&
      (c.eng.cq.any (fun q => decide (q.id = w.cmd)) || c.eng.act.any (fun m => decide (m.id = w.cmd) && (match m.stage with
        | .done _ => false
        | _ => true))))
    ((l.map (fun w => (w.cmd, w.pl.addr / 4096))).eraseDups).any (fun (n, t) =>
      decide (((l.filter (fun w => decide (w.cmd = n) && decide (w.pl.addr / 4096 = t))).map (fun w => w.pl.addr)).eraseDups.length <
        4096)))

/-- A dictionary bank that an operation in flight captured (R310, R99). -/
def Core.bankHeld (c : Core) (bank : Bool) : Bool :=
  let curd (h : Handle) : Bool := decide (hget h .curd = 1)
  c.eng.cq.any (fun q => decide (q.bank = bank) && (curd q.hd || curd q.hr || curd q.hc)) ||
    ([c.eng.act, c.eng.pend].filterMap id).any (fun m => decide (m.bank = bank) && m.presses && curd m.hd)

/-- The 16 entries of a bank from 1,024 bytes. -/
def dictEntries (bs : List Byte) : Vector Line 16 :=
  Vector.ofFn (fun (i : Fin 16) => BitVec.ofNat 512 (leNat ((bs.drop (64 * i.val)).take 64)))

def Curd.fill (c : Curd) (bank : Bool) : Curd :=
  if bank then { c with dict1 := dictEntries c.load, load := [] }
  else { c with dict0 := dictEntries c.load, load := [] }

/-- The control-store image is loaded: each core switches at its next group mark, an idle one at once (R315). -/
def Core.loadCs (c : Core) : Core :=
  if c.mode = .free then { c with csBank := !c.csBank, csPending := false } else { c with csPending := true }

def State.loadImage (s : State) (bs : List Byte) : State :=
  let s := (List.range Config.cores).foldl (fun s n => s.modCore n Core.loadCs) s
  s.mhub (fun h => { h with wcslds := h.wcslds + 1, measures := h.measures.set 6 (digest bs) })

/-- WCSLD reads its image, checks it and loads it (R315, R378, R451). -/
def State.wcsldStep (s : State) (d : SReg) (a b : Word) : Host.Outcome State Fault Refusal :=
  -- no command has the number that the next one will take: the lines that the wait reads are kept under it
  let n := s.core.eng.nextCmd
  match s.fetch n s.core.sys.xlat s.cur false .rd 0 ((List.range b.toNat).map (fun i => ((a.toNat + i : Nat) : Int))) with
  | .error .wait => .next s
  | .error (.away pa) => .next (s.askLine pa)
  | .error (.ask line host) => .next (s.askOutside n .y 0 s.core.nextAcc line host)
  | .error .hole => .fault .noSuchMemory
  | .error (.fail c x u _) => .next ((s.mc (fun c => c.dropGot n)).waitFault c x u)
  | .ok (bs, rs) =>
    let s := (s.usedShadow.engineRead rs).mc (fun c => c.dropGot n)
    if Config.signatureOk bs then .next ((s.loadImage bs).mc (fun c => c.writeS d 0)).endWait
    else .next (s.mc (fun c => c.writeS d 1)).endWait

/-- Everything in flight on the focus core has taken effect (R316). -/
def Core.quiet (c : Core) : Bool :=
  c.flight.isEmpty && c.engineIdle && c.pend.all (fun a => !c.mine a.task) && c.port.all (fun e => !c.mine e.task) &&
    c.track.toList.all (fun t => t.all (fun x => x.late || x.drop))

/-- HALT's report to the management controller (R316). -/
def State.reportHalt (s : State) : State :=
  if s.core.quiet && s.hub.stops.all (fun p => decide (p.1 ≠ s.cur)) then
    s.mhub (fun h => { h with stops := h.stops ++ [(s.cur, s.core.ctl.curPc, s.core.ctl.btag)] })
  else s

/-- Accesses of the phase that may still write. -/
def Core.phaseWrites (c : Core) : Bool :=
  let n := (c.phase.map Phase.firstAcc).getD 0
  c.pend.any (fun a => c.mine a.task && a.op.isWrite && decide (n ≤ a.id)) ||
    c.port.any (fun e => c.mine e.task && e.op.isWrite && decide (n ≤ e.id))

/-- Step 3 of R409 is over: the tracker is owed nothing, and the stores of the phase have performed. -/
def Core.rolledBack (c : Core) : Bool := c.track.toList.all Option.isNone && !c.phaseWrites

/-- A rollback whose step 3 has not ended: a request to halt waits for step 4 (R420). -/
def Core.rolling (c : Core) : Bool :=
  match c.ctl.wait with
  | some (.rollback _) => !c.rolledBack
  | _ => false

/-- Steps 3, 5 and 6 of R409. The restarted phase sees its inputs: step 5 has waited for them (R328). A core that is asked
to halt goes no further than step 4 (R420). -/
def State.rollStep (s : State) (cmds : List Nat) : State :=
  let mine (q : CopyCmd) : Bool := cmds.contains q.id
  if s.core.preempt.isSome && s.core.rolledBack then s
  else if s.core.eng.cq.any (fun q => mine q && decide (q.hold = .restart)) then
    if s.core.rolledBack then
      s.mc (fun c => c.meng (fun e => { e with cq := e.cq.map (fun q =>
        if mine q then { q with hold := .run } else q) }))
    else s
  else if s.core.eng.cq.any mine then s
  else if s.core.rolledBack then
    (s.mc (fun c => c.meng (fun e => { e with waited := e.waited ++ cmds }))).endWait
  else s

/-- Once published with nothing left to perform, PUBLISH and SWAPB end. -/
def State.sentStep (s : State) (swap : Option (BitVec 16 × HReg × SReg × Bool × Bool)) : State :=
  if s.core.sending then s
  else
    match swap with
    | none => s.endWait
    | some (mask, h, m, rs, flip) => (s.mc (fun c => c.commit mask h m rs flip)).endWait

/-- Publication when the tokens are signalled and the stores have performed (R300, R301). -/
def State.publishStep (s : State) (mask : BitVec 16) (swap : Option (BitVec 16 × HReg × SReg × Bool × Bool)) :
    State :=
  if s.core.tokensClear mask && !s.core.storesLeft then
    let w := s.core.ctl.wait
    let (s, published) := s.publishOf [s.cur]
    if published ∧ s.core.ctl.wait = w then (s.stopFor (.sent swap)).sentStep swap else s
  else s

/-- A request that may use a mapping which an INVAL has removed has not performed: an access born by then, or a published
write on its way to another node that was placed by then through a leaf which the INVAL names. A write that stands in its
task's shadow has performed there (R279, R314, R435). -/
def State.oldMaps (s : State) (since cyc : Nat) (kind : InvKind) (va : Nat) (asid : BitVec 13) : Bool :=
  (s.core :: s.parked.map Prod.snd).any (fun c => c.pend.any (fun a => decide (a.born ≤ since) || (match a.op with
    | .published _ _ _ via => via.any (fun v => decide (v.at_ ≤ cyc) && v.named kind va asid)
    | _ => false)))

/-- The owed replies are written, and the wait ends unless one of them was an error (R268, R266, R422). -/
def State.owedStep (s : State) (regs : Option (List SReg)) : State :=
  let t := s.writeOwed regs
  if t.core.ctl.wait = s.core.ctl.wait then t.endWait else t

/-- One step of the focus core's wait: it ends, goes on, or stands. -/
def State.waitStep (s : State) : Host.Outcome State Fault Refusal :=
  match s.core.ctl.wait with
  | none => .next s
  | some w =>
    match w with
    | .waite mask =>
      .next (if s.core.tokensClear mask then (s.mc (fun c => c.markWaited mask)).endWait else s)
    | .fence mask sc => .next (if s.fenceDone mask sc then s.endWait else s)
    | .publish mask => .next (s.publishStep mask none)
    | .swapb mask h m rs flip => .next (s.publishStep mask (some (mask, h, m, rs, flip)))
    | .sent swap => .next (s.sentStep swap)
    | .probe va len kind serviced => .next (if serviced then s else s.probePage va len kind)
    | .spawn root => .next (s.spawnNow root)
    | .endT => .next s.endStep
    | .dictld bank =>
      .next (if s.core.curd.load.length = 1024 ∧ !s.core.bankHeld bank ∧ !s.bankBusy bank then
          (s.mc (fun c => { c with curd := c.curd.fill bank })).endWait else s)
    | .inval since cyc kind va asid => .next (if s.oldMaps since cyc kind va asid then s else s.endWait)
    | .wcsld d a b => s.wcsldStep d a b
    | .qpt p =>
      .next (if s.core.preempt.isSome then s
        else (if p = 0 then s else s.land 1 .y (.p p false) 0).endWait)
    | .halt => .next s.reportHalt
    | .ldw _ => .next (if s.core.ldwReply.isSome then (s.mc (fun c => { c with ldwReply := none })).endWait else s)
    | .rpl => .next (if s.core.owedReady none then s.owedStep none else s)
    | .hold regs => .next (if s.core.owedReady (some regs) then s.owedStep (some regs) else s)
    | .rollback cmds => .next (s.rollStep cmds)
    | .bsp _ | .brk => .next s

end Sys2Proof.Machine
end

