-- ==== Sys2Proof/Machine/Failure.lean ====
section
/-! DEFINITION. Failures that are not one operation's: errors in core-local structures (R399), retirement of a
core (R416, R57), the rind (R417 to R419), failure of the hub (R397), errors of the memory dies and their buffers
(R424 to R428), loss of a far die (R429), and kills and rollbacks whose cause
stands in the state (R409, R411). -/

namespace Sys2Proof.Machine

open Sys2Proof

/-! ### Retirement of a core (R416, R57) -/

/-- A task whose core is retired is killed with its gang or together region, and nothing wider (R57, R411, R412, R416). -/
def State.killFor (s : State) (code : BitVec 16) (tid : Nat) : State :=
  match s.task? tid with
  | some t => if t.st.live then (s.faultRecord tid (s.victimInfo tid code) 3).killPeers t else s
  | none => s

/-- A free UNIT of R406, where the manual names none. -/
def freeUnit (k : Nat) : Nat := (Config.freeByte (Nat.pair k 20)).toNat % 20

/-- Cores that a leaf's start needs (R48, R49). -/
def Region.need (r : Region) : Nat :=
  max (if r.together then r.total else 1) (if 1 < r.f.gang then r.f.gang else 1)

/-- A region that its fault domain can no longer serve is killed when it has started, else refused: every region that
covers it then takes status 0x84, and FCODE gives the reason where no fault has been counted (R404, R405, R416). -/
def State.cutRegion (s : State) (r : Region) : State :=
  if r.kind = 0 ∧ r.st ≠ 3 ∧ s.domainCores r.f.dies < r.need ∧ !s.noMore r then
    if 0 < r.tstart then s.killRegions [r.id] fcCORES 3 0x80
    else
      let s := (s.dropPending r.id 0x84).addStatus r.id 0x84
      (s.chainAll 16 r.id).foldl (fun s id => s.modRegion id (fun x =>
        { x with fcode := if x.fcount = 0 then fcCORES else x.fcode })) s
  else s

/-- A core is retired, with a machine check: the task it runs and those saved on it are killed, and regions that need
more cores than remain are refused or killed (R406, R416). -/
def State.retireCore (s : State) (n : Nat) : State :=
  if (s.getCore n).retired then s
  else
    let s := s.modCore n (fun c => { c with retired := true })
    let (k, s) := s.draw
    let s := s.machineCheck 1 (freeUnit k) (dieOf n) fcCORES 0 (some n) none
    let s := ((s.getCore n).task.toList ++ (s.savedOn n).map Saved.task).foldl (State.killFor · fcCORES) s
    (s.hub.regs.foldl State.cutRegion s).settle

/-- Four severity-1 machine checks within 1 s of DTIME. -/
def Core.due (c : Core) (now : Nat) : Bool :=
  !c.retired && decide (4 ≤ (c.checks.filter (fun t => decide (now < t + 1000000000))).length)

/-- Cores that a step has brought to four machine checks are retired. -/
def State.retireDue (s : State) : State :=
  let s := if s.core.due s.ns then s.retireCore s.cur else s
  (s.parked.filter (fun p => p.2.due s.ns)).foldl (fun s p => s.retireCore p.1) s

/-! ### The rind (R417, R418) -/

/-- Cores of compute die d that the model keeps. -/
def State.coresOn (s : State) (d : Nat) : List Nat :=
  (s.cur :: s.parked.map Prod.fst).filter (fun n => decide (dieOf n = d))

/-- The rind closes round compute die d, for an error in `unit`: dispatch stops, every context whose fault domain
holds d is killed without a save, what its cores had under way is lost, and the die is in reset. -/
def State.closeRind (s : State) (d unit : Nat) : State :=
  if s.hub.rind.getLsbD d then s
  else
    let bit : BitVec 4 := 1#4 <<< d
    let s := s.mhub (fun h => { h with rind := h.rind ||| bit, wLost := h.wLost ||| bit, drst := h.drst ||| bit })
    let asids := ((s.hub.regs.filter (fun r => decide (r.st ≠ 3) && r.f.dies.getLsbD d)).map (fun r => r.f.asid)).eraseDups
    let ids := (s.hub.regs.filter (fun r => decide (r.st ≠ 3) && asids.contains r.f.asid)).map Region.id
    let s := s.killRegions ids fcCONTAINED 6 0x83
    let s := (s.coresOn d).foldl (fun s n => s.modCore n (fun c => { c with pend := [], port := [] })) s
    let s := { s with tlb := s.tlb.filter (fun t => decide (t.die ≠ d)) }.mhub (fun h => { h with din := h.din ||| bit })
    (s.machineCheck 2 unit d fcCONTAINED 0 none).settle

/-! ### The module unit (R397, R398) -/

/-- The FCODEs of R400 but NONE. -/
def fcodes : List (BitVec 16) :=
  ((List.range 11).map (0x101 + ·) ++ (List.range 10).map (0x201 + ·) ++ (List.range 3).map (0x301 + ·) ++
    (List.range 4).map (0x401 + ·) ++ (List.range 4).map (0x501 + ·)).map (BitVec.ofNat 16)

/-- The hub, or a path that every die uses, fails: every context is given up, a fatal machine check is raised, and until
a module reset nothing is launched, dispatched or resumed. Memory keeps its contents. -/
def State.hubFailure (s : State) : State :=
  if s.hub.fatal then s
  else
    let (k, s) := s.draw
    let code := fcodes.getD ((Config.freeByte (Nat.pair k 0)).toNat % fcodes.length) fcUNCORR
    let s := s.machineCheck 3 (freeUnit k) 4 code 0 none
    let s := s.mhub (fun h => { h with
      fatal := true, saves := [], reserved := [], inbox := [], migq := [],
      tasks := h.tasks.map (fun t => if t.st.live then { t with st := .killed } else t) })
    (s.cur :: s.parked.map Prod.fst).foldl (fun s n => s.modCore n Core.stopTask) s

/-! ### Errors in core-local structures (R399) -/

/-- The register that an upset of unit 12 names: kind · 256 + index (0 scalar, 1 predicate, 2 handle, 3 lane mask,
4 PCW, 5 MN, 6 latch, 7 copy nest, 8 loop counter). -/
def regMark (a : Nat) : Mark :=
  let i := a % 256
  match a / 256 with
  | 0 => .s (BitVec.ofNat 6 i)
  | 1 => .p (BitVec.ofNat 4 i)
  | 2 => .h (BitVec.ofNat 5 i)
  | 3 => .k (BitVec.ofNat 3 i)
  | 4 => .pcw (BitVec.ofNat 4 i)
  | 5 => .mn i
  | 6 => .latch (BitVec.ofNat 3 i)
  | 7 => .outer (decide (i % 2 = 1))
  | _ => .lc (i % 3)

def Core.mark (c : Core) (m : Mark) : Core := if c.marks.contains m then c else { c with marks := m :: c.marks }

def badHead (l : List ARow) : List ARow :=
  match l with
  | [] => []
  | r :: rs => { r with bad := true } :: rs

def badBlock (l : List Block) : List Block :=
  match l with
  | [] => []
  | b :: bs => { b with bad := true } :: bs

/-- What an uncorrectable error leaves in a core, by unit of R406. -/
def Core.upset (c : Core) (unit a : Nat) : Core :=
  match unit with
  | 0 => c.mark (.spad a)
  | 1 => c.mark (.side a)
  | 2 => c.mark (.row (BitVec.ofNat 8 (a / 64)) (a % 64))
  | 4 => c.meng (fun e => match a with
      | 0 => { e with afifo := badHead e.afifo }
      | 1 => { e with bfifo := badBlock e.bfifo }
      | _ => { e with blk := { e.blk with bad := true } })
  | 5 => c.meng (fun e => { e with residue := true })
  | 11 => { c with ibuf := [], loops := { c.loops with buf := [] } }
  | 12 => c.mark (regMark a)
  | _ => c

/-- An error arises in a structure of core n (R399, R406, R417). One that hardware has corrected is recorded now, like the
refetch of a bundle, the loss of a control store and of a link; the others are recorded when they are consumed. -/
def State.upset (s : State) (n unit a : Nat) (corrected : Bool) : State :=
  if Config.cores ≤ n then s
  else if corrected then s.machineCheck 0 unit (dieOf n) 0 a (some n) none
  else
    match unit with
    | 11 | 13 =>
      let s := s.machineCheck (if unit = 11 then 0 else 1) unit (dieOf n) (if unit = 11 then 0 else fcUNCORR) a (some n) none
      if unit = 13 then s.retireCore n else s.modCore n (fun c => c.upset unit a)
    | 3 => { s with wmarks := (dieOf n, a) :: s.wmarks }
    | 14 | 19 => s.closeRind (dieOf n) unit
    | _ => s.modCore n (fun c => c.upset unit a)

/-! ### Events -/

/-- RIND_CLOSE: the module closes the rind round die d; the cause, a link, aggregator or temperature failure, is the
die's own (R417). -/
def execRindClose (d : BitVec 2) (s : State) : Host.Outcome State Fault Refusal := .next (s.closeRind d.toNat 14)

/-- PREEMPT_HALT_TIMEOUT: a core that has not halted 4 µs after its request (R417). -/
def execPreemptHaltTimeout (core : BitVec 9) (s : State) : Host.Outcome State Fault Refusal :=
  let c := s.getCore core.toNat
  match c.preempt with
  | some t =>
    if c.mode = .running ∧ !c.stoppedByHand ∧ t + 4000 ≤ s.ns then .next (s.closeRind (dieOf core.toNat) 19) else .next s
  | none => .next s

/-! ### Errors of the memory dies and their buffers (R424 to R426, R428) -/

/-- The granule under which the check bits at a key were last written; free where none has been since reset (R86, R426). -/
def State.codeAt (s : State) (k : Nat) : BitVec 2 :=
  let v := s.codes.get (k / 32)
  if v = 0 then BitVec.ofNat 2 (Config.freeByte (Nat.pair s.fresh k)).toNat else BitVec.ofNat 2 (v.toNat - 1)

/-- Keys that stand for a byte of a near or a far die (R81). -/
def keyExists (k : Nat) : Bool :=
  decide (k % 2 ^ 39 < (if k / 2 ^ 39 < 8 then 48 else 256) * 2 ^ 30) && decide (k / 2 ^ 39 < 12)

/-- Bits of a stored byte go wrong. -/
def State.flip (s : State) (k : Nat) (bits : Byte) : State :=
  if keyExists k then { s with flips := s.flips.set k (s.flips.get k ^^^ bits) } else s

/-- The patrol reads a unit from its cells, corrects what it can in place, and poisons what it cannot (R426). -/
def State.patrolUnit (s : State) (g : BitVec 2) (u : Nat) : State :=
  if s.farLost (unitDpa s.fab.node u (granSize g)) then s
  else
    let cells := { s with buf := [] }
    let fixed := (cells.recode g [u] (fun _ => false))
    let put : State := { s with mem := fixed.mem, flips := fixed.flips, codes := fixed.codes }
    match cells.decodes g u with
    | .clean => s
    | .corrected => put.unitLog g u 0
    | .wrong => put.draw.2
    | .failed => (s.unitFails .nobody g u).draw.2

/-- PATROL_SCRUB: the unit at a die code and offset of a DPA is read, under the granule it was last written with (R426). -/
def execPatrolScrub (die : BitVec 4) (off : BitVec 39) (g : BitVec 2) (s : State) : Host.Outcome State Fault Refusal :=
  match dpaKey g (s.fab.node ++ die ++ off) with
  | none => .fault .noSuchMemory
  | some k => if s.ownCode g (unitAt g k) then .next (s.patrolUnit g (unitAt g k)) else .next s

/-- 24 hours after the last patrol, every unit that has anything amiss has been read again. -/
def State.patrolAll (s : State) : State :=
  let ks := (s.poison.map Prod.fst ++ s.flips.map Prod.fst).map (fun k => (s.codeAt k, unitAt (s.codeAt k) k))
  (ks.eraseDups.foldl (fun s (g, u) => s.patrolUnit g u) s).mhub (fun h => { h with patrolAt := s.ns })

def State.patrolDue (s : State) : Bool := decide (s.hub.patrolAt + 24 * 3600 * 1000000000 ≤ s.ns)

/-- The units that hold a line of a near die's buffer. -/
def State.lineUnits (s : State) (l : Nat) : List (BitVec 2 × Nat) :=
  ([0, 32].map (fun i => (s.codeAt (64 * l + i), unitAt (s.codeAt (64 * l + i)) (64 * l + i)))).eraseDups

/-- A near die's buffer of 32 MiB has no line free (R12). -/
def State.bufFull (s : State) (die : Nat) : Bool :=
  decide (2 ^ 19 ≤ s.buf.countP (fun b => decide (64 * b.1 / 2 ^ 39 = die)))

/-- A near die's buffer takes a line whose units read sound, while it has room. -/
def State.bufTake (s : State) (l : Nat) : State :=
  let us := s.lineUnits l
  if !keyExists (64 * l) || decide (8 ≤ 64 * l / 2 ^ 39) || s.buf.any (fun b => decide (b.1 = l)) ||
      s.bufFull (64 * l / 2 ^ 39) then s
  else
    let ds := us.map (fun (g, u) => (g, u, s.decodes g u))
    let s := ds.foldl (fun s (g, u, d) => s.decoded .nobody g [(u, d)]) s
    if ds.all (fun (_, _, d) => decide (d = .clean) || decide (d = .corrected)) then { s with buf := (l, false) :: s.buf } else s

/-- It gives a line up: the cells of a modified one are written anew. -/
def State.bufDrop (s : State) (l : Nat) : State :=
  if s.buf.contains (l, true) then
    { s with buf := s.buf.erase (l, true), flips := s.flips.filter (fun e => decide (e.1 / 64 ≠ l)) }
  else { s with buf := s.buf.erase (l, false) }

/-- An error in a line that the buffer holds (R428). -/
def State.bufUpset (s : State) (l : Nat) (corrected : Bool) : State :=
  let check (s : State) (code : BitVec 16) : State :=
    s.machineCheck 0 15 (keyDie (64 * l)) code (unitDpa s.fab.node (64 * l) 64).toNat none
  match s.buf.find? (fun b => decide (b.1 = l)) with
  | none => s
  | some (_, modified) =>
    if corrected then check s 0
    else
      let s := { s with buf := s.buf.filter (fun b => decide (b.1 ≠ l)) }
      if modified then (s.lineUnits l).foldl (fun s (g, u) => s.unitFails .nobody g u) s
      else check s fcUNCORR

/-- FAR_DIE_LOSS: far die f is lost until module reset (R429). -/
def execFarDieLoss (f : BitVec 2) (s : State) : Host.Outcome State Fault Refusal :=
  if s.hub.lostFar.getLsbD f.toNat then .next s
  else
    let s := s.mhub (fun h => { h with lostFar := h.lostFar ||| (1#4 <<< f.toNat) })
    .next ((s.migLost f.toNat).machineCheck 2 18 (13 + f.toNat) fcUNCORR 0 none)

/-- The faults that stand on the focus core and wait to be taken may all be undone by a rollback. -/
def Core.mayRoll (c : Core) : Bool :=
  !c.ctl.late.isEmpty && c.ctl.late.all (fun f => rollable f.code) && c.canRoll none

/-- PHASE_ROLLBACK: faults that a restartable phase may undo are taken by its rollback (R398, R409). -/
def execPhaseRollback (s : State) : Host.Outcome State Fault Refusal :=
  if s.core.mayRoll then .next s.takeLate else .next s

/-- TASK_KILL: a task whose core holds a fault no rollback undoes, or a saved task whose core has been retired, is
killed (R411 to R413, R57). -/
def execTaskKill (tid : Nat) (s : State) : Host.Outcome State Fault Refusal :=
  match s.task? tid with
  | none => .next s
  | some t =>
    if t.st = .saved ∧ (s.getCore t.core).retired then .next (s.killFor fcCORES tid).settle
    else if (s.getCore t.core).task = some tid ∧ !(s.getCore t.core).ctl.late.isEmpty ∧ !(s.getCore t.core).mayRoll then
      .next (s.onCore t.core State.takeLate)
    else .next s

end Sys2Proof.Machine
end

