-- ==== Sys2Proof/Machine/CoreEvents.lean ====
section
/-! DEFINITION. The events of a core (R182 to R194, R265, R266, R292, R381): results, waits, barriers, marks and loop
ends, breaks, load replies and deadlines, and the entry into replay. -/

namespace Sys2Proof.Machine

open Sys2Proof

/-- RESULT_LANDING: the results due take their places, and the errors they meet are consumed (R182, R183, R399). -/
def execResultLanding (s : State) : Host.Outcome State Fault Refusal :=
  .next (s.mc (fun c => c.landDue s.pcyc)).takeLate

def takeLateOf : Host.Outcome State Fault Refusal → Host.Outcome State Fault Refusal
  | .next s => .next s.takeLate
  | o => o

/-- WAIT_END: the focus core's wait ends, or goes on (R292). -/
def execWaitEnd (s : State) : Host.Outcome State Fault Refusal :=
  if s.core.mode = .running then takeLateOf s.waitStep else .next s

/-! ### Barriers (R60, R298, R330) -/

/-- A participant stands at its n-th barrier of the scope, with its commands complete and its accesses performed. -/
def State.arrived (s : State) (sc : BScope) (n tid : Nat) : Bool :=
  match s.task? tid with
  | none => false
  | some t =>
    let c := s.getCore t.core
    decide (t.st = .running) && decide (c.task = some tid) && decide (c.mode = .running) &&
      decide (c.ctl.wait = some (.bsp sc)) && decide (c.bsps.getD (scopeIx sc) 0 = n) && c.engineIdle && !c.accessLeft

/-- BARRIER_RELEASE: every participant has arrived; their shadow writes are published together, and when those have
performed every participant's issue resumes. -/
def execBarrierRelease (sc : BScope) (s : State) : Host.Outcome State Fault Refusal :=
  match s.curTask with
  | none => .next s
  | some t =>
    let ps := s.bspTasks t sc
    let n := s.core.bsps.getD (scopeIx sc) 0
    if ps.isEmpty || !ps.all (s.arrived sc n) then .next s
    else
      let cores := ps.filterMap (fun p => (s.task? p).map Task.core)
      let (s, published) := s.publishOf cores
      .next (if published && ps.all (s.arrived sc n) then cores.foldl (fun s c => s.onCore c State.endWait) s else s)

/-! ### Marks and loop ends (R189, R194, R310, R315) -/

/-- The bundle being issued is a group mark: the count begins anew, a recorded dictionary flip and a loaded control
store take effect. -/
def Core.takeMark (c : Core) : Core :=
  { c with ctl := { c.ctl with mark := false, since := 0, g := false },
           curd := { c.curd with bank := c.curd.bank != c.curd.flip, flip := false },
           csBank := c.csBank != c.csPending, csPending := false }

/-- The latches are empty once the mark's sources have been read, and the writes of operations issued by then are
discarded when they land (R188). -/
def Core.emptyLatches (c : Core) : Core :=
  { c with regs := { c.regs with b := Vector.replicate 8 none },
           ctl := { c.ctl with latchEpoch := c.ctl.latchEpoch + 1 } }

/-- GROUP_MARK: of the bundle being issued. -/
def execGroupMark (s : State) : Host.Outcome State Fault Refusal :=
  if s.core.ctl.g then .next (s.mc (fun c => c.takeMark.emptyLatches)) else .next s

/-- LOOP_END: the LE bits of the bundle being issued act on the active levels (R194 to R196). -/
def execLoopEnd (s : State) : Host.Outcome State Fault Refusal :=
  let s := s.loopEnds [0, 1, 2]
  .next (s.mc (fun c => { c with loops := { c.loops with le := 0 } }))

/-! ### The bundle at the PC (R22, R192) -/

def Loops.holds (l : Loops) (pc : Word) : Bool :=
  match l.outer with
  | some o => o.holds pc
  | none => false

/-- The 64 bytes at the PC: from the loop buffer inside the outermost active body, the instruction buffer, or
memory. -/
def State.bundleAt (s : State) : Fetch :=
  let pc := s.core.ctl.pc
  match (if s.core.loops.holds pc then s.core.loops.held pc else none) with
  | some w => .line w none
  | none =>
    match s.core.ibuf.find? (fun p => decide (p.1 = pc)) with
    | some p => .line p.2 none
    | none => s.fetchLine pc.toNat

/-! ### Debugging (R172, R381) -/

/-- Debugging is enabled for the running task's context. -/
def State.debugged (s : State) : Bool := s.hub.dbgEn && decide (s.core.sys.asid = s.hub.dbgAsid)

/-- A bundle breaks: BRK = 1 of a context under debug, not released for this issue. -/
def State.breaks (s : State) (w : Line) : Bool := s.debugged && w.getLsbD 507 && !s.core.ctl.brkDone.contains s.core.ctl.pc

/-- The core stops before the bundle and reports. -/
def State.stopBreak (s : State) (w : Line) : State :=
  (s.stopFor .brk).mhub (fun h => { h with stops := h.stops ++ [(s.cur, s.core.ctl.pc, w.extractLsb' 496 8)] })

/-- DEBUG_BREAK. -/
def execDebugBreak (s : State) : Host.Outcome State Fault Refusal :=
  if s.core.mode = .running ∧ s.core.ctl.wait = none then
    match s.bundleAt with
    | .line w _ => if s.breaks w then .next (s.stopBreak w) else .next s
    | _ => .next s
  else .next s

def State.dropStop (s : State) (n : Nat) : State :=
  s.mhub (fun h => { h with stops := h.stops.filter (fun p => decide (p.1 ≠ n)) })

/-- DEBUG_RELEASE: the break of the bundle at the PC is ignored for its next issue. -/
def execDebugRelease (s : State) : Host.Outcome State Fault Refusal :=
  if s.core.ctl.wait = some .brk then
    .next ((s.dropStop s.cur).mc (fun c => c.mctl (fun k => { k with wait := none, brkDone := k.pc :: k.brkDone })))
  else .next s

/-- HALT_RELEASE: issue resumes after a HALT that has been reported (R316). -/
def execHaltRelease (core : BitVec 9) (s : State) : Host.Outcome State Fault Refusal :=
  let n := core.toNat
  if (s.getCore n).ctl.wait = some .halt ∧ s.hub.stops.any (fun p => decide (p.1 = n)) then
    .next ((s.dropStop n).onCore n State.endWait)
  else .next s

/-! ### Loads (R265, R266, R346, R422, R441) -/

/-- TRACKER_DEADLINE: cycle t + L of entry n. -/
def execTrackerDeadline (n : BitVec 4) (s : State) : Host.Outcome State Fault Refusal := .next (s.deadline n).takeLate

/-- The pending access whose reply goes to tracker entry n; when there is none, the waiting load. -/
def Core.loadOf (c : Core) (n : BitVec 4) : Option Access :=
  match c.pend.find? (fun a => match a.op with
    | .ldTrack t .. => decide (t = n)
    | .atomic _ _ _ _ (some t) => decide (t = n)
    | _ => false) with
  | some a => some a
  | none => c.pend.find? (fun a => match a.op with
    | .ldWait .. | .ldHandle _ | .ldPcw _ => true
    | _ => false)

/-- This node takes a granted line; a 4,097th makes it return the one that it has held longest (R350). -/
def State.takeLine (s : State) (o : Owned) : State :=
  let mine := s.fab.owned.filter (fun x => x.owner.isNone)
  let put (s : State) : State := s.mfab (fun f => { f with owned := f.owned.filter (fun y => decide (y.dpa ≠ o.dpa)) ++ [o] })
  match (if 4096 ≤ mine.length then mine.head? else none) with
  | some x =>
    let pa : Dpa := BitVec.ofNat 53 x.dpa
    (put (s.mfab (fun f => { f with owned := f.owned.erase x }))).emit ⟨nodeOf pa, 3, laneOf pa, .line x.dpa x.bytes⟩
  | none => put s

/-- A response to an atomic may bring its line, when the access met AP = 1 and RAP = 1 (R349). -/
def State.granted (s : State) (a : Access) (line : List Byte) : State :=
  match a.op, a.tgt with
  | .atomic .., .dpa pa g =>
    if a.rap && decide (line.length = 64) then s.takeLine ⟨pa.toNat / 64 * 64, none, g, line, false⟩ else s
  | _, _ => s

/-- A reply from another node: a load sees its own task's unpublished writes over the value (R328). -/
def State.remoteReply (s : State) (a : Access) (v : Nat) (line : List Byte) : State :=
  match a.op, a.tgt with
  | .atomic .., _ => (s.granted a line).reply a 0 0 v
  | _, .dpa pa _ =>
    let n := a.op.bytes
    s.usedShadow.reply a 0 0 (leNat (s.overlayAt (farPlaces pa n) (leBytes n v)))
  | _, _ => s.reply a 0 0 v

/-- Whether an error reply can reach an access: its request has left the node, or goes to the host (R447). -/
def Access.outside (a : Access) : Bool :=
  a.sent || (match a.tgt with
    | .dpa pa _ => decide (dieCode pa = 13)
    | _ => false)

/-- LOAD_REPLY. -/
def execLoadReply (n : BitVec 4) (v : ReplyVal) (s : State) : Host.Outcome State Fault Refusal :=
  match s.core.loadOf n with
  | none => .next s
  | some a =>
    match v with
    | .local => .next (s.performAcc a).takeLate
    | .remote x line => .next (if a.sent then (s.remoteReply a x.toNat line).takeLate else s)
    | .error code detail => .next (if a.outside ∧ code ≠ 0 then (s.reply a code detail 0).takeLate else s)

/-- WRITE_ACKNOWLEDGEMENT: of a store, an atomic that returns nothing and may be granted its line, or a multicast store
(R346, R349, R354, R423). -/
def execWriteAcknowledgement (n : Nat) (code : BitVec 16) (v : AckVal) (s : State) : Host.Outcome State Fault Refusal :=
  match s.core.pend.find? (fun a => decide (a.id = n)) with
  | none => .next s
  | some a =>
    if a.op.isLoad then .next s
    else if a.sent ∨ (a.outside ∧ code ≠ 0) then
      .next ((if code = 0 then s.granted a v.line else s).reply a code v.detail 0).takeLate
    else .next s

/-- REQUEST_EXPIRY: no response 101 µs after issue (R441). -/
def execRequestExpiry (n : Nat) (s : State) : Host.Outcome State Fault Refusal :=
  match s.core.pend.find? (fun a => decide (a.id = n)) with
  | none => .next s
  | some a => if a.sent ∧ a.born + 101000 ≤ s.ns then .next (s.reply a fcPATH_LOST 1 0).takeLate else .next s

/-- HOST_COMPLETION_TIMEOUT: a CXL.io completion that has not come in 10 ms (R447). -/
def execHostCompletionTimeout (n : Nat) (s : State) : Host.Outcome State Fault Refusal :=
  match s.core.pend.find? (fun a => decide (a.id = n)) with
  | none => .next s
  | some a =>
    if a.outside ∧ !a.sent ∧ a.born + 10000000 ≤ s.ns then .next (s.reply a fcHOST_ERROR 0 0).takeLate else .next s

/-- The registers that the bundle being issued reads and finds poisoned. -/
def Core.owedReads (c : Core) : List SReg := c.poisonedIn (c.ctl.reads.map Prod.snd)

/-- ENTER_REPLAY: a bundle whose checks have passed reads a poisoned register (R266, R469); in replay mode that is
REPLAY, at the first slot that reads one. -/
def execEnterReplay (s : State) : Host.Outcome State Fault Refusal :=
  if s.core.owedReads.isEmpty then .next s
  else if s.core.ctl.replay then
    let slot := ((s.core.ctl.reads.find? (fun p => s.core.readsPoison [p.2])).map Prod.fst).getD 8
    .next (s.takeFault slot fcREPLAY 0)
  else .next (s.enterReplay s.core.owedReads)

end Sys2Proof.Machine
end

