-- ==== Sys2Proof/Machine/HubEvents.lean ====
section
/-! DEFINITION. The events of the hub (R30 to R70, R379, R380, R433), of migration (R88 to R91, R382 to R384), of
reset, boot and power (R376 to R388), and writes of the register block (R5 to R7). -/

namespace Sys2Proof.Machine

open Sys2Proof

/-! ### Launching and dispatching (R31, R45, R51, R380) -/

/-- LAUNCH_PACKET: a 64-byte posted write to BAR2 on the host port (R31, R361). -/
def execLaunchPacket (w : Line) (s : State) : Host.Outcome State Fault Refusal :=
  if s.host.up then .next (s.packet w true) else .next s

/-- MLAUNCH: by the management controller (R380). -/
def execMlaunch (w : Line) (s : State) : Host.Outcome State Fault Refusal := .next (s.packet w false)

/-- DISPATCH_DECISION: a free core receives work (R45 to R52); work that lacks cores reserves them (R48, R49). -/
def execDispatchDecision (core : BitVec 9) (s : State) : Host.Outcome State Fault Refusal :=
  if !s.dispatching then .next s
  else .next (if s.idle core.toNat then s.decide_ core.toNat (s.hub.regs.length + 1) else s.reserve)

/-- REGION_BECOMES_LATE: before its first task is selected (R51). -/
def execRegionBecomesLate (region : Nat) (s : State) : Host.Outcome State Fault Refusal :=
  match s.region? region with
  | none => .next s
  | some u =>
    if u.isUnit && s.pastDue u && !u.late && decide (u.st ≠ 3) &&
        (s.leavesOf u).all (fun r => decide (r.tstart = 0)) then .next (s.makeLate u) else .next s

/-- ENTRY_AVAILABLE: entries of a task whose ENQ and earlier accesses have performed (R43). -/
def execEntryAvailable (task : Nat) (s : State) : Host.Outcome State Fault Refusal := .next (s.entriesReady task)

/-! ### Pre-emption (R54 to R57) -/

/-- PREEMPTION_REQUEST: the hub's request reaches a core (R54, R55). -/
def execPreemptionRequest (core : BitVec 9) (s : State) : Host.Outcome State Fault Refusal :=
  if s.mayPreempt core.toNat then .next (s.askPreempt core.toNat) else .next s

/-- Errors that the save microcode would read: in the memories it saves, the rows, the registers and the weight blocks
(R399, R420). -/
def Core.saveMarks (c : Core) (spadb sideb : Nat) : Option FC :=
  let f := match c.yieldF with
    | some f => min f spadb
    | none => spadb
  ((c.marks.find? (fun m => match m with
    | .spad w => decide (8 * w < f)
    | .side w => decide (8 * w < sideb)
    | _ => true)).map Mark.consumed).or
    (if c.eng.blk.bad || c.eng.standby.bad then some ⟨fcUNCORR, 4, some ⟨none, 2⟩⟩ else none)

/-- STATE_SAVE: of the halted core in focus, when a rollback under way has come to its step 4; an uncorrectable error the
microcode meets is consumed with SLOT 13, and the phase that a rollback restores is saved in its turn, over what is still
marked (R55, R56, R420). -/
def execStateSave (s : State) : Host.Outcome State Fault Refusal :=
  if !s.core.saveable || s.core.rolling then .next s
  else
    match (if s.core.saveOver then none else s.core.saveMarks s.spadb s.sideb) with
    | some f =>
      let t := s.takeFaults none [{ s.opInfo 13 f.code f.detail with saw := f.saw }]
      .next (if t.core.task = s.core.task then t.mc (fun c => { c with saveOver := true }) else t)
    | none => .next (s.saveCore s.cur)

/-- TASK_RESUME: a task saved on the core in focus begins to resume, with its gang or together region; the restore of one
that is resuming there completes (R57, R58). -/
def execTaskResume (s : State) : Host.Outcome State Fault Refusal :=
  if s.core.mode = .resuming then
    match (s.savedOn s.cur).find? (fun v => decide (some v.task = s.core.task)) with
    | some v => .next (s.restoreTask v)
    | none => .next s
  else
    match bestBy (fun a b => decide (s.taskKey a.task < s.taskKey b.task)) ((s.savedOn s.cur).filter s.resumable) with
    | some v => .next (s.resumeTask v)
    | none => .next s

/-! ### Completion and rings (R62 to R69, R433) -/

/-- REGION_COMPLETE (R62). -/
def execRegionComplete (region : Nat) (s : State) : Host.Outcome State Fault Refusal := .next (s.completeRegion region)

/-- The held record that is written next leaves the queue. -/
def State.writeNext (s : State) : State :=
  match s.nextRec with
  | none => s
  | some r => (s.mhub (fun h => { h with recs := h.recs.erase r })).recWrite r

/-- COMPLETION_RECORD_WRITE: a held record whose ring has room and whose writes have performed (R65, R68). -/
def execCompletionRecordWrite (s : State) : Host.Outcome State Fault Refusal := .next s.writeNext

/-- COALESCE_TIMER_EXPIRY (R67). -/
def execCoalesceTimerExpiry (ring : BitVec 8) (s : State) : Host.Outcome State Fault Refusal :=
  .next (s.coalesce ring true)

/-- A write to BAR0 takes effect from step 5 of the boot on (R377). -/
def State.ifReady (s : State) (f : State → State) : State := if s.hub.stage = 5 then f s else s

/-- CTAIL_WRITE (R68, R433). -/
def execCtailWrite (ring : BitVec 8) (v : BitVec 32) (s : State) : Host.Outcome State Fault Refusal :=
  .next (s.ifReady (fun s => s.ctail ring v))

/-- RING_ENABLE_WRITE (R69). -/
def execRingEnableWrite (ring : BitVec 8) (en : Bool) (s : State) : Host.Outcome State Fault Refusal :=
  .next (s.ifReady (fun s => s.ringEnable ring en))

/-! ### Migration (R88 to R91, R382 to R384) -/

/-- MIGRATION_REQUEST. -/
def execMigrationRequest (s : State) : Host.Outcome State Fault Refusal := .next s.migTake

/-- MIGRATION_COPY_START. -/
def execMigrationCopyStart (n : Nat) (s : State) : Host.Outcome State Fault Refusal := .next (s.migStart n)

/-- MIGRATION_COPY_DONE. -/
def execMigrationCopyDone (n : Nat) (s : State) : Host.Outcome State Fault Refusal := .next (s.migFinish n)

/-- DWELL_EXPIRY. -/
def execDwellExpiry (n : Nat) (s : State) : Host.Outcome State Fault Refusal := .next (s.migIdle n)

/-- HOST_MIGRATION_REQUEST: the host writes word 0 of MIGREQ i (R384). -/
def execHostMigrationRequest (i : BitVec 2) (w : Word) (s : State) : Host.Outcome State Fault Refusal :=
  .next (s.regWrite .host (0x300 + 32 * i.toNat) 8 w)

/-- PADD: the host appends a frame to a pool (R383). -/
def execPadd (pool : BitVec 3) (w : Word) (s : State) : Host.Outcome State Fault Refusal :=
  .next (s.regWrite .host (0x110 + 32 * pool.toNat) 8 w)

/-! ### Registers (R5 to R7, R336, R374) -/

/-- REGISTER_WRITE: an access of 1, 2, 4 or 8 bytes inside one word of the block; the host's come over its port. -/
def execRegisterWrite (a : Agent) (off : BitVec 18) (size : Nat) (v : Word) (s : State) :
    Host.Outcome State Fault Refusal :=
  if (size = 1 ∨ size = 2 ∨ size = 4 ∨ size = 8) ∧ off.toNat % size = 0 ∧ (a = .host → s.host.up) then
    .next (s.regWrite a off.toNat size v)
  else .next s

/-! ### Reset and boot (R376 to R379, R419, R451) -/

/-- MODULE_RESET. -/
def execModuleReset (s : State) : Host.Outcome State Fault Refusal := .next s.resetAll

/-- Measurement indices that a boot step records (R377). -/
def bootMeasures (step : Nat) : List Nat :=
  match step with
  | 0 => [1]
  | 2 => [2, 3, 4, 5]
  | 3 => [6, 7]
  | _ => []

/-- The boot step under way: step 0 until the boot ROM has run, then the one after the last complete. -/
def Hub.bootStep (h : Hub) : Nat := if h.rom then h.stage.toNat + 1 else 0

/-- What index 7 measures: SECCL, the near-die region tables and the fused key hash (R378). -/
def Hub.secureConfig (h : Hub) : List Byte :=
  h.seccl :: h.regions.toList.flatMap (fun e => leBytes 8 e.toNat) ++ Config.keyHash

/-- The secure boot root writes SECCL and the region tables from the verified configuration (R369, R370, R377). -/
def Hub.configure (h : Hub) : Hub :=
  { h with seccl := Config.seccl, regions := Vector.ofFn (fun i => Config.region i.val &&& 0x8000000FFFFFFFFF) }

/-- A boot step measures what it has verified and loaded. -/
def Hub.measure (h : Hub) (step : Nat) : Hub :=
  { h with measures := (bootMeasures step).foldl (fun m i => m.setIfInBounds i
      (digest (if i = 7 then h.secureConfig else Config.image i))) h.measures }

/-- BOOT_STEP: the next step completes; or an image of it, on die `bad`, fails its signature and the boot stops (R377,
R378, R451). BOOTST shows 0 both before step 0 is complete and after it. -/
def execBootStep (bad : Option (BitVec 5)) (s : State) : Host.Outcome State Fault Refusal :=
  let n := s.hub.bootStep
  if s.hub.bootFailed ∨ s.hub.fatal ∨ 5 < n then .next s
  else
    match (if (bootMeasures n).isEmpty then none else bad) with
    | some die =>
      let s := s.mhub (fun h => { h with bootFailed := true })
      .next (if n = 0 then s else s.machineCheck 3 13 die.toNat 0 0 none)
    | none => .next (s.mhub (fun h =>
        let h := (if n = 3 then h.configure else h).measure n
        if n = 0 then { h with rom := true } else { h with stage := h.stage + 1 }))

/-- DIE_RESET_REQUEST: the host sets DRST bits, once the module is ready (R377, R379). -/
def execDieResetRequest (mask : BitVec 4) (s : State) : Host.Outcome State Fault Refusal :=
  .next (s.ifReady (fun s => s.setDrst (s.hub.drst ||| mask)))

/-- A task that holds die d: running, halting, saved or resuming there. -/
def State.dieBusy (s : State) (d : Nat) : Bool :=
  s.hub.tasks.any (fun t => t.st.live && decide (dieOf t.core = d)) ||
    (s.coresOn d).any (fun n => !(s.getCore n).pend.isEmpty || !(s.getCore n).port.isEmpty)

/-- A core of a die in reset: at its reset state, but for what outlasts the reset. -/
def Core.inReset (c : Core) : Core :=
  { Core.reset with retired := c.retired, checks := c.checks, nextAcc := c.nextAcc,
                    eng := { Engines.reset with nextCmd := c.eng.nextCmd } }

/-- DIE_ENTERS_RESET: DRST set and no live task (R379). -/
def execDieEntersReset (d : BitVec 2) (s : State) : Host.Outcome State Fault Refusal :=
  let n := d.toNat
  if s.drst n && !s.din n && !s.dieBusy n then
    let s := (s.coresOn n).foldl (fun s c => s.modCore c Core.inReset) s
    .next ({ s with tlb := s.tlb.filter (fun t => decide (t.die ≠ n)) }.mhub (fun h => { h with din := h.din ||| (1#4 <<< n) }))
  else .next s

/-- The weight store of another die out of reset, by number. -/
def State.otherStore (s : State) (d : Nat) : Option Nat :=
  (List.range 4).find? (fun x => decide (x ≠ d) && !s.din x)

/-- DIE_RELEASE: DRST cleared; the self-test of a contained die, the weight-store copy, and the die is out of reset
(R379, R419). -/
def execDieRelease (d : BitVec 2) (selfTest : Bool) (s : State) : Host.Outcome State Fault Refusal :=
  let n := d.toNat
  let off : BitVec 4 := ~~~(1#4 <<< n)
  let s := s.mhub (fun h => { h with drst := h.drst &&& off })
  if !s.din n then .next s
  else if s.hub.rind.getLsbD n && !selfTest then
    .next ((s.mhub (fun h => { h with failedTest := h.failedTest ||| (1#4 <<< n) })).machineCheck 2 19 n fcCONTAINED 0 none)
  else
    let own : List (Nat × Nat) := s.wmarks.filter (fun p => decide (p.1 ≠ n))
    let s : State := match s.otherStore n with
      | some x => { s with wstore := s.wstore.setIfInBounds n (s.wstore.getD x []),
                           wmarks := own ++ (own.filter (fun p => decide (p.1 = x))).map (fun p => (n, p.2)) }
      | none => if s.hub.wLost.getLsbD n then { s with wstore := s.wstore.setIfInBounds n [], wmarks := own } else s
    let s := (s.coresOn n).foldl (fun s c => s.modCore c Core.inReset) s
    .next (s.mhub (fun h => { h with din := h.din &&& off, rind := h.rind &&& off, wLost := h.wLost &&& off }))

/-! ### Power and clock (R385 to R388) -/

/-- No launch is pending or running. -/
def State.noLaunch (s : State) : Bool := s.hub.regs.all (fun r => decide (r.st = 3)) && s.hub.inbox.isEmpty

/-- STANDBY_REQUEST: STBY is set and the idle module begins to enter standby; once entering, it enters, unless work has
come (R387). -/
def execStandbyRequest (s : State) : Host.Outcome State Fault Refusal :=
  let s := s.ifReady (fun s => s.mhub (fun h => { h with stby := true }))
  if !s.hub.stby then .next s
  else if s.hub.pst = 0 ∧ s.noLaunch then .next (s.mhub (fun h => { h with pst := 2 }))
  else if s.hub.pst = 2 then
    .next (if s.noLaunch then s.mhub (fun h => { h with pst := 1, clk := 3 }) else s.mhub (fun h => { h with pst := 0 }))
  else .next s

/-- An access that wakes the module. -/
def State.wake (s : State) : State :=
  if s.hub.pst = 1 ∨ s.hub.pst = 2 then s.mhub (fun h => { h with pst := 3 }) else s

/-- STANDBY_WAKE: the wake begins, and then ends (R387). -/
def execStandbyWake (s : State) : Host.Outcome State Fault Refusal :=
  if s.hub.pst = 3 then .next (s.mhub (fun h => { h with pst := 0 })) else .next s.wake

/-- A condition of R386 holds for the clock to step now. -/
def State.stepDue (s : State) (t : Option Nat) : Bool := t.any (fun t => decide (t ≤ s.ns))

/-- CLOCK_STEP_DOWN: power above PLIM, or a die at 95 °C, and again after each further 1 ms of it (R386). -/
def execClockStepDown (s : State) : Host.Outcome State Fault Refusal :=
  if s.stepDue s.hub.hotAt then
    .next (s.mhub (fun h => { h with clk := if h.clk = 3 then 3 else h.clk + 1, hotAt := some (s.ns + 1000000) }))
  else .next s

/-- CLOCK_STEP_UP: after 10 ms below PLIM − 100 W and 90 °C (R386); in standby the clock stays at step 3 (R387). -/
def execClockStepUp (s : State) : Host.Outcome State Fault Refusal :=
  if s.stepDue s.hub.coolAt ∧ s.hub.pst ≠ 1 then
    .next (s.mhub (fun h => { h with clk := if h.clk = 0 then 0 else h.clk - 1, coolAt := some (s.ns + 10000000) }))
  else .next s

/-- TIME_SYNC: a step forward at first training, then a slew of at most 1 ns a µs; DTIME never falls (R388). -/
def execTimeSync (ref : Word) (s : State) : Host.Outcome State Fault Refusal :=
  let r := ref.toNat
  if s.fab.node = 0 then .next s
  else if !s.fab.trained then
    let s := s.mfab (fun f => { f with trained := true, syncAt := max s.ns r })
    .next { s with dsub := if s.ns < r then 189 * r else s.dsub }
  else if s.ns < s.fab.syncAt + 1000 then .next s
  else
    let s := s.mfab (fun f => { f with syncAt := s.ns })
    if s.ns < r then .next { s with dsub := s.dsub + 189 }
    else if r < s.ns then .next (s.mfab (fun f => { f with slow := f.slow + 189 }))
    else .next s

/-! ### The host port and SPDM (R360, R371, R373, R447) -/

/-- HOST_PORT_DOWN. -/
def execHostPortDown (s : State) : Host.Outcome State Fault Refusal :=
  .next (s.mhost (fun h => { h with up := false, ide := false, spdm := false }))

/-- HOST_PORT_TRAINING. -/
def execHostPortTraining (s : State) : Host.Outcome State Fault Refusal := .next (s.mhost (fun h => { h with up := true }))

/-- The measurement that a GET_MEASUREMENTS names (R378). -/
def State.measurement (s : State) (i : Nat) : List Byte :=
  if i = 8 then leBytes 8 s.hub.wcslds
  else if 1 ≤ i ∧ i ≤ 7 then leBytes 32 (s.hub.measures.getD i 0).toNat
  else []

/-- SPDM_REQUEST: the answer, and what it changes: KEY_EXCHANGE opens a session, FINISH sets up its keys and with them
IDE, END_SESSION ends it (R371, R373). -/
def execSpdmRequest (r : SpdmReq) (s : State) : Host.Outcome State Fault Refusal :=
  let (k, s) := s.draw
  let body := match r with
    | .getMeasurements i => s.measurement i
    | _ => []
  let s := s.mhost (fun h => { h with responses := h.responses ++ [Config.spdmResponse k ++ body] })
  .next (match r with
    | .keyExchange => s.mhost (fun h => { h with spdm := true })
    | .finish ok => s.mhost (fun h => { h with spdm := h.spdm && ok, ide := h.ide || (h.spdm && ok) })
    | .endSession => s.mhost (fun h => { h with spdm := false })
    | _ => s)

end Sys2Proof.Machine
end

