-- ==== Sys2Proof/Machine/FabricEvents.lean ====
section
/-! DEFINITION. The events of the Troluand fabric (R337 to R357, R439 to R446) and of the host's CXL.mem accesses (R363
to R366, R448). -/

namespace Sys2Proof.Machine

open Sys2Proof

/-! ### Flits and links (R341 to R344, R439, R440) -/

/-- The node at the other end of a port, by the dimension PORTMAP gives it. -/
def State.neighbour (s : State) (p : Nat) : BitVec 10 :=
  let d := (s.fab.portmap.extractLsb' (4 * p) 4).toNat
  if d < 10 then s.fab.node ^^^ BitVec.ofNat 10 (2 ^ d) else s.fab.node

/-- A flit that fails its CRC is discarded, and the neighbour is asked to replay what follows the last SEQ taken (R439). -/
def State.askRetry (s : State) (p : Nat) : State :=
  (s.countRetry.mfab (fun b => b.setPort p { b.port p with asked := true })).emit
    ⟨s.neighbour p, 7, 0, .retry p (s.fab.port p).rxSeq⟩

/-- An idle flit goes out of port p, with the ACK of what it has received. -/
def State.idleOut (s : State) (p : Nat) : State := s.mfab (fun b => b.setPort p (Port.send (b.port p) idleFlit))

/-- A request that reaches a node on its way after its expiry: `Config.expiryOf` reads it from a head's payload, whose layout
no program sees (R342, R441). -/
def State.flitLate (s : State) (f : Flit) : Bool :=
  decide (f.dst ≠ s.fab.node) && decide (f.vc.toNat ≤ 1) && (decide (f.kind = 1) || decide (f.kind = 4)) &&
    decide (Config.expiryOf f.payload < s.ns)

/-- A flit in its turn takes a slot of the receiver; one of a message that is discarded gives its slot back at once (R441). -/
def State.admitFlit (s : State) (x : Port) (f : Flit) : Port :=
  let drop := s.flitLate f || (x.skip.contains f.vc && (decide (f.kind = 2) || decide (f.kind = 3)))
  let skip := x.skip.filter (fun v => decide (v ≠ f.vc) || (drop && decide (f.kind = 2)))
  if f.kind = 0 then x
  else if drop then { x with skip := if f.kind = 1 then f.vc :: skip else skip,
                             owe := x.owe.setIfInBounds f.vc.toNat (x.owe.getD f.vc.toNat 0 + 1) }
  else { x with skip := skip, rx := x.rx ++ [f] }

/-- FLIT_RECEIVE (R343, R439). From a flit that fails its CRC on, everything is discarded until the replay arrives, which the
next SEQ in turn tells; a SEQ that has been taken before brings its ACK alone. KIND 5 to 7 are reserved and R342 states no
outcome for them: DESIGN CHOICE, such a flit is taken and sent on like any that is not idle. -/
def execFlitReceive (port : BitVec 4) (f : Flit) (s : State) : Host.Outcome State Fault Refusal :=
  let p := port.toNat
  let x := s.fab.port p
  if 12 ≤ p ∨ !x.up then .next s
  else if !Flit.intact f then .next (if x.asked then s else s.askRetry p)
  else
    let y := { Port.acked x f.ack with rxn := x.rxn + 1 }
    let put (x : Port) : State := s.mfab (fun b => b.setPort p x)
    if f.kind = 0 ∧ f.cinc = 0 then .next (if x.asked then s else put y)
    else if f.seq ≠ x.rxSeq + 1 then .next (if (x.rxSeq - f.seq).toNat < 2048 then put y else s)
    else
      let v := f.cvc.toNat
      let x := s.admitFlit { y with rxSeq := f.seq, asked := false,
                                    credit := y.credit.setIfInBounds v (y.credit.getD v 0 + f.cinc.toNat) } f
      let s := (put x).pump
      .next (if (s.fab.port p).tx = x.tx then s.idleOut p else s)

/-- LINK_RETRY: the receiver names the last SEQ it took, and what follows is replayed (R439). -/
def execLinkRetry (port : BitVec 4) (seq : BitVec 12) (s : State) : Host.Outcome State Fault Refusal :=
  let p := port.toNat
  if 12 ≤ p ∨ !(s.fab.port p).up then .next s
  else
    let s := s.mfab (fun b =>
      let x := Port.acked (b.port p) seq
      b.setPort p (if x.retry.isEmpty then x else Port.replay x))
    .next s.countRetry

/-- A port retrains: the flits held that it has not acknowledged are discarded, and the neighbour is told the free slots of each
channel (R440). -/
def Port.retrained (p : Port) (credit : List (BitVec 6)) : Port :=
  let told := (p.last.map Flit.ack).getD 0
  let rx := p.rx.filter (fun f => decide ((told - f.seq).toNat < 2048))
  { p with rx := rx, rxSeq := told, asked := false, owe := Vector.replicate 8 0,
           credit := Vector.ofFn (fun (i : Fin 8) => (credit.getD i.val 0).toNat) }

def Port.freeSlots (p : Port) : List Nat :=
  (List.range 8).map (fun v => 48 - p.rx.countP (fun f => decide (f.vc.toNat = v)))

/-- LINK_RETRAIN: after 8 replays of a flit; with success each side tells its free slots, the neighbour's are the new credits,
and the unacknowledged flits go out again; three failures within 1 ms bring the link down (R440). -/
def execLinkRetrain (port : BitVec 4) (ok : Bool) (free : List (BitVec 6)) (s : State) :
    Host.Outcome State Fault Refusal :=
  let p := port.toNat
  let x := s.fab.port p
  if 12 ≤ p ∨ !x.up ∨ !Port.worn x then .next s
  else
    let s := s.machineCheck 0 17 4 0 p none
    if ok then
      let y := Port.retrained x free
      .next (s.mfab (fun b => { b.setPort p { Port.replay y with tries := [] } with
        sent := b.sent ++ [⟨s.neighbour p, 7, 0, .counts p (Port.freeSlots y)⟩] })).pump
    else
      let fails := s.ns :: x.failedTrains.filter (fun t => decide (s.ns < t + 1000000))
      if fails.length < 3 then .next (s.mfab (fun b => b.setPort p { x with failedTrains := fails }))
      else
        let s := s.mfab (fun b => b.setPort p { x with
          up := false, down := true, retry := [], tries := [], failedTrains := [] })
        .next (s.machineCheck 1 17 4 fcPATH_LOST p none)

/-- LINK_TRAINING: a port trains once NODE and NDIM are set; every count is 48 (R344, R377). One that three failed retrains have
brought down waits for software to relabel it (R440). -/
def execLinkTraining (port : BitVec 4) (s : State) : Host.Outcome State Fault Refusal :=
  let p := port.toNat
  if 12 ≤ p ∨ s.fab.ndim = 0 ∨ (s.fab.port p).down then .next s
  else
    let x := s.fab.port p
    .next (s.mfab (fun b => b.setPort p { Port.reset with
      up := true, credit := Vector.replicate 8 48, tx := x.tx, rxn := x.rxn })).pump

/-! ### Requests of other nodes (R346, R347, R349, R350, R438, R441 to R443) -/

/-- The home recalls the lines of n bytes at pa that other nodes own, each once. -/
def State.recallAt (s : State) (pa : Dpa) (n : Nat) : State :=
  (s.fab.owned.filter (fun o => !o.recalled && decide (o.dpa < pa.toNat + n) && decide (pa.toNat < o.dpa + 64))).foldl (fun s o =>
    match o.owner with
    | some q =>
      (s.mfab (fun f => { f with owned := f.owned.map (fun x => if x = o then { x with recalled := true } else x) })).emit
        ⟨q, 3, laneOf (BitVec.ofNat 53 o.dpa), .recall o.dpa⟩
    | none => s) s

/-- What this node refuses to another: host memory, registers, coordinates beyond NDIM, secure memory (R443). -/
def State.foreignRefused (s : State) (g : BitVec 2) (pa : Dpa) (n : Nat) : Bool :=
  decide (13 ≤ dieCode pa) || decide (2 ^ s.fab.ndim.toNat ≤ (nodeOf pa).toNat) || s.secureBad false g pa n

/-- A write by no task of this module: the host sees it at once (R333). The answer names a unit that it left as it was. -/
def State.plainWrite (s : State) (g : BitVec 2) (pa : Dpa) (bs : List Byte) : State × Option Dpa :=
  if s.farLost pa then (s, some pa) else (s.dropOld (keysOf g pa bs.length)).store .outside g pa bs

def RemoteKind.bytes : RemoteKind → Nat
  | .read n => n
  | .write bs => bs.length

/-- A request that has reached its home performs, and is answered. -/
def State.remoteNow (s : State) (r : RemoteReq) : State :=
  let reply (s : State) (code detail : BitVec 16) (v : Nat) : State := s.answer r.src (laneOf r.dpa) code detail v
  if r.expiry < s.ns then s
  else if s.farLost r.dpa then reply s fcUNCORR 16 0
  else
    match r.kind with
    | .read n =>
      (match s.memRead r.gran r.dpa n with
      | (bs, none) => reply (s.hasRead .outside r.gran r.dpa n) 0 0 (leNat bs)
      | (_, some u) => reply (s.hasRead .outside r.gran r.dpa n) fcUNCORR (unitDetail r.gran u) 0)
    | .write bs =>
      (match s.plainWrite r.gran r.dpa bs with
      | (s, none) => reply s 0 0 0
      | (s, some u) => reply s fcUNCORR (unitDetail r.gran u) 0)

/-! ### Remote atomics and line ownership (R347 to R351) -/

/-- The contention counter of a frame. -/
def State.counter (s : State) (frame : Nat) : Nat :=
  (((s.fab.counters.find? (fun p => decide (p.1 = frame))).map Prod.snd).getD 0).toNat

def State.setCounter (s : State) (frame c : Nat) : State :=
  let new := if c = 0 then [] else [(frame, BitVec.ofNat 8 c)]
  s.mfab (fun f =>
    { f with counters := new ++ f.counters.filter (fun p => decide (p.1 ≠ frame)) })

def frameOf (pa : Dpa) : Nat := pa.toNat / 2 ^ 18

/-- Counters are kept by near dies. -/
def nearHome (pa : Dpa) : Bool := decide (dieCode pa ≤ 8)

def atomBytes (a : RemoteAtom) : Nat := if a.eight then 8 else 4

/-- The error that has lost the value of an atomic is recorded, with a free UNIT, as the manual names none (R406, R442). -/
def State.replyLost (s : State) : State :=
  let (k, s) := s.draw
  (s.mfab (fun f => { f with replyLost := false })).machineCheck 1 ((Config.freeByte (Nat.pair k 20)).toNat % 20) 4 fcUNCORR 0 none

/-- Step 3 of R349, and step 4: with `grant`, the line goes to its new owner beside the response. -/
def State.atomDo (s : State) (a : RemoteAtom) (grant : Bool) : State :=
  let n := (atomBytes a)
  let lane := laneOf a.dpa
  match s.memRead a.gran a.dpa n with
  | (_, some u) =>
    (s.hasRead .outside a.gran a.dpa n).answer a.src lane fcUNCORR (unitDetail a.gran u) 0
  | (bs, none) =>
    let old := leNat bs
    let m := 2 ^ (8 * n)
    let s := (s.plainWrite a.gran a.dpa (leBytes n (atomNew a.op (8 * n) old (a.v.toNat % m) (a.cmp.toNat % m)))).1
    let line := a.dpa.toNat / 64 * 64
    if s.fab.replyLost then s.replyLost.answer a.src lane fcATOMIC_APPLIED 0 0
    else
    let s := if grant then s.mfab (fun f => { f with owned := f.owned ++ [⟨line, some a.src, a.gran, [], false⟩] }) else s
    let s := s.answer a.src lane 0 0 old
    if grant then s.emit ⟨a.src, 3, lane, .grant line (s.dpaRead a.gran (BitVec.ofNat 53 line) 64)⟩ else s

/-- Steps 3 to 5 of R349, for an atomic that met the counter at c. -/
def State.atomNow (s : State) (a : RemoteAtom) (c : Nat) : State :=
  if a.expiry < s.ns then s
  else if s.farLost a.dpa then s.answer a.src (laneOf a.dpa) fcUNCORR 16 0
  else
    let thr := s.fab.cthresh.toNat
    let s := s.atomDo a (nearHome a.dpa && a.rap && decide (c < thr) && decide (a.src ≠ s.fab.node))
    if nearHome a.dpa ∧ c = thr then s.recallAt (BitVec.ofNat 53 (frameOf a.dpa * 2 ^ 18)) (2 ^ 18) else s

/-! ### Requests held at their home (R327, R340, R346, R350) -/

/-- Source, class and lane: what they share performs in order. -/
def Held.key : Held → BitVec 10 × Cls × BitVec 4
  | .req r => (r.src, r.cls, laneOf r.dpa)
  | .atom a _ => (a.src, a.cls, laneOf a.dpa)

def Held.span : Held → Dpa × Nat
  | .req r => (r.dpa, RemoteKind.bytes r.kind)
  | .atom a _ => (a.dpa, (atomBytes a))

/-- A request performs, or waits: while the router is quiesced, behind an earlier one of its source, class and lane, or for
its line. -/
def State.receive (s : State) (h : Held) : State :=
  let wait (s : State) : State := s.mfab (fun f => { f with held := f.held ++ [h] })
  if s.fab.fq || s.fab.held.any (fun x => decide (x.key = h.key)) then wait s
  else if s.lineAway h.span.1 h.span.2 then wait (s.recallAt h.span.1 h.span.2)
  else match h with
    | .req r => s.remoteNow r
    | .atom a c => s.atomNow a c

/-- Requests held at this home are admitted anew, in the order they came. -/
def State.serveHeld (s : State) : State := s.fab.held.foldl State.receive (s.mfab (fun f => { f with held := [] }))

/-- REMOTE_REQUEST: refused, held, or performed. -/
def execRemoteRequest (r : RemoteReq) (s : State) : Host.Outcome State Fault Refusal :=
  let n := RemoteKind.bytes r.kind
  let s := s.wake
  if r.expiry < s.ns then .next s
  else if s.foreignRefused r.gran r.dpa n then .next (s.answer r.src (laneOf r.dpa) fcREMOTE_REFUSED 0 0)
  else if (keysOf r.gran r.dpa n).length < n then .fault .noSuchMemory
  else .next (s.receive (.req r))

/-- REMOTE_ATOMIC: step 1 of R349 counts it on its arrival. -/
def execRemoteAtomic (a : RemoteAtom) (s : State) : Host.Outcome State Fault Refusal :=
  let s := s.wake
  if a.expiry < s.ns then .next s
  else if s.foreignRefused a.gran a.dpa (atomBytes a) then .next (s.answer a.src (laneOf a.dpa) fcREMOTE_REFUSED 0 0)
  else if (keysOf a.gran a.dpa (atomBytes a)).length < (atomBytes a) then .fault .noSuchMemory
  else
    let c := min (s.counter (frameOf a.dpa) + 1) 255
    .next ((if nearHome a.dpa then s.setCounter (frameOf a.dpa) c else s).receive (.atom a c))

/-- LINE_RECALL: a line this node owns goes back to its home; a line of this home is asked back (R350). -/
def execLineRecall (line : Nat) (s : State) : Host.Outcome State Fault Refusal :=
  let pa : Dpa := BitVec.ofNat 53 line
  match s.fab.owned.find? (fun o => decide (o.dpa = line)) with
  | none => .next s
  | some o =>
    match o.owner with
    | none => .next ((s.mfab (fun f => { f with owned := f.owned.erase o })).emit ⟨nodeOf pa, 3, laneOf pa, .line line o.bytes⟩)
    | some _ => .next (s.recallAt pa 1)

/-- The units of a line that its owner could not return are poisoned, with a machine check of severity 1 (R425, R442). -/
def State.poisonLine (s : State) (o : Owned) : State :=
  (unitKeys o.g (BitVec.ofNat 53 o.dpa) 64).foldl (fun s u => s.unitFails .outside o.g u) s

/-! ### Host CXL.mem accesses (R363 to R366, R448, R450) -/

/-- The enabled window that holds n bytes at an HDM offset. -/
def State.hdmWindow (s : State) (hdm n : Nat) : Option Window :=
  s.host.windows.toList.find? (fun w => w.en && decide (w.hdmoff.toNat * 2 ^ 18 ≤ hdm) &&
    decide (hdm + n ≤ (w.hdmoff.toNat + w.len.toNat) * 2 ^ 18))

/-- The DPA that an HDM offset reaches in a window. -/
def hdmDpa (w : Window) (hdm : Nat) : Dpa := dpaAdd w.dbase (hdm - w.hdmoff.toNat * 2 ^ 18)

/-- The machine check of R448. -/
def State.hdmCheck (s : State) (hdm : Nat) : State := s.machineCheck 0 18 4 fcHOST_ERROR hdm none

def State.hostAnswer (s : State) (bs : List Byte) (bad : Bool) : State :=
  s.mhost (fun h => { h with answers := h.answers ++ [(bs, bad)] })

def HostMem.hdm : HostMem → Nat
  | .read hdm _ | .write hdm _ => hdm.toNat

def HostMem.bytes : HostMem → Nat
  | .read _ n => n
  | .write _ bs => bs.length

/-- An access that the module does not serve: a read is answered with ones and poison, a write is dropped. -/
def State.hostRefuse (s : State) (h : HostMem) : State :=
  let s := s.hdmCheck h.hdm
  match h with
  | .read _ n => s.hostAnswer (List.replicate n 0xFF) true
  | .write .. => s

/-- An access whose line is here: the published version of the bytes for a read (R364), a write at the home (R366). -/
def State.hostServe (s : State) (g : BitVec 2) (pa : Dpa) (h : HostMem) : State :=
  match h with
  | .read hdm n =>
    let bs := (keysOf g pa n).map (s.hostView g)
    (match (unitsOf g pa n).find? (s.unitBad g) with
    | some _ => ((s.hasRead .outside g pa n).hdmCheck hdm.toNat).hostAnswer bs true
    | none => (s.hasRead .outside g pa n).hostAnswer bs false)
  | .write _ bs => (s.plainWrite g pa bs).1

/-- A host access is refused, waits for its line or behind those that wait, or is served. A window outside the secure world
is refused secure memory with the check of R450 besides; that the host then gets what R448 gives for a secure window is a
DESIGN CHOICE, and so is the same answer where a window's DBASE bears another node's coordinate (R337). -/
def State.hostMem (s : State) (h : HostMem) : State :=
  match s.hdmWindow h.hdm h.bytes with
  | none => s.hostRefuse h
  | some w =>
    let pa := hdmDpa w h.hdm
    if (w.sec && !s.host.ide) || decide (nodeOf pa ≠ s.fab.node) then s.hostRefuse h
    else if s.secureBad w.sec w.g pa h.bytes then (s.refusalCheck fcPERM w.g pa).hostRefuse h
    else if !s.host.waiting.isEmpty || s.lineAway pa h.bytes then
      (if s.host.waiting.isEmpty then s.recallAt pa h.bytes else s).mhost (fun p => { p with waiting := p.waiting ++ [h] })
    else s.hostServe w.g pa h

/-- An access that reaches an offset beyond its die's range names no memory. -/
def State.hostHole (s : State) (h : HostMem) : Bool :=
  match s.hdmWindow h.hdm h.bytes with
  | some w => decide (nodeOf (hdmDpa w h.hdm) = s.fab.node) && decide ((keysOf w.g (hdmDpa w h.hdm) h.bytes).length < h.bytes)
  | none => false

def State.hostAccess (s : State) (h : HostMem) : Host.Outcome State Fault Refusal :=
  if !s.host.up then .next s
  else if s.hostHole h then .fault .noSuchMemory
  else .next (s.wake.hostMem h)

/-- HOST_WINDOW_READ. -/
def execHostWindowRead (hdm : BitVec 40) (n : Nat) (s : State) : Host.Outcome State Fault Refusal := s.hostAccess (.read hdm n)

/-- HOST_WINDOW_WRITE. -/
def execHostWindowWrite (hdm : BitVec 40) (bytes : List Byte) (s : State) : Host.Outcome State Fault Refusal :=
  s.hostAccess (.write hdm bytes)

/-- Host accesses that wait are tried anew, in order. -/
def State.serveHost (s : State) : State := s.host.waiting.foldl State.hostMem (s.mhost (fun h => { h with waiting := [] }))

/-! ### Lines that come back (R350, R442) -/

/-- The home writes a line that its owner returns. Other nodes' atomics have written each 4-byte word of it that differs, which
the host sees whole at once; whether one that does not differ has been written too is free; the versions of the others stay
(R333, R350). -/
def State.writeBack (s : State) (o : Owned) (bytes : List Byte) : State :=
  let pa : Dpa := BitVec.ofNat 53 o.dpa
  let ks := keysOf o.g pa 64
  let wrote (i : Nat) : Bool :=
    decide ((((ks.drop (4 * i)).take 4).map (s.memByte o.g)) ≠ (bytes.drop (4 * i)).take 4) || Config.freeBit (Nat.pair s.fresh i)
  let new := (List.range 16).flatMap (fun i => if wrote i then (ks.drop (4 * i)).take 4 else [])
  if s.farLost pa then s else (((if s.host.unpub.isEmpty then s else s.draw.2).dropOld new).store .outside o.g pa bytes).1

/-- What waits for a line goes on: the hub's writes, the requests of other nodes, and the host's accesses. -/
def State.lineBack (s : State) : State :=
  let s := s.fab.patches.foldl (fun s (pa, g, bs) => s.hubWrite g pa bs) (s.mfab (fun f => { f with patches := [] }))
  s.serveHeld.serveHost

/-- LINE_RETURN: the line is written at the home, and what waits for it is served; without its 64 bytes the line is
poisoned. -/
def execLineReturn (line : Nat) (bytes : List Byte) (s : State) : Host.Outcome State Fault Refusal :=
  match s.fab.owned.find? (fun o => decide (o.dpa = line) && o.owner.isSome) with
  | none => .next s
  | some o =>
    let s := if bytes.length = 64 then s.writeBack o bytes else s.poisonLine o
    .next (s.mfab (fun f => { f with owned := f.owned.erase o, asked := f.asked.erase line })).lineBack

/-- CONTENTION_HALVING: once for each multiple of 16,000 ns that DTIME reaches (R347). -/
def execContentionHalving (s : State) : Host.Outcome State Fault Refusal :=
  if s.fab.halved < s.ns / 16000 then
    .next (s.mfab (fun f => { f with
      halved := f.halved + 1,
      counters := (f.counters.map (fun p => (p.1, p.2 / 2))).filter (fun p => decide (p.2 ≠ 0)) }))
  else .next s

/-! ### Multicast (R352 to R357, R444 to R446) -/

/-- Members of a group (R353). -/
def Group.members (x : Group) : List (BitVec 10) :=
  ((List.range 1024).map (BitVec.ofNat 10)).filter (fun n => decide (n &&& ~~~x.mmask = x.mbase &&& ~~~x.mmask))

/-- The neighbours to which member n sends a stamped store on. -/
def Group.kids (x : Group) (n : BitVec 10) : List (BitVec 10) :=
  ((List.range 10).filter (fun d => x.mmask.getLsbD d && decide ((n ^^^ x.seqnode).toNat < 2 ^ d))).map
    (fun d => n ^^^ BitVec.ofNat 10 (2 ^ d))

/-- The last APPLIED that a sequencer has from a member. -/
def Group.reported (x : Group) (me n : BitVec 10) : BitVec 32 :=
  if n = me then x.applied
  else ((x.reports.find? (fun r => decide (r.1 = n))).map (fun r => r.2.1)).getD x.start

/-- The sequencer may stamp its next number (R355). -/
def Group.mayStamp (x : Group) (me : BitVec 10) : Bool :=
  (Group.members x).all (fun n => x.lost.contains n || decide ((x.nextseq - Group.reported x me n).toNat < 256))

/-- The stamp's response returns to the issuer (R354). -/
def State.stampReply (s : State) (g : BitVec 12) (src : BitVec 10) (off : BitVec 32) (bs : List Byte) (code : BitVec 16) :
    State :=
  if src ≠ s.fab.node then s.answer src (BitVec.ofNat 4 g.toNat) code 0 0
  else
    let hit (c : Core) : Option Access := c.pend.find? (fun a => a.sent && decide (a.op = .mst g off bs))
    match ((s.cur, s.core) :: s.parked).find? (fun p => (hit p.2).isSome) with
    | some (n, c) => (match hit c with
      | some a => s.onCore n (fun s => (s.reply a code 0 0).takeLate)
      | none => s)
    | none => s

/-- A stamped store reaches this member: held until its turn; one far ahead is a gap, and so is one that was in flight when the
entry lost V (R355, R445). -/
def State.receiveStamped (s : State) (g : BitVec 12) (seq off : BitVec 32) (bs : List Byte) : State :=
  let x := s.group g
  let d := (seq - x.applied).toNat
  if !(x.v || x.lostV) || !x.mem || x.gap || decide (d = 0) || decide (2 ^ 31 ≤ d) then s
  else if !x.v || decide (256 < d) then s.enterGap g
  else if x.held.any (fun h => decide (h.1 = seq)) then s
  else s.setGroup g { x with held := x.held ++ [(seq, off, bs)], waitAt := if x.held.isEmpty then s.ns else x.waitAt }

/-- A member sends a stamped store on to its neighbours of the tree (R345, R353). -/
def State.forward (s : State) (g : BitVec 12) (n off : BitVec 32) (bs : List Byte) : State :=
  (Group.kids (s.group g) s.fab.node).foldl (fun (s : State) k => s.emit ⟨k, 2, BitVec.ofNat 4 n.toNat, .stamped g n off bs⟩) s

/-- The oldest store that waits at this sequencer is stamped when it may be; without V, or at a node that is not the
sequencer, it is refused (R354); one past its expiry is discarded without a response (R441). -/
def State.stampNext (s : State) (g : BitVec 12) : State :=
  let x := s.group g
  match x.queue with
  | [] => s
  | (src, off, bs, expiry) :: rest =>
    if expiry < s.ns then s.setGroup g { x with queue := rest }
    else if !x.v ∨ x.seqnode ≠ s.fab.node then (s.setGroup g { x with queue := rest }).stampReply g src off bs fcREMOTE_REFUSED
    else if !Group.mayStamp x s.fab.node then s
    else
      let n := x.nextseq
      let s := s.setGroup g { x with queue := rest, nextseq := n + 1 }
      ((s.forward g n off bs).receiveStamped g n off bs).stampReply g src off bs 0

/-- MULTICAST_STAMP: a store arrives at this sequencer from another member, or one of this node's is taken; the oldest
is stamped when the window of R355 allows. -/
def execMulticastStamp (g : BitVec 12) (src : McastFrom) (off : BitVec 32) (bs : List Byte) (s : State) :
    Host.Outcome State Fault Refusal :=
  let x := s.group g
  let s := if src.node = s.fab.node then s
    else s.wake.setGroup g { x with queue := x.queue ++ [(src.node, off, bs, src.expiry)] }
  .next (s.stampNext g)

/-- The member reports APPLIED to the sequencer. -/
def State.report (s : State) (g : BitVec 12) : State :=
  let x := s.group g
  let s := s.setGroup g { x with sinceReport := 0, appliedAt := s.ns }
  if x.seqnode = s.fab.node then s else s.emit ⟨x.seqnode, 5, 0, .report g x.applied⟩

/-- Apply the next store in sequence when this member holds it. -/
def State.applyNext (s : State) (g : BitVec 12) : State :=
  let x := s.group g
  match (if x.v && x.mem && !x.gap then x.held.find? (fun h => decide (h.1 = x.applied + 1)) else none) with
  | none => s
  | some h =>
    let (n, off, bs) := h
    let pa : Dpa := s.fab.node ++ (dpaAdd x.wbase off.toNat).extractLsb' 0 43
    if s.lineAway pa bs.length then s.recallAt pa bs.length
    else
      -- secure memory is never written for another node (R370, R450); the store counts as applied
      let s := if s.secureBad false x.wg pa bs.length then s.refusalCheck fcPERM x.wg pa else (s.plainWrite x.wg pa bs).1
      let s := s.setGroup g { x with applied := n, held := x.held.erase h, appliedAt := s.ns, waitAt := s.ns,
                                     sinceReport := x.sinceReport + 1 }
      if x.sinceReport = 31 then s.report g else s

/-- MULTICAST_APPLY: a stamped store may arrive and is sent on; then the next store in sequence is applied. -/
def execMulticastApply (g : BitVec 12) (arrived : Option (BitVec 32 × BitVec 32 × List Byte)) (s : State) :
    Host.Outcome State Fault Refusal :=
  let s := match arrived with
    | some (n, off, bs) =>
      let x := s.group g
      if x.seqnode = s.fab.node then s
      else
        (s.wake.forward g n off bs).receiveStamped g n off bs
    | none => s
  .next (s.applyNext g)

/-- APPLIED_REPORT: from a member, at the sequencer. -/
def execAppliedReport (g : BitVec 12) (node : BitVec 10) (applied : BitVec 32) (s : State) :
    Host.Outcome State Fault Refusal :=
  let x := s.group g
  if x.seqnode ≠ s.fab.node ∨ !(Group.members x).contains node then .next s
  else .next (s.setGroup g { x with reports := (node, applied, s.ns) :: x.reports.filter (fun r => decide (r.1 ≠ node)) })

/-- APPLIED_REPORT_TIMER: 1 µs without an application. -/
def execAppliedReportTimer (g : BitVec 12) (s : State) : Host.Outcome State Fault Refusal :=
  let x := s.group g
  if x.v && x.mem && decide (x.appliedAt + 1000 ≤ s.ns) then .next (s.report g) else .next s

/-- MCAST_GAP: a store held out of turn for 20 µs (R445). -/
def execMcastGap (g : BitVec 12) (s : State) : Host.Outcome State Fault Refusal :=
  let x := s.group g
  if x.v && x.mem && !x.gap && !x.held.isEmpty && x.held.all (fun h => decide (h.1 ≠ x.applied + 1)) &&
      decide (x.waitAt + 20000 ≤ s.ns) then .next (s.enterGap g) else .next s

/-- MEMBER_REPORT_TIMEOUT: a member silent for 100 µs with stores stamped beyond its last report (R446). -/
def execMemberReportTimeout (g : BitVec 12) (node : BitVec 10) (s : State) : Host.Outcome State Fault Refusal :=
  let x := s.group g
  let at_ := ((x.reports.find? (fun r => decide (r.1 = node))).map (fun r => r.2.2)).getD x.since
  if x.v && decide (x.seqnode = s.fab.node) && (Group.members x).contains node && decide (node ≠ s.fab.node) &&
      !x.lost.contains node && decide (Group.reported x s.fab.node node ≠ x.nextseq - 1) &&
      decide (at_ + 100000 ≤ s.ns) then
    .next (s.setGroup g { x with lost := x.lost ++ [node] })
  else .next s

/-- GROUP_ENTRY_WRITE: all 256 bits of an entry, V last (R357). -/
def execGroupEntryWrite (a : Agent) (g : BitVec 12) (v : BitVec 256) (s : State) : Host.Outcome State Fault Refusal :=
  if !agentPriv a ∨ (a = .host ∧ (s.hub.stage ≠ 5 ∨ !s.host.up)) then .next s
  else
    let w (j : Nat) : Word := v.extractLsb' (64 * j) 64
    .next (if (s.group g).v then s.groupWrite g 0 (w 0)
      else (((s.groupWrite g 3 (w 3)).groupWrite g 2 (w 2)).groupWrite g 1 (w 1)).groupWrite g 0 (w 0))

/-! ### Quiescing and relabelling (R337, R340) -/

/-- QUIESCE_REQUEST: QREQ is set. -/
def execQuiesceRequest (s : State) : Host.Outcome State Fault Refusal :=
  .next (s.ifReady (fun s => s.mfab (fun f => { f with qreq := true })))

/-- Nothing is in flight through this node's router but what a quiesce holds. -/
def State.fabricQuiet (s : State) : Bool :=
  (s.core :: s.parked.map Prod.snd).all (fun c => c.pend.all (fun a => !a.sent)) &&
    s.fab.held.isEmpty && s.fab.out.all s.msgHeld && s.fab.ports.toList.all (fun p => p.rx.isEmpty)

/-- ROUTER_QUIESCED: FQ becomes 1. -/
def execRouterQuiesced (s : State) : Host.Outcome State Fault Refusal :=
  if s.fab.qreq && s.fabricQuiet then .next (s.mfab (fun f => { f with fq := true })) else .next s

/-- QUIESCE_RELEASE: QREQ is cleared, FQ returns to 0 and held requests proceed. -/
def execQuiesceRelease (s : State) : Host.Outcome State Fault Refusal :=
  .next (s.ifReady (fun s => (s.mfab (fun f => { f with qreq := false, fq := false })).pump.serveHeld))

/-- FABRIC_RELABEL: NODE, NDIM and PORTMAP, while FQ = 1. -/
def execFabricRelabel (node : BitVec 10) (ndim : BitVec 4) (portmap : BitVec 48) (s : State) :
    Host.Outcome State Fault Refusal :=
  if s.fab.fq ∧ s.hub.stage = 5 then
    .next (s.mfab (fun f =>
      let f := f.cfg (pack [(0, 10, node.toNat), (10, 4, ndim.toNat), (31, 1, 1)])
      { f with portmap := portmapPut f.portmap portmap }))
  else .next s

end Sys2Proof.Machine
end

