-- ==== Sys2Proof/Machine/Scalar.lean ====
section
/-! DEFINITION. The scalar slot (R202 to R221) and the address ALU forms of the L and W slots (R222 to
R224): one meaning per operation. -/

namespace Sys2Proof.Machine

open Sys2Proof

/-- An operation other than NOP issued to the busy S unit (R184). -/
def State.sBusy (s : State) : Option FC := fcIf (decide (s.pcyc < s.core.ctl.busyS)) fcSCHEDULE 1

/-- Occupy the S unit for n cycles (R184, R452). -/
def State.occupyS (n : Nat) (s : State) : State :=
  s.mc (fun c => c.mctl (fun k => { k with busyS := max k.busyS (s.pcyc + n) }))

/-- An S operation: sources, cycles of the unit, effect. -/
def sIssue (g : PReg) (srcs : List SReg) (busy : Nat) (eff : State → State) (s : State) :
    Host.Outcome State Fault Refusal :=
  issue .s g (s.srcS srcs) s.sBusy none (State.occupyS busy) eff s

/-- An S operation with one scalar result of latency 1. -/
def sOne (g : PReg) (srcs : List SReg) (d : SReg) (f : State → Word) (s : State) :
    Host.Outcome State Fault Refusal :=
  sIssue g srcs 1 (fun s => s.landS 1 .s d (f s)) s

/-- A two-source operation of latency `lat` (R206). -/
def sTwo (g : PReg) (lat : Nat) (d a b : SReg) (f : Word → Word → Word) (s : State) :
    Host.Outcome State Fault Refusal :=
  sIssue g [a, b] 1 (fun s => s.landS lat .s d (f (s.sreg a) (s.sreg b))) s

/-- A one-source operation (R209, R213). -/
def sUn (g : PReg) (d a : SReg) (f : Word → Word) (s : State) : Host.Outcome State Fault Refusal :=
  sOne g [a] d (fun s => f (s.sreg a)) s

/-- A predicate result of latency 1 (R204). -/
def sPred (g : PReg) (srcs : List Mark) (d : PReg) (f : State → Bool) (s : State) :
    Host.Outcome State Fault Refusal :=
  issue .s g srcs s.sBusy none (State.occupyS 1) (fun s => s.landP 1 .s d (f s)) s

/-- A NOP of any slot (R174). -/
def execNop (_slot : Slot) (s : State) : Host.Outcome State Fault Refusal := .next s

def execAdd (g : PReg) (m : AMode) (d a b : SReg) (s : State) : Host.Outcome State Fault Refusal :=
  sTwo g 1 d a b (fun x y => narrow m (readM m x + readM m y)) s

def execSub (g : PReg) (m : AMode) (d a b : SReg) (s : State) : Host.Outcome State Fault Refusal :=
  sTwo g 1 d a b (fun x y => narrow m (readM m x - readM m y)) s

def execMul (g : PReg) (m : AMode) (d a b : SReg) (s : State) : Host.Outcome State Fault Refusal :=
  sTwo g 3 d a b (fun x y => narrow m (readM m x * readM m y)) s

def execMulh (g : PReg) (d a b : SReg) (s : State) : Host.Outcome State Fault Refusal :=
  sTwo g 3 d a b (fun x y => BitVec.ofInt 64 (x.toInt * y.toInt / 2 ^ 64)) s

def execMulhn (g : PReg) (d a b : SReg) (s : State) : Host.Outcome State Fault Refusal :=
  sTwo g 3 d a b (fun x y => BitVec.ofNat 64 (x.toNat * y.toNat / 2 ^ 64)) s

def execAnd (g : PReg) (d a b : SReg) (s : State) : Host.Outcome State Fault Refusal :=
  sTwo g 1 d a b (fun x y => x &&& y) s

def execOr (g : PReg) (d a b : SReg) (s : State) : Host.Outcome State Fault Refusal :=
  sTwo g 1 d a b (fun x y => x ||| y) s

def execXor (g : PReg) (d a b : SReg) (s : State) : Host.Outcome State Fault Refusal :=
  sTwo g 1 d a b (fun x y => x ^^^ y) s

def execMin (g : PReg) (d a b : SReg) (s : State) : Host.Outcome State Fault Refusal :=
  sTwo g 1 d a b (fun x y => if y.toInt < x.toInt then y else x) s

def execMax (g : PReg) (d a b : SReg) (s : State) : Host.Outcome State Fault Refusal :=
  sTwo g 1 d a b (fun x y => if x.toInt < y.toInt then y else x) s

def execMinn (g : PReg) (d a b : SReg) (s : State) : Host.Outcome State Fault Refusal :=
  sTwo g 1 d a b (fun x y => if y.toNat < x.toNat then y else x) s

def execMaxn (g : PReg) (d a b : SReg) (s : State) : Host.Outcome State Fault Refusal :=
  sTwo g 1 d a b (fun x y => if x.toNat < y.toNat then y else x) s

def execClmuls (g : PReg) (hi : Bool) (d a b : SReg) (s : State) : Host.Outcome State Fault Refusal :=
  sTwo g 3 d a b (fun x y =>
    let c := clmul 64 x.toNat y.toNat
    BitVec.ofNat 64 (if hi then c >>> 64 else c)) s

/-- Division and remainder (R207, R208): latency 18, the unit busy for 18 cycles. -/
def sDiv (g : PReg) (sgn quot : Bool) (d a b : SReg) (s : State) : Host.Outcome State Fault Refusal :=
  sIssue g [a, b] 18 (fun s =>
    let r (v : Word) : Int := if sgn then v.toInt else v.toNat
    let qr := divRem sgn (r (s.sreg a)) (r (s.sreg b))
    s.landS 18 .s d (BitVec.ofInt 64 (if quot then qr.1 else qr.2))) s

def execDiv (g : PReg) (d a b : SReg) (s : State) : Host.Outcome State Fault Refusal :=
  sDiv g true true d a b s

def execDivn (g : PReg) (d a b : SReg) (s : State) : Host.Outcome State Fault Refusal :=
  sDiv g false true d a b s

def execRem (g : PReg) (d a b : SReg) (s : State) : Host.Outcome State Fault Refusal :=
  sDiv g true false d a b s

def execRemn (g : PReg) (d a b : SReg) (s : State) : Host.Outcome State Fault Refusal :=
  sDiv g false false d a b s

/-- The immediate of the logical forms (R209). -/
def immOf (z : Bool) (i : BitVec 32) : Word := if z then i.zeroExtend 64 else i.signExtend 64

def execAddi (g : PReg) (m : AMode) (d a : SReg) (imm : BitVec 32) (s : State) :
    Host.Outcome State Fault Refusal :=
  sUn g d a (fun x =>
    let i : Int := match m with
      | .satn => imm.toNat
      | _ => imm.toInt
    narrow m (readM m x + i)) s

def execAndi (g : PReg) (z : Bool) (d a : SReg) (imm : BitVec 32) (s : State) :
    Host.Outcome State Fault Refusal :=
  sUn g d a (fun x => x &&& immOf z imm) s

def execOri (g : PReg) (z : Bool) (d a : SReg) (imm : BitVec 32) (s : State) :
    Host.Outcome State Fault Refusal :=
  sUn g d a (fun x => x ||| immOf z imm) s

def execXori (g : PReg) (z : Bool) (d a : SReg) (imm : BitVec 32) (s : State) :
    Host.Outcome State Fault Refusal :=
  sUn g d a (fun x => x ^^^ immOf z imm) s

/-- Shifts by a number of any size (R210). -/
def shlW (x : Word) (n : Nat) : Word := BitVec.ofNat 64 (shlN 64 x.toNat n)
def shrW (x : Word) (n : Nat) : Word := BitVec.ofNat 64 (shrN 64 x.toNat n)
def sarW (x : Word) (n : Nat) : Word := BitVec.ofNat 64 (sarN 64 x.toNat n)

def execShl (g : PReg) (d a b : SReg) (s : State) : Host.Outcome State Fault Refusal :=
  sTwo g 1 d a b (fun x y => shlW x y.toNat) s

def execShr (g : PReg) (d a b : SReg) (s : State) : Host.Outcome State Fault Refusal :=
  sTwo g 1 d a b (fun x y => shrW x y.toNat) s

def execSar (g : PReg) (d a b : SReg) (s : State) : Host.Outcome State Fault Refusal :=
  sTwo g 1 d a b (fun x y => sarW x y.toNat) s

def execShli (g : PReg) (d a : SReg) (n : BitVec 6) (s : State) : Host.Outcome State Fault Refusal :=
  sUn g d a (fun x => shlW x n.toNat) s

def execShri (g : PReg) (d a : SReg) (n : BitVec 6) (s : State) : Host.Outcome State Fault Refusal :=
  sUn g d a (fun x => shrW x n.toNat) s

def execSari (g : PReg) (d a : SReg) (n : BitVec 6) (s : State) : Host.Outcome State Fault Refusal :=
  sUn g d a (fun x => sarW x n.toNat) s

/-- The scalar registers a register-or-immediate operand reads. -/
def riSrc {w : Nat} (y : RegImm w) : List SReg :=
  match y with
  | .reg b => [b]
  | .imm _ => []

def execRol (g : PReg) (d a : SReg) (n : RegImm 6) (s : State) : Host.Outcome State Fault Refusal :=
  sOne g (a :: riSrc n) d (fun s =>
    let k := match n with
      | .reg b => (s.sreg b).toNat
      | .imm v => v.toNat
    BitVec.ofNat 64 (rolN (s.sreg a).toNat k)) s

/-- Funnel shift (R211); in the register form the amount is Sreg(d)[6:0]. -/
def execFshr (g : PReg) (d a b : SReg) (n : Option (BitVec 7)) (s : State) :
    Host.Outcome State Fault Refusal :=
  sOne g ([a, b] ++ (match n with
    | none => [d]
    | some _ => [])) d (fun s =>
    let k := match n with
      | some v => v.toNat
      | none => (s.sreg d).toNat % 128
    BitVec.ofNat 64 (((s.sreg a).toNat * 2 ^ 64 + (s.sreg b).toNat) >>> k)) s

/-- pos and len of the bit-field operations (R212). -/
def bfPos (s : State) (b : SReg) (pos : Option (BitVec 6)) : Nat :=
  match pos with
  | some p => p.toNat
  | none => (s.sreg b).toNat % 64

def bfLen (s : State) (b : SReg) (len : Option (BitVec 7)) : Nat :=
  match len with
  | some l => l.toNat
  | none => min ((s.sreg b).toNat / 256 % 128) 64

/-- The register b is read when it replaces pos or len. -/
def bfSrc (b : SReg) (pos : Option (BitVec 6)) (len : Option (BitVec 7)) : List SReg :=
  if pos.isSome && len.isSome then [] else [b]

def execBext (g : PReg) (d a b : SReg) (pos : Option (BitVec 6)) (len : Option (BitVec 7)) (s : State) :
    Host.Outcome State Fault Refusal :=
  sOne g (a :: bfSrc b pos len) d (fun s =>
    BitVec.ofNat 64 (fieldOf (s.sreg a).toNat (bfPos s b pos) (bfLen s b len))) s

def execBexts (g : PReg) (d a b : SReg) (pos : Option (BitVec 6)) (len : Option (BitVec 7)) (s : State) :
    Host.Outcome State Fault Refusal :=
  sOne g (a :: bfSrc b pos len) d (fun s =>
    let l := bfLen s b len
    if l = 0 then 0
    else BitVec.ofInt 64 (toS l (fieldOf (s.sreg a).toNat (bfPos s b pos) l))) s

def execBins (g : PReg) (d a b : SReg) (pos : Option (BitVec 6)) (len : Option (BitVec 7)) (s : State) :
    Host.Outcome State Fault Refusal :=
  sOne g ([a, d] ++ bfSrc b pos len) d (fun s =>
    let p := bfPos s b pos
    let mask : Word := BitVec.ofNat 64 ((2 ^ bfLen s b len - 1) <<< p)
    (s.sreg d &&& ~~~mask) ||| (BitVec.ofNat 64 ((s.sreg a).toNat <<< p) &&& mask)) s

/-- The low w bits of a source (R213). -/
def lowBits (w : BitW) (x : Word) : Nat := x.toNat % 2 ^ bitWN w

def execClz (g : PReg) (w : BitW) (d a : SReg) (s : State) : Host.Outcome State Fault Refusal :=
  sUn g d a (fun x => BitVec.ofNat 64 (clzN (bitWN w) (lowBits w x))) s

def execCtz (g : PReg) (w : BitW) (d a : SReg) (s : State) : Host.Outcome State Fault Refusal :=
  sUn g d a (fun x => BitVec.ofNat 64 (ctzGo (bitWN w) (lowBits w x))) s

def execPopc (g : PReg) (w : BitW) (d a : SReg) (s : State) : Host.Outcome State Fault Refusal :=
  sUn g d a (fun x => BitVec.ofNat 64 (popcGo (bitWN w) (lowBits w x))) s

def execBrev (g : PReg) (w : BitW) (d a : SReg) (s : State) : Host.Outcome State Fault Refusal :=
  sUn g d a (fun x => BitVec.ofNat 64 (brevGo (bitWN w) (lowBits w x) 0)) s

def execCmp (g : PReg) (cc : CCond) (d : PReg) (a b : SReg) (s : State) :
    Host.Outcome State Fault Refusal :=
  sPred g (s.srcS [a, b]) d (fun s => cond cc (s.sreg a) (s.sreg b)) s

def execCmpi (g : PReg) (cc : CCond) (d : PReg) (a : SReg) (imm : BitVec 32) (s : State) :
    Host.Outcome State Fault Refusal :=
  sPred g (s.srcS [a]) d (fun s => cond cc (s.sreg a) (imm.signExtend 64)) s

def execPlog (g : PReg) (d a b : PReg) (tt : BitVec 4) (s : State) : Host.Outcome State Fault Refusal :=
  sPred g [.p (rotP s.core.sys a), .p (rotP s.core.sys b)] d (fun s => tt.getLsbD (2 * (s.preg a).toNat + (s.preg b).toNat)) s

def execSel (g : PReg) (q : PReg) (d a b : SReg) (s : State) : Host.Outcome State Fault Refusal :=
  issue .s g (.p (rotP s.core.sys q) :: s.srcS [a, b]) s.sBusy none (State.occupyS 1)
    (fun s => s.landS 1 .s d (if s.preg q then s.sreg a else s.sreg b)) s

def execLi (g : PReg) (z : Bool) (d : SReg) (imm : BitVec 32) (s : State) :
    Host.Outcome State Fault Refusal :=
  sOne g [] d (fun _ => immOf z imm) s

def execLih (g : PReg) (d : SReg) (imm : BitVec 32) (s : State) : Host.Outcome State Fault Refusal :=
  sOne g [d] d (fun s => imm ++ (s.sreg d).extractLsb' 0 32) s

/-! ### Handle fields (R218, R219) -/

/-- Lowest bit and width of what HSET and HGET name. -/
def hselAt : HSel → Nat × Nat
  | .field f => hfieldAt f
  | .word q => (64 * q.toNat, 64)

def hselSigned : HSel → Bool
  | .field .st1 | .field .st2 | .field .st3 => true
  | _ => false

def execHset (g : PReg) (f : HSel) (h : HReg) (a : SReg) (s : State) : Host.Outcome State Fault Refusal :=
  sIssue g [a] 1 (fun s =>
    let (lo, w) := hselAt f
    s.landH 1 .s h (BitVec.ofNat 256 (((s.sreg a).toNat % 2 ^ w) <<< lo)) (hmask lo w)) s

def execHget (g : PReg) (f : HSel) (d : SReg) (h : HReg) (s : State) : Host.Outcome State Fault Refusal :=
  issue .s g [.h h] s.sBusy none (State.occupyS 1) (fun s =>
    let (lo, w) := hselAt f
    let v := hbits (s.hreg h) lo w
    s.landS 1 .s d (if hselSigned f then BitVec.ofInt 64 (toS w v) else BitVec.ofNat 64 v)) s

def execHadd (g : PReg) (f : HField) (h : HReg) (a : SReg) (s : State) :
    Host.Outcome State Fault Refusal :=
  issue .s g (.h h :: s.srcS [a]) s.sBusy none (State.occupyS 1) (fun s =>
    let (lo, w) := hfieldAt f
    let v := (hget (s.hreg h) f + (s.sreg a).toNat) % 2 ^ w
    s.landH 1 .s h (BitVec.ofNat 256 (v <<< lo)) (hmask lo w)) s

/-! ### System registers (R179, R180, R105, R220) -/

/-- WSTATE (R104, R105): the window open now, and the next window not yet begun. WABANK is valid only when
WACT = 1: `free` stands in its bits otherwise. -/
def wstateAt (ns : Nat) (free : Byte) : Word :=
  let t := ns % 16000
  let act := decide (t % 2000 < 320)
  let next := 2000 - t % 2000
  BitVec.ofNat 64 (recBits [(0, 32, next), (32, 3, t / 2000 + 1), (35, 1, if act then 1 else 0),
    (36, 3, if act then t / 2000 else free.toNat)])

/-- The value RDSR reads (R220); reserved bits are zero. -/
def State.rdsr (s : State) (r : SysReg) : Word :=
  let y := s.core.sys
  match r with
  | .ctxid => BitVec.ofNat 64 ((if y.sec then 2 ^ 13 else 0) + y.asid.toNat)
  | .heapbase => y.heapbase
  | .heaplim => y.heaplim
  | .heapoff => y.heapoff
  | .heapattr => y.heapattr
  | .ptroot => y.ptroot
  | .tcoord => y.tcoord
  | .rcbptr => y.rcbptr
  | .rpladdr => y.rpladdr
  | .trapaddr => y.trapaddr
  | .dtime => s.dtime
  | .pcyc => BitVec.ofNat 64 s.pcyc
  | .wstate => wstateAt s.ns (Config.freeByte s.fresh)
  | .status => y.status.zeroExtend 64
  | .rrbs => y.rrbs.zeroExtend 64
  | .rrba => y.rrba.zeroExtend 64
  | .rrbp => y.rrbp.zeroExtend 64

def execRdsr (g : PReg) (d : SReg) (r : SysReg) (s : State) : Host.Outcome State Fault Refusal :=
  sIssue g [] 1 (fun s =>
    let v := s.rdsr r
    let s := if r = .wstate then s.draw.2 else s
    s.landS 1 .s d v) s

def execWrsr (g : PReg) (r : SysReg) (a : SReg) (s : State) : Host.Outcome State Fault Refusal :=
  sIssue g [a] 1 (fun s => s.land 1 .s (.sys r (s.sreg a)) 0) s

/-! ### Address ALU forms (R222 to R224) -/

/-- The second operand of a form: a register, or a sign-extended immediate. -/
def riVal {w : Nat} (s : State) (y : RegImm w) : Word :=
  match y with
  | .reg b => s.sreg b
  | .imm v => v.signExtend 64

/-- An L- or W-slot form: no unit is busy; no class or port. -/
def axOp (slot : Slot) (g : PReg) (srcs : List SReg) (d : SReg) (f : State → Word) (s : State) :
    Host.Outcome State Fault Refusal :=
  issue slot g (s.srcS srcs) none s.noReplay id (fun s => s.landS 1 slot d (f s)) s

def execAxadd (g : PReg) (d a : SReg) (y : RegImm 32) (s : State) : Host.Outcome State Fault Refusal :=
  axOp .l g (a :: riSrc y) d (fun s => s.sreg a + riVal s y) s

def execAxsub (g : PReg) (d a : SReg) (y : RegImm 32) (s : State) : Host.Outcome State Fault Refusal :=
  axOp .l g (a :: riSrc y) d (fun s => s.sreg a - riVal s y) s

def execAxlog (g : PReg) (op : AxLogOp) (d a : SReg) (y : RegImm 32) (s : State) :
    Host.Outcome State Fault Refusal :=
  axOp .l g (a :: riSrc y) d (fun s =>
    let x := s.sreg a
    let y := riVal s y
    match op with
    | .and => x &&& y
    | .or => x ||| y
    | .xor => x ^^^ y
    | .andn => x &&& ~~~y) s

def execAxsh (g : PReg) (op : AxShOp) (d a : SReg) (y : RegImm 6) (s : State) :
    Host.Outcome State Fault Refusal :=
  axOp .l g (a :: riSrc y) d (fun s =>
    let x := s.sreg a
    let n := match y with
      | .reg b => (s.sreg b).toNat
      | .imm v => v.toNat
    match op with
    | .shl => shlW x n
    | .shr => shrW x n
    | .sar => sarW x n) s

def execWxadd (g : PReg) (sub : Bool) (d a : SReg) (y : RegImm 24) (s : State) :
    Host.Outcome State Fault Refusal :=
  axOp .w g (a :: riSrc y) d (fun s =>
    if sub then s.sreg a - riVal s y else s.sreg a + riVal s y) s

end Sys2Proof.Machine
end

