-- ==== Sys2Proof/Machine/Transform.lean ====
section
/-! DEFINITION. The transform slot (R252 to R261): one meaning per operation. -/

namespace Sys2Proof.Machine

open Sys2Proof

/-- The row an X source names in beat j (R252). -/
def State.xsrc (s : State) (x : XSel) (j : Nat) : RowVal :=
  match x with
  | .row r => s.arow (r + BitVec.ofNat 8 j)
  | .latch n => (s.core.regs.getB n).getD 0
  | .zero => 0

def xToV : XSel → VSel
  | .row r => .row r
  | .latch n => .latch n
  | .zero => .zero

def State.occupyX (b : Nat) (s : State) : State :=
  s.mc (fun c => c.mctl (fun k => { k with busyX := max k.busyX (s.pcyc + b) }))

/-- Issue an X operation: schedule checks, HANDLE when it names one, row runs, then the entry's own. -/
def xIssue (c : XCtl) (srcs : List Mark) (hc : Option FC) (more : List (Option FC))
    (eff : State → State) (s : State) : Host.Outcome State Fault Refusal :=
  let sel := xToV c.src
  issue .x c.guard (s.srcSels 0 c.b1 [sel] ++ srcs)
    (fcFirst [fcIf (decide (s.pcyc < s.core.ctl.busyX)) fcSCHEDULE 1,
      fcIf (s.latchEmpty [sel]) fcSCHEDULE 5, hc])
    (fcFirst ([fcIf (vselRun c.b1 [sel] || runBad c.b1 c.d) fcOPERAND 7] ++ more ++ [s.noReplay]))
    (State.occupyX (c.b1.toNat + 1)) eff s

/-- Write whole rows, one per beat (R252). -/
def State.xrows (s : State) (c : XCtl) (lat : Nat) (f : Nat → RowVal × BitVec 5) : State :=
  (List.range (c.b1.toNat + 1)).foldl (fun s j =>
    let (v, fl) := f j
    s.land (lat + j) .x (.row (rotA s.core.sys (c.d + BitVec.ofNat 8 j)) v (BitVec.allOnes 4096)) fl) s

/-- An X operation whose beats are independent. -/
def xRow (c : XCtl) (lat : Nat) (srcs : List Mark) (more : List (Option FC))
    (f : State → Nat → RowVal × BitVec 5) (s : State) : Host.Outcome State Fault Refusal :=
  xIssue c srcs none more (fun s => s.xrows c lat (f s)) s

/-- An odd beat count where rows come in pairs (R459). -/
def oddBeats (c : XCtl) : Option FC := fcIf (decide (c.b1.toNat % 2 = 0)) fcOPERAND 7

/-- The first row of the pair that beat j belongs to, and the second. -/
def State.xpair (s : State) (c : XCtl) (j : Nat) : RowVal × RowVal :=
  (s.xsrc c.src (j / 2 * 2), s.xsrc c.src (j / 2 * 2 + 1))

/-! ### Expand and compress (R253) -/

/-- Lanes that mask k enables, in ascending order. -/
def enabledLanes (n : Nat) (k : Line) : List Nat := (List.range n).filter (fun i => k.getLsbD i)

def execXexp (c : XCtl) (compress : Bool) (w : LaneW) (m : KReg) (s : State) :
    Host.Outcome State Fault Refusal :=
  let w := laneWN w
  let n := 4096 / w
  xRow c 6 [.k m] [] (fun s j =>
    let k := s.kreg m
    let r := s.xsrc c.src j
    (if compress then
      BitVec.ofNat 4096 (packList w ((enabledLanes n k).map (fun i => lane r i w)))
    else mkRow n w (fun i => if k.getLsbD i then lane r (popcGo i k.toNat) w else 0), 0)) s

/-! ### Planes (R100, R101, R254) -/

/-- Bit i of a plane line: byte i/8, bit 7 − (i mod 8) (R101). -/
def planeBit (i : Nat) : Nat := i / 8 * 8 + (7 - i % 8)

/-- Plane line j of up to 512 codes of q bits, as 512 bits: bit position b holds element planeBit b. -/
def planeLine (q : Nat) (code : Nat → Nat) (j : Nat) : Nat :=
  packGo 1 (fun b => (code (planeBit b) >>> (q - 1 - j)) % 2) 512 0

/-- Element i's code from plane lines. -/
def planeCode (q : Nat) (line : Nat → Nat) (i : Nat) : Nat :=
  (List.range q).foldl (fun acc j => 2 * acc + (line j >>> planeBit i) % 2) 0

def execXpln (c : XCtl) (f : Fmt) (s : State) : Host.Outcome State Fault Refusal :=
  let q := fmtBits f
  if q = 16 then
    xRow c 8 [] [oddBeats c] (fun s j =>
      let (r0, r1) := s.xpair c j
      let code (i : Nat) : Nat := if i < 256 then lane r0 i 16 else lane r1 (i - 256) 16
      (mkRow 8 512 (fun p => planeLine 16 code (8 * (j % 2) + p)), 0)) s
  else
    xRow c 8 [] [] (fun s j =>
      let r := s.xsrc c.src j
      (mkRow 8 512 (fun p => if p < q then planeLine q (fun i => lane r i 8) p else 0), 0)) s

def execXtrn (c : XCtl) (f : Fmt) (s : State) : Host.Outcome State Fault Refusal :=
  let q := fmtBits f
  if q = 16 then
    xRow c 8 [] [oddBeats c] (fun s j =>
      let (r0, r1) := s.xpair c j
      let line (p : Nat) : Nat := if p < 8 then lane r0 p 512 else lane r1 (p - 8) 512
      (mkRow 256 16 (fun i => planeCode 16 line (256 * (j % 2) + i)), 0)) s
  else
    xRow c 8 [] [] (fun s j =>
      let r := s.xsrc c.src j
      (mkRow 512 8 (fun i => planeCode q (fun p => lane r p 512) i), 0)) s

/-! ### Row conversion and scales (R255 to R257) -/

/-- The 128 elements that a row holds in a format (R255). -/
def rowElems (f : Fmt) (g : Nat) (r : RowVal) : Elems :=
  if fmtMx f || fmtPx f then quantElems f g 128 r
  else ⟨f, g, (List.range 128).map (fun i => lane r i (fmtBits f)), [], []⟩

/-- A row from 128 elements. -/
def elemsRow (e : Elems) : RowVal :=
  if fmtMx e.fmt || fmtPx e.fmt then quantRow e
  else BitVec.ofNat 4096 (packList (fmtBits e.fmt) e.codes)

def execXcvt (c : XCtl) (sf df : Fmt) (gs : GSize) (sat : Bool) (s : State) :
    Host.Outcome State Fault Refusal :=
  xRow c 6 [] [] (fun s j =>
    let (e, fl) := convElems (rowElems sf (gsN gs) (s.xsrc c.src j)) df (gsN gs) .rne sat
    (elemsRow e, fl)) s

/-- Scale exponent of element n of a line-row's side record, or none for NaN (R102, R256). -/
def sideScale (f : Fmt) (g : Nat) (rec_ : Nat → Nat) (n : Nat) : Option Int :=
  if fmtPx f then
    let e := rec_ (2 * (n / 16))
    let mu := rec_ (2 * (n / 16) + 1) >>> (n % 16 / 2) % 2
    if e = 0xFF then none else some ((e : Int) - 127 - mu)
  else
    let c := rec_ (n / g)
    if c = 0xFF then none else some ((c : Int) - 127)

def execXscl (c : XCtl) (inv : Bool) (h : HReg) (s : State) : Host.Outcome State Fault Refusal :=
  let hv := s.hreg h
  let f := (hfmt hv).getD .bytes
  let a := hget hv .side
  let off := hget hv .off
  let len := 128 * (c.b1.toNat + 1)
  xIssue c [.h h]
    ((handleFault hv).map (fun n => ⟨fcHANDLE, BitVec.ofNat 16 (32 * n + h.toNat), none⟩))
    [fcIf (!(fmtMx f || fmtPx f) || decide (384 < off)) fcOPERAND 9,
      fcIf (decide (s.sideb < a + len)) fcOPERAND 2,
      (s.core.sideMark a len).map Mark.consumed]
    (fun s => (s.xrows c 4 (fun j =>
      let r := s.xsrc c.src j
      let bs := s.ownBytes (.side s.cur) (a + 128 * j) (s.core.side.read (a + 128 * j) 64)
      let rec_ (i : Nat) : Nat := (bs.getD i 0).toNat
      let l := (List.range 128).map (fun i =>
        fp32F.round .rne (match sideScale f (hgroup hv) rec_ (off + i) with
          | none => .nan
          | some e => (fp32F.decode (lane r i 32)).scale (if inv then -e else e)))
      rowOf 32 (BitVec.allOnes 512) l)).usedShadow) s

/-! ### Packing, bits and swizzles (R258 to R261) -/

def execXpack (c : XCtl) (w1 : BitVec 3) (s : State) : Host.Outcome State Fault Refusal :=
  xRow c 4 [] [] (fun s j =>
    let r := s.xsrc c.src j
    (mkRow 512 (w1.toNat + 1) (fun i => lane r i 8), 0)) s

def execXunpk (c : XCtl) (sgn : Bool) (w1 : BitVec 3) (s : State) : Host.Outcome State Fault Refusal :=
  let w := w1.toNat + 1
  xRow c 4 [] [] (fun s j =>
    let r := s.xsrc c.src j
    (mkRow 512 8 (fun i =>
      let v := lane r i w
      if sgn then trunc 8 (toS w v) else v), 0)) s

def execXbits (c : XCtl) (w : LaneW) (msb : Bool) (b : BitVec 6) (s : State) :
    Host.Outcome State Fault Refusal :=
  let w := laneWN w
  let n := 4096 / w
  xRow c 4 [] [fcIf (decide (w ≤ b.toNat)) fcOPERAND 7] (fun s j =>
    let r := s.xsrc c.src j
    (mkRow n 1 (fun p =>
      let i := if msb then planeBit p else p
      lane r i w >>> b.toNat), 0)) s

def execXzip (c : XCtl) (w : LaneW) (s : State) : Host.Outcome State Fault Refusal :=
  let w := laneWN w
  let n := 4096 / w
  xRow c 3 [] [oddBeats c] (fun s j =>
    let (r0, r1) := s.xpair c j
    (mkRow n w (fun i =>
      let e := n * (j % 2) + i
      lane (if e % 2 = 0 then r0 else r1) (e / 2) w), 0)) s

def execXunzip (c : XCtl) (w : LaneW) (s : State) : Host.Outcome State Fault Refusal :=
  let w := laneWN w
  let n := 4096 / w
  xRow c 3 [] [oddBeats c] (fun s j =>
    let (r0, r1) := s.xpair c j
    (mkRow n w (fun i =>
      let e := 2 * i + j % 2
      if e < n then lane r0 e w else lane r1 (e - n) w), 0)) s

def execXswz (c : XCtl) (p : SwzPat) (w : LaneW) (s : State) : Host.Outcome State Fault Refusal :=
  let w := laneWN w
  let n := 4096 / w
  xRow c 3 [] [] (fun s j =>
    let r := s.xsrc c.src j
    (match p with
      | .rev => mkRow n w (fun i => lane r (n - 1 - i) w)
      | .bswap => mkRow 512 8 (fun i =>
          let k := w / 8
          lane r (i / k * k + (k - 1 - i % k)) 8)
      | .bitrev => mkRow 512 8 (fun i => brevGo 8 (lane r i 8) 0), 0)) s

end Sys2Proof.Machine
end

