-- ==== Sys2Proof/Machine/Dispatch.lean ====
section
/-! DEFINITION. One arm per instruction: its meaning. -/

namespace Sys2Proof.Machine

open Sys2Proof

def exec (i : Instr) (s : State) : Host.Outcome State Fault Refusal :=
  match i with
  | .nop slot => Sys2Proof.Machine.execNop slot s
  | .add g m d a b => Sys2Proof.Machine.execAdd g m d a b s
  | .sub g m d a b => Sys2Proof.Machine.execSub g m d a b s
  | .mul g m d a b => Sys2Proof.Machine.execMul g m d a b s
  | .mulh g d a b => Sys2Proof.Machine.execMulh g d a b s
  | .mulhn g d a b => Sys2Proof.Machine.execMulhn g d a b s
  | .and g d a b => Sys2Proof.Machine.execAnd g d a b s
  | .or g d a b => Sys2Proof.Machine.execOr g d a b s
  | .xor g d a b => Sys2Proof.Machine.execXor g d a b s
  | .min g d a b => Sys2Proof.Machine.execMin g d a b s
  | .max g d a b => Sys2Proof.Machine.execMax g d a b s
  | .minn g d a b => Sys2Proof.Machine.execMinn g d a b s
  | .maxn g d a b => Sys2Proof.Machine.execMaxn g d a b s
  | .clmuls g hi d a b => Sys2Proof.Machine.execClmuls g hi d a b s
  | .div g d a b => Sys2Proof.Machine.execDiv g d a b s
  | .divn g d a b => Sys2Proof.Machine.execDivn g d a b s
  | .rem g d a b => Sys2Proof.Machine.execRem g d a b s
  | .remn g d a b => Sys2Proof.Machine.execRemn g d a b s
  | .addi g m d a imm => Sys2Proof.Machine.execAddi g m d a imm s
  | .andi g z d a imm => Sys2Proof.Machine.execAndi g z d a imm s
  | .ori g z d a imm => Sys2Proof.Machine.execOri g z d a imm s
  | .xori g z d a imm => Sys2Proof.Machine.execXori g z d a imm s
  | .shl g d a b => Sys2Proof.Machine.execShl g d a b s
  | .shr g d a b => Sys2Proof.Machine.execShr g d a b s
  | .sar g d a b => Sys2Proof.Machine.execSar g d a b s
  | .shli g d a n => Sys2Proof.Machine.execShli g d a n s
  | .shri g d a n => Sys2Proof.Machine.execShri g d a n s
  | .sari g d a n => Sys2Proof.Machine.execSari g d a n s
  | .rol g d a n => Sys2Proof.Machine.execRol g d a n s
  | .fshr g d a b n => Sys2Proof.Machine.execFshr g d a b n s
  | .bext g d a b pos len => Sys2Proof.Machine.execBext g d a b pos len s
  | .bexts g d a b pos len => Sys2Proof.Machine.execBexts g d a b pos len s
  | .bins g d a b pos len => Sys2Proof.Machine.execBins g d a b pos len s
  | .clz g w d a => Sys2Proof.Machine.execClz g w d a s
  | .ctz g w d a => Sys2Proof.Machine.execCtz g w d a s
  | .popc g w d a => Sys2Proof.Machine.execPopc g w d a s
  | .brev g w d a => Sys2Proof.Machine.execBrev g w d a s
  | .cmp g cc d a b => Sys2Proof.Machine.execCmp g cc d a b s
  | .cmpi g cc d a imm => Sys2Proof.Machine.execCmpi g cc d a imm s
  | .plog g d a b tt => Sys2Proof.Machine.execPlog g d a b tt s
  | .sel g q d a b => Sys2Proof.Machine.execSel g q d a b s
  | .li g z d imm => Sys2Proof.Machine.execLi g z d imm s
  | .lih g d imm => Sys2Proof.Machine.execLih g d imm s
  | .hset g f h a => Sys2Proof.Machine.execHset g f h a s
  | .hget g f d h => Sys2Proof.Machine.execHget g f d h s
  | .hadd g f h a => Sys2Proof.Machine.execHadd g f h a s
  | .rdsr g d r => Sys2Proof.Machine.execRdsr g d r s
  | .wrsr g r a => Sys2Proof.Machine.execWrsr g r a s
  | .axadd g d a y => Sys2Proof.Machine.execAxadd g d a y s
  | .axsub g d a y => Sys2Proof.Machine.execAxsub g d a y s
  | .axlog g op d a y => Sys2Proof.Machine.execAxlog g op d a y s
  | .axsh g op d a y => Sys2Proof.Machine.execAxsh g op d a y s
  | .wxadd g sub d a y => Sys2Proof.Machine.execWxadd g sub d a y s
  | .vadd c ty md a b => Sys2Proof.Machine.execVadd c ty md a b s
  | .vsub c ty md a b => Sys2Proof.Machine.execVsub c ty md a b s
  | .vmul c ty md a b => Sys2Proof.Machine.execVmul c ty md a b s
  | .vfma c ty md a b cc => Sys2Proof.Machine.execVfma c ty md a b cc s
  | .vmin c ty md a b => Sys2Proof.Machine.execVmin c ty md a b s
  | .vmax c ty md a b => Sys2Proof.Machine.execVmax c ty md a b s
  | .vabs c ty md a => Sys2Proof.Machine.execVabs c ty md a s
  | .vmulh c ty md a b => Sys2Proof.Machine.execVmulh c ty md a b s
  | .vand c ty a b => Sys2Proof.Machine.execVand c ty a b s
  | .vor c ty a b => Sys2Proof.Machine.execVor c ty a b s
  | .vxor c ty a b => Sys2Proof.Machine.execVxor c ty a b s
  | .vshl c ty a b => Sys2Proof.Machine.execVshl c ty a b s
  | .vshr c ty a b => Sys2Proof.Machine.execVshr c ty a b s
  | .vsar c ty a b => Sys2Proof.Machine.execVsar c ty a b s
  | .vcmp c ty cc a b => Sys2Proof.Machine.execVcmp c ty cc a b s
  | .vsel c ty m a b => Sys2Proof.Machine.execVsel c ty m a b s
  | .vbext c ty sgn a b cc => Sys2Proof.Machine.execVbext c ty sgn a b cc s
  | .vfshr c ty a b cc => Sys2Proof.Machine.execVfshr c ty a b cc s
  | .vclmul c ty hi a b => Sys2Proof.Machine.execVclmul c ty hi a b s
  | .vpopc c ty a => Sys2Proof.Machine.execVpopc c ty a s
  | .vclz c ty a => Sys2Proof.Machine.execVclz c ty a s
  | .vbcast c ty a l => Sys2Proof.Machine.execVbcast c ty a l s
  | .viota c ty f => Sys2Proof.Machine.execViota c ty f s
  | .vrsum c ty sat a => Sys2Proof.Machine.execVrsum c ty sat a s
  | .vrmax c ty a => Sys2Proof.Machine.execVrmax c ty a s
  | .vrmin c ty a => Sys2Proof.Machine.execVrmin c ty a s
  | .vscan c ty op sat a => Sys2Proof.Machine.execVscan c ty op sat a s
  | .vshuf c ty a b cc => Sys2Proof.Machine.execVshuf c ty a b cc s
  | .vslide c ty up a b q_ => Sys2Proof.Machine.execVslide c ty up a b q_ s
  | .vtopk c ty n a => Sys2Proof.Machine.execVtopk c ty n a s
  | .vcvt c dt st md part a => Sys2Proof.Machine.execVcvt c dt st md part a s
  | .vsfu c ty f a => Sys2Proof.Machine.execVsfu c ty f a s
  | .vmov c ty a => Sys2Proof.Machine.execVmov c ty a s
  | .vmask c ty md a => Sys2Proof.Machine.execVmask c ty md a s
  | .vqnt c ty f gs a => Sys2Proof.Machine.execVqnt c ty f gs a s
  | .vdqnt c ty f gs a => Sys2Proof.Machine.execVdqnt c ty f gs a s
  | .vsetk unit dk f => Sys2Proof.Machine.execVsetk unit dk f s
  | .vextr unit ty d a l imm => Sys2Proof.Machine.execVextr unit ty d a l imm s
  | .vins unit ty d nowb n l => Sys2Proof.Machine.execVins unit ty d nowb n l s
  | .xexp c compress w m => Sys2Proof.Machine.execXexp c compress w m s
  | .xpln c f => Sys2Proof.Machine.execXpln c f s
  | .xtrn c f => Sys2Proof.Machine.execXtrn c f s
  | .xcvt c sf df gs sat => Sys2Proof.Machine.execXcvt c sf df gs sat s
  | .xscl c inv h => Sys2Proof.Machine.execXscl c inv h s
  | .xpack c w1 => Sys2Proof.Machine.execXpack c w1 s
  | .xunpk c sgn w1 => Sys2Proof.Machine.execXunpk c sgn w1 s
  | .xbits c w msb b => Sys2Proof.Machine.execXbits c w msb b s
  | .xzip c w => Sys2Proof.Machine.execXzip c w s
  | .xunzip c w => Sys2Proof.Machine.execXunzip c w s
  | .xswz c p w => Sys2Proof.Machine.execXswz c p w s
  | .lds g cl d a sz sx side disp => Sys2Proof.Machine.execLds g cl d a sz sx side disp s
  | .ldm g cl d a sz sx clus disp lat => Sys2Proof.Machine.execLdm g cl d a sz sx clus disp lat s
  | .ldw g cl d a sz sx clus disp => Sys2Proof.Machine.execLdw g cl d a sz sx clus disp s
  | .ldwRpl g => Sys2Proof.Machine.execLdwRpl g s
  | .ldq g d n => Sys2Proof.Machine.execLdq g d n s
  | .sts g cl src a sz sp disp => Sys2Proof.Machine.execSts g cl src a sz sp disp s
  | .stm g cl src a sz clus disp => Sys2Proof.Machine.execStm g cl src a sz clus disp s
  | .vld g cl d a b1 w k disp => Sys2Proof.Machine.execVld g cl d a b1 w k disp s
  | .vst g cl src a b1 w k disp => Sys2Proof.Machine.execVst g cl src a b1 w k disp s
  | .vldp g cl d a sw dw sx k disp => Sys2Proof.Machine.execVldp g cl d a sw dw sx k disp s
  | .vldg g cl d a w sh x k disp => Sys2Proof.Machine.execVldg g cl d a w sh x k disp s
  | .vsts g cl src a w sh x k disp => Sys2Proof.Machine.execVsts g cl src a w sh x k disp s
  | .ldh g cl h a mem disp => Sys2Proof.Machine.execLdh g cl h a mem disp s
  | .sth g cl h a mem disp => Sys2Proof.Machine.execSth g cl h a mem disp s
  | .ldpcw g cl n a mem disp => Sys2Proof.Machine.execLdpcw g cl n a mem disp s
  | .ats g cl op eight src clus a dd lat disp => Sys2Proof.Machine.execAts g cl op eight src clus a dd lat disp s
  | .atm g cl op eight src a dd lat disp => Sys2Proof.Machine.execAtm g cl op eight src a dd lat disp s
  | .mst g cl src a sz disp => Sys2Proof.Machine.execMst g cl src a sz disp s
  | .cpy g cl t hd hs rm sat outer comp => Sys2Proof.Machine.execCpy g cl t hd hs rm sat outer comp s
  | .cpyp g cl t hd hs rm sat outer comp => Sys2Proof.Machine.execCpyp g cl t hd hs rm sat outer comp s
  | .chst g cl t hd hs rm sat outer comp => Sys2Proof.Machine.execChst g cl t hd hs rm sat outer comp s
  | .cpya g cl t f hs gs outer => Sys2Proof.Machine.execCpya g cl t f hs gs outer s
  | .cpyb g cl t f hs gs outer => Sys2Proof.Machine.execCpyb g cl t f hs gs outer s
  | .cfil g cl t hd p outer => Sys2Proof.Machine.execCfil g cl t hd p outer s
  | .cred g cl t hd hs peer slot add => Sys2Proof.Machine.execCred g cl t hd hs peer slot add s
  | .cres g cl t hd hs hr hc gs => Sys2Proof.Machine.execCres g cl t hd hs hr hc gs s
  | .cmcs g cl t hs a => Sys2Proof.Machine.execCmcs g cl t hs a s
  | .cwld g cl t hd hs outer => Sys2Proof.Machine.execCwld g cl t hd hs outer s
  | .cmig g cl t v q_ far gran => Sys2Proof.Machine.execCmig g cl t v q_ far gran s
  | .crly g cl t v q_ gran => Sys2Proof.Machine.execCrly g cl t v q_ gran s
  | .cnest g l5 c ds dd => Sys2Proof.Machine.execCnest g l5 c ds dd s
  | .mcfg g n a => Sys2Proof.Machine.execMcfg g n a s
  | .mpcw g n a => Sys2Proof.Machine.execMpcw g n a s
  | .mgo g => Sys2Proof.Machine.execMgo g s
  | .mhad g row0 m1 drn hd t rm psh => Sys2Proof.Machine.execMhad g row0 m1 drn hd t rm psh s
  | .mwld g pcw k1 n1 t => Sys2Proof.Machine.execMwld g pcw k1 n1 t s
  | .mdrn g row0 c1 hd t rm psh i32 => Sys2Proof.Machine.execMdrn g row0 c1 hd t rm psh i32 s
  | .mzero g row0 c1 t => Sys2Proof.Machine.execMzero g row0 c1 t s
  | .mstat g a => Sys2Proof.Machine.execMstat g a s
  | .mswap g t => Sys2Proof.Machine.execMswap g t s
  | .br g t => Sys2Proof.Machine.execBr g t s
  | .brc g q n disp => Sys2Proof.Machine.execBrc g q n disp s
  | .call g l t => Sys2Proof.Machine.execCall g l t s
  | .ret g a => Sys2Proof.Machine.execRet g a s
  | .loop g lvl desc len1 n => Sys2Proof.Machine.execLoop g lvl desc len1 n s
  | .loopr g lvl desc len1 drain n => Sys2Proof.Machine.execLoopr g lvl desc len1 drain n s
  | .waite g mask => Sys2Proof.Machine.execWaite g mask s
  | .bsp g sc => Sys2Proof.Machine.execBsp g sc s
  | .fence g mask sc => Sys2Proof.Machine.execFence g mask sc s
  | .publish g mask => Sys2Proof.Machine.execPublish g mask s
  | .swapb g mask h m rs flip => Sys2Proof.Machine.execSwapb g mask h m rs flip s
  | .probe g a b kind => Sys2Proof.Machine.execProbe g a b kind s
  | .ckts g a b c three => Sys2Proof.Machine.execCkts g a b c three s
  | .cktv g x y b1 k => Sys2Proof.Machine.execCktv g x y b1 k s
  | .trap g d code => Sys2Proof.Machine.execTrap g d code s
  | .eret g => Sys2Proof.Machine.execEret g s
  | .setrpl g t => Sys2Proof.Machine.execSetrpl g t s
  | .enq g a => Sys2Proof.Machine.execEnq g a s
  | .spawn g a => Sys2Proof.Machine.execSpawn g a s
  | .endTask g => Sys2Proof.Machine.execEndTask g s
  | .dictld g a => Sys2Proof.Machine.execDictld g a s
  | .dictsw g => Sys2Proof.Machine.execDictsw g s
  | .rdtime g d e => Sys2Proof.Machine.execRdtime g d e s
  | .qpt g p y => Sys2Proof.Machine.execQpt g p y s
  | .inval g a b kind => Sys2Proof.Machine.execInval g a b kind s
  | .wcsld g d a b => Sys2Proof.Machine.execWcsld g d a b s
  | .halt g => Sys2Proof.Machine.execHalt g s
  | .resultLanding => Sys2Proof.Machine.execResultLanding s
  | .waitEnd => Sys2Proof.Machine.execWaitEnd s
  | .barrierRelease sc => Sys2Proof.Machine.execBarrierRelease sc s
  | .groupMark => Sys2Proof.Machine.execGroupMark s
  | .loopEnd => Sys2Proof.Machine.execLoopEnd s
  | .debugBreak => Sys2Proof.Machine.execDebugBreak s
  | .debugRelease => Sys2Proof.Machine.execDebugRelease s
  | .trackerDeadline n => Sys2Proof.Machine.execTrackerDeadline n s
  | .loadReply n v => Sys2Proof.Machine.execLoadReply n v s
  | .enterReplay => Sys2Proof.Machine.execEnterReplay s
  | .launchPacket w => Sys2Proof.Machine.execLaunchPacket w s
  | .mlaunch w => Sys2Proof.Machine.execMlaunch w s
  | .dispatchDecision core => Sys2Proof.Machine.execDispatchDecision core s
  | .entryAvailable task => Sys2Proof.Machine.execEntryAvailable task s
  | .preemptionRequest core => Sys2Proof.Machine.execPreemptionRequest core s
  | .stateSave => Sys2Proof.Machine.execStateSave s
  | .preemptHaltTimeout core => Sys2Proof.Machine.execPreemptHaltTimeout core s
  | .taskResume => Sys2Proof.Machine.execTaskResume s
  | .regionComplete region => Sys2Proof.Machine.execRegionComplete region s
  | .completionRecordWrite => Sys2Proof.Machine.execCompletionRecordWrite s
  | .coalesceTimerExpiry ring => Sys2Proof.Machine.execCoalesceTimerExpiry ring s
  | .ctailWrite ring v => Sys2Proof.Machine.execCtailWrite ring v s
  | .ringEnableWrite ring en => Sys2Proof.Machine.execRingEnableWrite ring en s
  | .blockLoad => Sys2Proof.Machine.execBlockLoad s
  | .pendingCommandActivates => Sys2Proof.Machine.execPendingCommandActivates s
  | .pass => Sys2Proof.Machine.execPass s
  | .pressDrain => Sys2Proof.Machine.execPressDrain s
  | .matrixCommandComplete => Sys2Proof.Machine.execMatrixCommandComplete s
  | .copyLine l => Sys2Proof.Machine.execCopyLine l s
  | .copyCommandComplete => Sys2Proof.Machine.execCopyCommandComplete s
  | .credTransferStart => Sys2Proof.Machine.execCredTransferStart s
  | .weightRefreshWindow => Sys2Proof.Machine.execWeightRefreshWindow s
  | .migrationRequest => Sys2Proof.Machine.execMigrationRequest s
  | .migrationCopyStart n => Sys2Proof.Machine.execMigrationCopyStart n s
  | .migrationCopyDone n => Sys2Proof.Machine.execMigrationCopyDone n s
  | .dwellExpiry n => Sys2Proof.Machine.execDwellExpiry n s
  | .hostMigrationRequest engine w0 => Sys2Proof.Machine.execHostMigrationRequest engine w0 s
  | .padd pool w => Sys2Proof.Machine.execPadd pool w s
  | .flitReceive port f => Sys2Proof.Machine.execFlitReceive port f s
  | .linkRetry port seq => Sys2Proof.Machine.execLinkRetry port seq s
  | .linkRetrain port ok free => Sys2Proof.Machine.execLinkRetrain port ok free s
  | .remoteRequest r => Sys2Proof.Machine.execRemoteRequest r s
  | .requestExpiry n => Sys2Proof.Machine.execRequestExpiry n s
  | .remoteAtomic r => Sys2Proof.Machine.execRemoteAtomic r s
  | .lineRecall line => Sys2Proof.Machine.execLineRecall line s
  | .lineReturn line bytes => Sys2Proof.Machine.execLineReturn line bytes s
  | .multicastStamp group src off bytes => Sys2Proof.Machine.execMulticastStamp group src off bytes s
  | .multicastApply group arrived => Sys2Proof.Machine.execMulticastApply group arrived s
  | .appliedReport group node applied => Sys2Proof.Machine.execAppliedReport group node applied s
  | .appliedReportTimer group => Sys2Proof.Machine.execAppliedReportTimer group s
  | .mcastGap group => Sys2Proof.Machine.execMcastGap group s
  | .memberReportTimeout group node => Sys2Proof.Machine.execMemberReportTimeout group node s
  | .groupEntryWrite agent group v => Sys2Proof.Machine.execGroupEntryWrite agent group v s
  | .fabricRelabel node ndim portmap => Sys2Proof.Machine.execFabricRelabel node ndim portmap s
  | .timeSync ref => Sys2Proof.Machine.execTimeSync ref s
  | .hostWindowRead hdm n => Sys2Proof.Machine.execHostWindowRead hdm n s
  | .hostWindowWrite hdm bytes => Sys2Proof.Machine.execHostWindowWrite hdm bytes s
  | .hostCompletionTimeout n => Sys2Proof.Machine.execHostCompletionTimeout n s
  | .bootStep bad => Sys2Proof.Machine.execBootStep bad s
  | .dieResetRequest mask => Sys2Proof.Machine.execDieResetRequest mask s
  | .dieEntersReset die => Sys2Proof.Machine.execDieEntersReset die s
  | .dieRelease die selfTest => Sys2Proof.Machine.execDieRelease die selfTest s
  | .patrolScrub die off gran => Sys2Proof.Machine.execPatrolScrub die off gran s
  | .farDieLoss f => Sys2Proof.Machine.execFarDieLoss f s
  | .taskKill task => Sys2Proof.Machine.execTaskKill task s
  | .rindClose die => Sys2Proof.Machine.execRindClose die s
  | .registerWrite agent off size v => Sys2Proof.Machine.execRegisterWrite agent off size v s
  | .regionBecomesLate region => Sys2Proof.Machine.execRegionBecomesLate region s
  | .linkTraining port => Sys2Proof.Machine.execLinkTraining port s
  | .spdmRequest r => Sys2Proof.Machine.execSpdmRequest r s
  | .writeAcknowledgement n code v => Sys2Proof.Machine.execWriteAcknowledgement n code v s
  | .haltRelease core => Sys2Proof.Machine.execHaltRelease core s
  | .moduleReset => Sys2Proof.Machine.execModuleReset s
  | .standbyRequest => Sys2Proof.Machine.execStandbyRequest s
  | .standbyWake => Sys2Proof.Machine.execStandbyWake s
  | .clockStepDown => Sys2Proof.Machine.execClockStepDown s
  | .clockStepUp => Sys2Proof.Machine.execClockStepUp s
  | .hostPortDown => Sys2Proof.Machine.execHostPortDown s
  | .hostPortTraining => Sys2Proof.Machine.execHostPortTraining s
  | .phaseRollback => Sys2Proof.Machine.execPhaseRollback s
  | .quiesceRequest => Sys2Proof.Machine.execQuiesceRequest s
  | .routerQuiesced => Sys2Proof.Machine.execRouterQuiesced s
  | .quiesceRelease => Sys2Proof.Machine.execQuiesceRelease s
  | .contentionHalving => Sys2Proof.Machine.execContentionHalving s

end Sys2Proof.Machine
end

