-- ==== Sys2Proof/Machine/Bundle.lean ====
section
/-! DEFINITION. One bundle of the core in focus (R181, R189, R194, R292, R452 to R456, R469): what holds it, its checks,
its effects, its group mark and loop ends, and a halt for pre-emption. -/

namespace Sys2Proof.Machine

open Sys2Proof

/-! ### What a bundle asks of the core before it issues -/

/-- Guard and class of an operation that reaches the local port (R264); ENQ, DICTLD and MSTAT have no class. -/
def portUse : Instr → Option (PReg × Option Cls)
  | .lds g cl .. | .vld g cl .. | .vldp g cl .. | .vldg g cl .. | .vst g cl .. | .vsts g cl .. => some (g, some cl)
  | .ldh g cl _ _ mem _ | .ldpcw g cl _ _ mem _ | .sth g cl _ _ mem _ => if mem then none else some (g, some cl)
  | .sts g cl _ _ _ sp _ => if sp = .cluster then none else some (g, some cl)
  | .ats g cl _ _ _ clus .. => if clus then none else some (g, some cl)
  | .mstat g _ | .enq g _ | .dictld g _ => some (g, none)
  | _ => none

/-- Guard of an operation that takes a load-tracker entry (R265). -/
def trackUse : Instr → Option PReg
  | .ldm g .. => some g
  | .ats g _ _ _ _ _ _ dd _ _ | .atm g _ _ _ _ _ dd _ _ => if dd = 0 then none else some g
  | _ => none

/-- Guard of an operation that takes a place in the copy engine's queue (R275). -/
def copyUse : Instr → Option PReg
  | .cpy g .. | .cpyp g .. | .chst g .. | .cpya g .. | .cpyb g .. | .cfil g .. | .cred g .. | .cres g .. | .cmcs g .. |
    .cwld g .. | .cmig g .. | .crly g .. => some g
  | _ => none

/-- A source byte of a copy command's element at position p lies on this node, or may yet. -/
def State.srcHere (s : State) (q : CopyCmd) (p : Nat) : Bool :=
  let at_ := { q with pos := p }
  let a := q.at at_.elem
  let here (h : Handle) : Bool := (elemAddrs h (hcoord h a.q)).any (fun x => decide (hget h .space ≠ 0) ||
    (match s.translate q.xl x.toNat .rd with
      | .ok pa _ _ _ => !s.isRemote pa
      | _ => true))
  here a.hs || (match q.op with
    | .cres _ => here q.hr
    | _ => false)

/-- A copy command of a class has reads of this node left (R264). -/
def State.copyBusy (s : State) (q : CopyCmd) (cl : Cls) : Bool :=
  decide (q.cls = cl) && (match q.op with
    | .cfil _ | .cmig .. | .crly .. => false
    | _ => (List.range (q.total - q.pos)).any (fun i => s.srcHere q (q.pos + i)))

/-- An earlier access of class cl that targets this node has not performed (R264). -/
def State.classBusy (s : State) (cl : Cls) : Bool :=
  s.core.pend.any (fun a => s.core.mine a.task && a.inClass cl && (s.farTarget a.tgt).isNone && !a.tgt.isMcast) ||
    s.core.eng.cq.any (fun q => s.copyBusy q cl)

/-- Memory that another node owns and that the checks of an operation read: a loop's descriptor, a spawned root (R350). -/
def State.owes (s : State) (i : Instr) : Option (Dpa × Nat) :=
  match i with
  | .loop g _ desc .. | .loopr g _ desc .. => (match s.preg g, s.descLine desc with
    | true, some (.away pa) => some (pa, 64)
    | _, _ => none)
  | .spawn g a => (match s.preg g && inHeap s.core.sys.xlat (s.sreg a).toNat,
        s.translate s.core.sys.xlat (s.sreg a).toNat .rd with
    | true, .ok pa _ _ _ => if s.lineAway pa 256 then some (pa, 256) else none
    | _, _ => none)
  | _ => none

/-- A loop start's descriptor that cannot be fetched yet, or a line that is recalled first. -/
def State.descWaits (s : State) (i : Instr) : Bool :=
  (s.owes i).isSome || (match i with
    | .loop g _ desc .. | .loopr g _ desc .. => s.preg g && decide (s.descLine desc = some .wait)
    | _ => false)

/-- A load of the task waits for the reply of a device register that its second walk found (R268). -/
def Core.registerWait (c : Core) : Bool :=
  c.pend.any (fun a => c.mine a.task && (match a.op with
    | .ldWait .. => true
    | _ => false))

/-- The stops of R181 that hold a fetched bundle before it issues. -/
def State.heldBack (s : State) (ops : List Instr) : Bool :=
  let on (g : PReg) : Bool := s.preg g
  s.core.registerWait || ops.any (fun i => match portUse i with
    | some (g, cl) => on g && (decide (s.pcyc + 1 < s.core.ctl.busyPort) || cl.any s.classBusy)
    | none => false) ||
  (ops.any (fun i => (copyUse i).any on) && s.core.copyFull) ||
  decide (s.core.track.toList.countP Option.isNone < ops.countP (fun i => (trackUse i).any on)) ||
  ops.any s.descWaits

/-! ### Checks (R452 to R456) -/

/-- The place of a code in the order of R454. -/
def codeRank (c : BitVec 16) : Nat :=
  ([fcOPCODE, fcRESERVED, fcPRIVILEGE, fcLOOP, fcSCHEDULE, fcHANDLE, fcOPERAND, fcQUEUE, fcUSER_TRAP].findIdx?
    (fun x => decide (x = c))).getD 9

/-- The slots that name no instruction. -/
def slotFaults (l : List (Slot × Except Reject Instr)) : List FoundFault :=
  l.filterMap (fun e => match e.2 with
    | .ok _ => none
    | .error (.opcode v) => some ⟨slotNum e.1, fcOPCODE, BitVec.ofNat 16 v, none⟩
    | .error (.reserved b) => some ⟨slotNum e.1, fcRESERVED, BitVec.ofNat 16 (slotBase e.1 + b), none⟩)

/-- The operations of a bundle in slot order. -/
def slotOps (l : List (Slot × Except Reject Instr)) : List Instr :=
  l.filterMap (fun e => match e.2 with
    | .ok i => if isNop i then none else some i
    | .error _ => none)

/-- A transfer that the bundle takes: BR, BRC, CALL, RET, a TRAP to its handler, ERET from trap mode (R184). -/
def State.takes (s : State) (i : Instr) : Bool :=
  match i with
  | .br g _ | .call g _ _ | .ret g _ => s.preg g
  | .brc g q n _ => s.preg g && (s.preg q != n)
  | .trap g .. => s.preg g && decide (s.core.sys.trapaddr ≠ 0) && !s.core.ctl.trap && !s.core.ctl.replay
  | .eret g => s.preg g && s.core.ctl.trap && !s.core.ctl.replay
  | _ => false

/-- Loop-structure violations of the LE bits at this PC (R196), in the order they are looked for. -/
def Loops.leFault (l : Loops) (le : BitVec 3) (pc : Word) (trap : Bool) : Option (BitVec 16) :=
  if le ≠ 0 ∧ trap ∧ l.any then some 9
  else
    (List.range 3).findSome? (fun i =>
      let v := l.at i
      if le.getLsbD i then
        if !v.active then some 3
        else if pc ≠ v.last then some 8
        else if (List.range i).any (fun j => (l.at j).active && !le.getLsbD j) then some 4
        else none
      else if v.active ∧ pc = v.last then some 2
      else none)

/-- Guard and token of an M command, and of a C command. -/
def State.mTok (s : State) : Instr → Option (PReg × Tok)
  | .mgo g => some (g, s.goCmd.tok)
  | .mhad g _ _ _ _ t _ _ | .mwld g _ _ _ t | .mdrn g _ _ _ t _ _ _ | .mzero g _ _ t | .mswap g t => some (g, t)
  | _ => none

def cTok : Instr → Option (PReg × Tok)
  | .cpy g _ t .. | .cpyp g _ t .. | .chst g _ t .. | .cpya g _ t .. | .cpyb g _ t .. | .cfil g _ t .. | .cred g _ t .. |
    .cres g _ t .. | .cmcs g _ t .. | .cwld g _ t .. | .cmig g _ t .. | .crly g _ t .. => some (g, t)
  | _ => none

/-- The M command of the bundle takes its token's count to 255, and the C command would raise it once more (R184). -/
def State.tokTwice (s : State) (ops : List Instr) : Bool :=
  ops.any (fun i => (s.mTok i).any (fun (g, t) => s.preg g && decide ((s.core.eng.tokens[t.toNat]'(t.isLt)) = 254) &&
    ops.any (fun j => (cTok j).any (fun (g', t') => s.preg g' && decide (t' = t)))))

/-- The checks that belong to the bundle: SLOT 8 (R454), and the token count of two commands, at the later. -/
def State.bundleFaults (s : State) (w : Line) (ops : List Instr) (mark : Bool) : List FoundFault :=
  let le := w.extractLsb' 508 3
  let head := if w.extractLsb' 504 3 ≠ 0 then [FoundFault.mk 8 fcRESERVED 504 none] else []
  if s.core.ctl.replay then head
  else head ++
    (match s.core.loops.leFault le s.core.ctl.curPc s.core.ctl.trap with
      | some d => [FoundFault.mk 8 fcLOOP d none]
      | none => []) ++
    (if le ≠ 0 ∧ ops.any s.takes then [FoundFault.mk 8 fcSCHEDULE 3 none] else []) ++
    (if !mark ∧ 64 ≤ s.core.ctl.since then [FoundFault.mk 8 fcSCHEDULE 4 none] else []) ++
    (if s.tokTwice ops then [FoundFault.mk 7 fcSCHEDULE 6 none] else [])

/-- One fault for each failing slot, in slot order: the first of R454's order. -/
def firstPerSlot (l : List FoundFault) : List FoundFault :=
  (List.range 9).filterMap (fun n =>
    bestBy (fun a b => decide (codeRank a.code < codeRank b.code)) (l.filter (fun f => decide (f.slot = n))))

/-- Take the faults of a bundle that does not issue (R453). -/
def State.refuseBundle (s : State) (l : List FoundFault) : State :=
  s.takeFaults none ((firstPerSlot l).map (fun f => { s.opInfo f.slot f.code f.detail with saw := f.saw }))

/-- The errors that the bundle's reads consume, by slot (R399). -/
def Core.consumed (c : Core) : List FoundFault :=
  c.ctl.reads.filterMap (fun p => (c.consumes p.2).map (fun f => FoundFault.mk p.1 f.code f.detail f.saw))

/-! ### Passes over the operations -/

/-- Every operation takes part in one pass, in slot order. -/
def runPass (p : Pass) (ops : List Instr) (s : State) : Host.Outcome State Fault Refusal :=
  ops.foldl (fun o i => match o with
    | .next s => exec i s
    | o => o) (.next (s.mc (fun c => c.mctl (fun k => { k with pass := p }))))

/-- The bundle's passes are over. -/
def Core.passOver (c : Core) : Core := c.mctl (fun k => { k with pass := .alone, found := [], reads := [] })

def passOver : Host.Outcome State Fault Refusal → Host.Outcome State Fault Refusal
  | .next s => .next (s.mc Core.passOver)
  | o => o

/-! ### The bundle comes up, issues and is behind -/

/-- The instruction buffer with the bundle w of address va in it (R22). -/
def Core.buffered (c : Core) (va : Word) (w : Line) : List (Word × Line) :=
  (va, w) :: c.ibuf.filter (fun p => decide (p.1 ≠ va))

/-- The bundle of bits w at the PC is the one that comes up now: its LE bits read the counters of active levels. -/
def Core.comeUp (c : Core) (w : Line) : Core :=
  let le : BitVec 3 := if c.ctl.replay then 0 else w.extractLsb' 508 3
  let counts := ([0, 1, 2].filter (fun i => le.getLsbD i && (c.loops.at i).active)).map (fun i => (8, Mark.lc i))
  { c with
    ctl := { c.ctl with curPc := c.ctl.pc, btag := w.extractLsb' 496 8, npc := none, found := [], reads := counts },
    loops := { c.loops with le := le } }

/-- Whether the bundle is a group mark (R189, R266). -/
def Core.isMark (c : Core) (w : Line) : Bool :=
  !c.ctl.replay && (w.getLsbD 511 || decide (w.extractLsb' 508 3 ≠ 0) || c.ctl.mark)

/-- The bundle issues: it leaves the instruction buffer, the loop buffer keeps it while it lies in the outermost active
body, the release of its break is spent, and it counts in its group (R22, R189, R192, R381). -/
def Core.begin_ (c : Core) (w : Line) (mark : Bool) : Core :=
  let c := if mark then c.takeMark else c
  { c with
    ibuf := c.ibuf.filter (fun p => decide (p.1 ≠ c.ctl.curPc)), loops := c.loops.keep c.ctl.curPc w,
    ctl := { c.ctl with
      brkDone := c.ctl.brkDone.filter (fun p => decide (p ≠ c.ctl.curPc)),
      since := if c.ctl.replay then c.ctl.since else c.ctl.since + 1 } }

/-- Halt for pre-emption at the bundle the PC names: replay mode is abandoned for its recorded bundle, and after a group
mark the latches are empty (R55, R266, R292). -/
def Core.haltFor (c : Core) (mark : Bool) : Core :=
  let c := if c.ctl.replay then c.mctl (fun k =>
      { k with replay := false, pc := k.replayRet, wait := none }) else c
  let c := if mark then c.emptyLatches.mctl (fun k => { k with mark := true }) else c
  c.haltNow

/-- After its effects: latches of a mark are empty, the levels its LE bits name act, the PC moves on; a pre-emption asked
for stops issue after a mark (R55, R188, R194). -/
def State.close (s : State) (mark : Bool) : State :=
  let s := if mark then s.mc Core.emptyLatches else s
  let s := match execLoopEnd s with
    | .next s => s
    | _ => s
  let s := s.mc (fun c => c.passOver.mctl (fun k =>
    { k with pc := k.npc.getD (k.curPc + 64), npc := none, ready := max k.ready (s.pcyc + 1) }))
  if mark && s.core.preempt.isSome && !s.core.stoppedByHand then s.mc (fun c => c.haltFor true) else s

/-- The effects of a bundle whose checks have passed. -/
def State.issueNow (s : State) (w : Line) (ops : List Instr) : Host.Outcome State Fault Refusal :=
  let mark := s.core.isMark w
  match runPass .go ops (s.mc (fun c => c.begin_ w mark)) with
  | .next s => .next (s.close mark)
  | o => o

/-- Steps 2 to 4 of R469 once the checks that read no scalar have been made, with what they found at the slots and the
bundle: replay for a poisoned register when nothing failed, errors that the reads consume, then the checks that read
scalar values; each failing slot raises one record (R454). -/
def State.checks (s : State) (w : Line) (ops : List Instr) (bad : List FoundFault) : Host.Outcome State Fault Refusal :=
  let early := bad ++ s.core.ctl.found
  if !s.core.owedReads.isEmpty then
    passOver (if early.isEmpty then execEnterReplay s else .next (s.refuseBundle early))
  else if early.isEmpty && !s.core.consumed.isEmpty then passOver (.next (s.refuseBundle s.core.consumed))
  else
    match runPass .scalar ops s with
    | .next s =>
      let all := bad ++ s.core.ctl.found
      if all.isEmpty then s.issueNow w ops else passOver (.next (s.refuseBundle all))
    | o => o

/-- A bundle that comes up for issue (R469). -/
def State.bundle (s : State) (w : Line) : Host.Outcome State Fault Refusal :=
  let slots := decodeBundle w
  let ops := slotOps slots
  let s := s.mc (fun c => c.comeUp w)
  match runPass .static ops s with
  | .next s => s.checks w ops (slotFaults slots ++ s.bundleFaults w ops (s.core.isMark w))
  | o => o

/-! ### The core's turn in a cycle -/

/-- A pre-emption request takes a core at which issue is already stopped (R292); one that HALT or a break holds is left. -/
def State.stopForGood (s : State) : State :=
  if s.core.preempt.isSome then s.mc (fun c => c.haltFor false) else s

/-- What the core does when it comes up for issue: it stands at a wait or at a bundle it cannot issue yet, or a bundle
comes up. -/
def State.comesUp (s : State) : Host.Outcome State Fault Refusal :=
  let k := s.core.ctl
  if s.core.mode ≠ .running then .next s
  else if k.wait.isSome then .next (if s.core.stoppedByHand || s.core.rolling then s else s.stopForGood)
  else if k.replay ∧ s.core.preempt.isSome then .next s.stopForGood
  else if s.pcyc < k.ready then .next s
  else
    match s.bundleAt with
    | .wait => .next s.stopForGood
    | .away pa => .next (s.fetched k.pc.toNat (.away pa)).stopForGood
    | .hole => .fault .noSuchMemory
    | .fail code detail unit => .next (s.fetchFault k.pc code detail unit)
    | .line w from_ =>
      let s := (s.fetched k.pc.toNat (.line w from_)).mc (fun c => { c with ibuf := c.buffered k.pc w })
      let ops := slotOps (decodeBundle w)
      if s.breaks w then .next (s.stopBreak w)
      else if s.heldBack ops then
        .next ((ops.filterMap s.owes).foldl (fun s (pa, n) => s.askLines pa n) s).stopForGood
      else s.bundle w

/-- The core's turn of this cycle. -/
def State.turn (s : State) : Host.Outcome State Fault Refusal :=
  (s.mc (fun c => c.mctl (fun k => { k with turn := s.pcyc + 1 }))).comesUp

end Sys2Proof.Machine
end

