-- ==== Sys2Proof/Machine/Next.lean ====
section
/-! DEFINITION. What happens next: the turns of the agenda, and, when it is empty, the module's own course: what is due at
the core in focus, its turn to issue, the other cores, the hub, and the next cycle. The manual orders the cores and the
hub in no way within a cycle; the agenda can put anything it allows elsewhere. -/

namespace Sys2Proof.Machine

open Sys2Proof

abbrev Out := Host.Outcome State Fault Refusal

/-! ### Time (R24, R25, R386, R388) -/

/-- Units of 1/189 ns in one cycle at a clock step: 2.1, 1.8, 1.5 and 1.35 GHz. -/
def cycleUnits (clk : BitVec 2) : Nat :=
  match clk.toNat with
  | 0 => 90
  | 1 => 105
  | 2 => 126
  | _ => 140

/-- The next cycle: PCYC counts it, DTIME moves on by its length less what a slew holds back. Time counts from boot
step 4 on (R377). -/
def State.tick (s : State) : State :=
  if s.hub.stage.toNat < 4 then s
  else
    let u := cycleUnits s.hub.clk
    let back := min u s.fab.slow
    let s := s.mfab (fun f => { f with slow := f.slow - back })
    let i := s.hub.clk.toNat
    let s := s.mhub (fun h => { h with stepUs := h.stepUs.setIfInBounds i (h.stepUs.getD i 0 + u) })
    { s with pcyc := s.pcyc + 1, dsub := s.dsub + (u - back) }

/-! ### Candidates -/

/-- What an instruction does now, when it does anything. -/
def State.try_ (s : State) (i : Instr) : Option Out :=
  match exec i s with
  | .next t => if t = s then none else some (.next t)
  | o => some o

/-- The first of a list that does anything. -/
def State.tryAll (s : State) (l : List Instr) : Option Out := l.findSome? s.try_

/-- A next state that differs. -/
def State.changed (s t : State) : Option Out := if t = s then none else some (.next t)

/-- The oldest pending access of the core in focus that can perform or leave does so. -/
def State.performNext (s : State) : Option Out := s.core.pend.findSome? (fun a => s.changed (s.performAcc a).takeLate)

/-- Tracker entries whose cycle has come. -/
def Core.deadlines (c : Core) (t : Nat) : List (BitVec 4) :=
  ((List.range 16).filter (fun i => match c.track.getD i none with
    | some x => !x.late && !x.drop && decide (x.due ≤ t)
    | none => false)).map (BitVec.ofNat 4)

/-- Requests of the core in focus that have waited too long (R441, R447). -/
def State.expired (s : State) : List Instr :=
  s.core.pend.flatMap (fun a =>
    (if a.sent ∧ a.born + 101000 ≤ s.ns then [Instr.requestExpiry a.id] else []) ++
    (if !s.host.up ∧ a.outside ∧ !a.sent ∧ a.born + 10000000 ≤ s.ns then [Instr.hostCompletionTimeout a.id] else []))

/-- The engines' next actions. -/
def Core.engineEvents (c : Core) : List Instr :=
  (if c.eng.act.isSome || c.eng.pend.isSome then
    [.blockLoad, .pass, .pressDrain, .matrixCommandComplete, .pendingCommandActivates] else []) ++
  (if c.eng.cq.isEmpty then []
    else [.credTransferStart, .copyLine .a, .copyLine .b, .copyLine .general, .copyCommandComplete])

/-- Events of a wait, of a halt, or of a restore under way. -/
def Core.waitEvents (c : Core) : List Instr :=
  (match c.ctl.wait with
    | none => []
    | some (.bsp sc) => [.barrierRelease sc]
    | some _ => [.waitEnd]) ++
  (match c.mode with
    | .halted => [.stateSave]
    | .resuming => [.taskResume]
    | _ => [])

/-- What falls in a cycle of its own at the core in focus: deadlines, then the results that land, then beats of the port;
those of this cycle come after the core's turn to issue (R183, R257, R264, R265). -/
def State.due (s : State) : Option Out :=
  match s.tryAll ((s.core.deadlines s.pcyc).map Instr.trackerDeadline) with
  | some o => some o
  | none =>
    if s.core.flight.any (fun x => decide (x.cyc ≤ s.pcyc)) then some (exec .resultLanding s)
    else match s.core.portDue (if s.core.ctl.turn ≤ s.pcyc then s.pcyc - 1 else s.pcyc) with
      | [] => none
      | l => some (.next (s.beats l))

/-- What happens at the core in focus in this cycle: what is due, accesses, engines, waits. -/
def State.coreNow (s : State) : Option Out :=
  match s.due with
  | some o => some o
  | none =>
    match s.performNext with
    | some o => some o
    | none => s.tryAll (s.expired ++ s.core.engineEvents ++ s.core.waitEvents)

/-! ### The hub's course -/

/-- Another core that has something to do and has not come up in this cycle. -/
def State.otherCore (s : State) : Option Nat :=
  (s.parked.find? (fun p => decide (p.2.ctl.turn ≤ s.pcyc) &&
    (decide (p.2.mode ≠ .free) || !p.2.pend.isEmpty || !p.2.port.isEmpty))).map Prod.fst

/-- Records, rings and completions. -/
def State.recordEvents (s : State) : List Instr :=
  (if s.hub.recs.isEmpty then [] else [.completionRecordWrite]) ++
  ((s.hub.tasks.filter (fun t => s.entryDue t.id)).map (fun t => Instr.entryAvailable t.id)) ++
  ((s.hub.regs.filter s.canComplete).map (fun r => Instr.regionComplete r.id)) ++
  ((List.range 256).filterMap (fun i =>
    let r := s.hub.rings.getD i Ring.reset
    if r.first.time ≠ 0 ∧ 0 < r.pending ∧ r.oldest + r.first.time.toNat ≤ s.ns then
      some (Instr.coalesceTimerExpiry (BitVec.ofNat 8 i)) else none))

/-- Starts, reservations, late regions and pre-emption. -/
def State.dispatchEvents (s : State) : List Instr :=
  if s.hub.regs.any s.unstarted && s.dispatching then
    ((s.hub.regs.filter s.pastDue).map (fun r => Instr.regionBecomesLate r.id)) ++
    (((allCores.find? (fun c => s.idle c && s.decides c)).or (if s.reserves then some 0 else none)).map (fun c =>
      Instr.dispatchDecision (BitVec.ofNat 9 c))).toList ++
    ((allCores.find? s.mayPreempt).map (fun c => Instr.preemptionRequest (BitVec.ofNat 9 c))).toList
  else []

/-- Cores that have been asked to halt (R417). -/
def State.haltTimeouts (s : State) : List Instr :=
  ((s.cur, s.core) :: s.parked).filterMap (fun p =>
    if p.2.preempt.isSome then some (Instr.preemptHaltTimeout (BitVec.ofNat 9 p.1)) else none)

/-- Migration. -/
def State.migEvents (s : State) : List Instr :=
  (if s.hub.migq.isEmpty then [] else [.migrationRequest]) ++
  (List.range s.hub.migs.length).flatMap (fun n =>
    [.migrationCopyStart n, .migrationCopyDone n, .dwellExpiry n])

/-- Work that a cleared QREQ lets go on: requests whose line is here, and messages whose port has a credit (R340). -/
def State.released (s : State) : Bool :=
  !s.fab.qreq && !s.fab.fq &&
    ((match s.fab.held with
      | [] => false
      | h :: _ => !s.lineAway h.span.1 h.span.2) ||
    (match s.fab.out with
      | [] => false
      | m :: _ => (s.portOf m).all (fun q => decide (0 < (s.fab.port q).credit.getD m.vc.toNat 0))))

/-- The fabric: recalls, halvings, groups and quiescing. A sequencer whose entry has lost V still answers what it holds. -/
def State.fabricEvents (s : State) : List Instr :=
  (s.fab.asked.map Instr.lineRecall) ++
  (if s.fab.halved < s.ns / 16000 then [.contentionHalving] else []) ++
  (s.fab.groups.flatMap (fun (g, x) =>
    (if x.queue.isEmpty then [] else [.multicastStamp g ⟨s.fab.node, 0⟩ 0 []]) ++
    (if x.v then
      [.multicastApply g none, .appliedReportTimer g, .mcastGap g] ++
      (if x.seqnode = s.fab.node ∧ x.nextseq ≠ x.start + 1 then
        (Group.members x).map (fun n => Instr.memberReportTimeout g n) else [])
    else []))) ++
  (if s.fab.qreq && !s.fab.fq then [.routerQuiesced] else []) ++
  (if s.released then [.quiesceRelease] else [])

/-- Dies asked to reset or released, the clock, and standby. Whether a contained die passes its self-test is free. -/
def State.powerEvents (s : State) : List Instr :=
  ((List.range 4).filterMap (fun d =>
    if s.drst d && !s.din d then some (Instr.dieEntersReset (BitVec.ofNat 2 d)) else none)) ++
  ((List.range 4).filterMap (fun d =>
    if !s.drst d && s.din d && !s.hub.failedTest.getLsbD d then
      some (Instr.dieRelease (BitVec.ofNat 2 d) (Config.freeBit (Nat.pair s.fresh d))) else none)) ++
  (if s.stepDue s.hub.hotAt then [.clockStepDown] else []) ++ (if s.stepDue s.hub.coolAt then [.clockStepUp] else []) ++
  (if s.hub.pst = 3 then [.standbyWake] else []) ++
  (if s.hub.stby ∧ (s.hub.pst = 2 ∨ (s.hub.pst = 0 ∧ s.noLaunch ∧ s.hub.stage = 5)) then [.standbyRequest] else [])

/-- A saved task that can resume: its core comes into focus, then it resumes (R57). -/
def State.resumeNow (s : State) : Option Out :=
  match s.hub.saves.find? s.resumable with
  | none => none
  | some v => if v.core = s.cur then s.try_ .taskResume else some (.next (s.focus v.core))

/-- Boot goes on: the images of the next step verify or do not; the die of one that does not is free (R377, R451). -/
def State.bootNow (s : State) : Option Out :=
  if s.hub.stage.toNat < 5 ∧ !s.hub.bootFailed ∧ !s.hub.fatal then
    s.try_ (.bootStep (if (bootMeasures s.hub.bootStep).all (fun i => Config.signatureOk (Config.image i)) then none
      else some (BitVec.ofNat 5 ((Config.freeByte (Nat.pair s.fresh 17)).toNat % 17))))
  else none

/-- What the hub does on its own account: it reports what it has found in memory, a launch packet whose tree is here again is
read, and every unit is patrolled in each 24 hours (R350, R426). -/
def State.ownNow (s : State) : Option Out :=
  if !s.hub.found.isEmpty then some (.next s.hubCheck)
  else if s.inboxReady then some (.next s.nextPacket)
  else if s.patrolDue then some (.next s.patrolAll)
  else none

/-- The hub's next action. -/
def State.hubNow (s : State) : Option Out :=
  match s.bootNow.or s.ownNow with
  | some o => some o
  | none =>
    match s.tryAll (s.recordEvents ++ s.haltTimeouts ++ s.migEvents ++ s.fabricEvents ++ s.powerEvents) with
    | some o => some o
    | none =>
      match s.resumeNow with
      | some o => some o
      | none => s.tryAll s.dispatchEvents

/-! ### One step -/

/-- The module's own course. -/
def State.course (s : State) : Out :=
  match s.coreNow with
  | some o => o
  | none =>
    if s.core.ctl.turn ≤ s.pcyc then s.turn
    else
      match s.otherCore with
      | some n => .next (s.focus n)
      | none =>
        match s.hubNow with
        | some o => o
        | none => .next s.tick

/-- The TLB of the focus core's die takes the leaf that a walk of va for its context reaches, when nothing moves the page
and no entry maps va yet (R79, R91). -/
def State.tlbFill (s : State) (va : Nat) : State :=
  let x := s.core.sys
  if 2 ^ 48 ≤ va ∨ (s.tlbHit x.asid va).isSome then s
  else
    match s.walk va 2 (x.ptroot.extractLsb' 0 53) with
    | .leaf lvl ea e =>
      if e.getLsbD 12 then s
      else { s.walked s.core.sys.xlat va with tlb := s.tlb ++ [⟨dieOf s.cur, x.asid, lvl, va >>> (18 + 10 * lvl), ea, e⟩] }
    | .stop _ => s

/-- A bundle is fetched before it is due: it runs as memory holds it now (R22). -/
def State.prefetch (s : State) (va : Nat) : State :=
  if s.core.mode = .running ∧ va % 64 = 0 then
    match s.fetchLine va with
    | .line w from_ => (s.fetched va (.line w from_)).mc (fun c => { c with ibuf := c.buffered (BitVec.ofNat 64 va) w })
    | .away pa => s.fetched va (.away pa)
    | _ => s
  else s

/-- Core n comes up for issue in its cycle while accesses of its own wait: what is due there comes first (R183, R335). -/
def State.issueFirst (s : State) (n : Nat) : Out :=
  let s := s.focus n
  if s.core.ctl.turn ≤ s.pcyc then s.due.getD s.turn else .next s

/-- A cycle ends while accesses wait to perform, when nothing else of this cycle is left: what is due and the engines at the
core in focus, and the other cores' turns. -/
def State.idleTick (s : State) : State :=
  let turned (c : Core) : Bool := decide (s.pcyc < c.ctl.turn) || (decide (c.mode = .free) && c.port.isEmpty)
  if s.due.isNone && (s.tryAll s.core.engineEvents).isNone && (s.core :: s.parked.map Prod.snd).all turned then s.tick else s

/-- The power and temperature registers that have readings (R389). -/
def sensor (r : Nat) : Bool :=
  decide (r % 8 = 0) && decide (0x400 ≤ r) && decide (r < 0x4D0) && (decide (r ≤ 0x420) || decide (0x440 ≤ r)) &&
    decide (r < 0x4C8)

/-- A reading of a sensor: the clock's conditions are judged anew, and a compute die at 105 °C is contained (R386, R389,
R417). -/
def State.sense (s : State) (r : Nat) (v : Word) : State :=
  if !sensor r then s
  else
    let s := (s.mhub (fun h => { h with sensed := (r, v) :: h.sensed.filter (fun p => decide (p.1 ≠ r)) })).judge
    let d := (r - 0x440) / 8
    if 0x440 ≤ r ∧ d < 4 ∧ 105000 ≤ toS 64 v.toNat then s.closeRind d 14 else s

/-- A read by the host over its port (R30, R377): what it gets. -/
def State.hostRead_ (s : State) (bs : List Byte) : State := if s.host.up then s.hostAnswer bs false else s

/-- The response to an engine's read: an error from another node or the host, or a line of another node (R346, R447). -/
def State.engineReply (s : State) (id : Nat) (code detail : BitVec 16) (line : List Byte) : State :=
  match s.core.pend.find? (fun a => decide (a.id = id)) with
  | some a => (match a.op with
    | .engRead .. =>
      if a.outside ∧ code ≠ 0 then s.reply a code detail 0
      else if a.sent ∧ code = 0 ∧ line.length = 64 then s.reply a 0 0 (leNat line)
      else s
    | _ => s)
  | none => s

/-- Node 0, the time reference, sends its DTIME to another on channel 6; when, the manual leaves open (R341, R388). -/
def State.timeBase (s : State) (dst : BitVec 10) : State :=
  if s.fab.node = 0 ∧ dst ≠ 0 ∧ s.fab.ndim ≠ 0 ∧ dst.toNat < 2 ^ s.fab.ndim.toNat then s.emit ⟨dst, 6, 0, .time s.dtime⟩ else s

/-- One turn of the agenda. A slot operation is no event: it comes from a bundle. A write to the launch aperture in another
size than 64 bytes is dropped and reported; reads of it return zero (R30, R361). -/
def State.take (s : State) (t : Turn) : Out :=
  match t with
  | .event i => if (encodeSlot i).isNone then exec i s else .next s
  | .perform core id => .next (s.onCore core (fun s => match s.core.pend.find? (fun a => decide (a.id = id)) with
      | some a => (s.performAcc a).takeLate
      | none => s))
  | .focus core => .next (if core < Config.cores then s.focus core else s)
  | .prefetch core va => .next (s.onCore core (fun s => s.prefetch va))
  | .tlbFill core va => .next (s.onCore core (fun s => s.tlbFill va))
  | .tlbDrop n => .next { s with tlb := s.tlb.eraseIdx n }
  | .tick => .next s.idleTick
  | .issue core => s.issueFirst core
  | .portLag core n => .next (s.onCore core (fun s => s.portLag n))
  | .upset core unit addr corrected => .next (s.upset core unit addr corrected)
  | .hubFails => .next s.hubFailure
  | .replyLost => .next (s.mfab (fun f => { f with replyLost := true }))
  | .flip key bits => .next (s.flip key bits)
  | .bufTake line => .next (s.bufTake line)
  | .bufDrop line => .next (s.bufDrop line)
  | .bufUpset line corrected => .next (s.bufUpset line corrected)
  | .sense reg v => .next (s.sense reg v)
  | .engineReply core id code detail line => .next (s.onCore core (fun s => s.engineReply id code detail line))
  | .timeBase dst => .next (s.timeBase dst)
  | .linkSlot p => .next (if p < 12 ∧ (s.fab.port p).up then s.idleOut p else s)
  | .hostMemory a bs => .next (s.hostWrite a bs)
  | .barRead off n => .next (s.hostRead_ (s.regReadBytes .host off n))
  | .apertureRead n => .next (s.hostRead_ (List.replicate n 0))
  | .apertureWrite n => .next (if n ≠ 64 ∧ s.host.up then s.mhub (fun h => { h with apertureDrops := h.apertureDrops + 1 }) else s)

/-- Cores with four severity-1 machine checks are retired with the step that brings the fourth (R416). -/
def retired : Out → Out
  | .next s => .next s.retireDue
  | o => o

/-- The next turn of the agenda, or the module's own course. -/
def State.advance (s : State) : Out :=
  retired (match s.agenda with
    | t :: rest => State.take { s with agenda := rest } t
    | [] => s.course)

/-! ### An instruction placed where the next is fetched -/

/-- A region with one task of ASID 0: heap 1 GiB from VA 0 at DPA 0 of the near memory, all rights, all of a core's
memories, entry at the heap's first byte. -/
def placedRegion (id : Nat) : Region :=
  { id := id, launch := 0, rcb := 0x3FFFFF00, gran := 1, parent := none, kind := 0, stage := none, depth := 1,
    together := false, inq := 0, outq := 0,
    f := { cores := 512, spadb := 2 ^ 21, sideb := 2 ^ 18, quota := 0, prio := 0, dies := 0xF, kill := false,
           killNode := id, asid := 0, hbase := 0, hlim := 0x40000000, hoff := 0, hattr := 0x39, ptroot := 0,
           sec := false, entry := 0, ndim := 1, ext0 := 1, ext1 := 1, ext2 := 1, ring := 0xFF, taskRec := false,
           stageRec := false, minc := 0, maxc := 0, gang := 0, enqn := 0 },
    effdl := 2 ^ 64 - 1, cil := false, arrival := 0, tag := 0, rring := 0xFF, st := 1, late := false, next := 1,
    cancelled := none, passed := 0, passedAt := 0, tstart := 1, tdone := 0, status := 0, fcount := 0, fcode := 0,
    spawner := none, recorded := false }

/-- The module as it stands when such a region's task has started on the core in focus. -/
def State.withTask (s : State) : State :=
  let id := s.hub.regs.length
  let tid := s.hub.tasks.length
  let r := placedRegion id
  let t : Task := { id := tid, region := id, ord := 0, core := s.cur, st := .running, peers := [], gang := [], late := false,
                    status := 0, fcount := 0, fcode := 0, outBase := 0, outLeft := 0, inEntry := none,
                    wseen := s.wlog.length }
  let s := s.mhub (fun h => { h with rom := true, stage := 5, regs := h.regs ++ [r], tasks := h.tasks ++ [t] })
  s.mc (fun c => c.startTask r s.cur s.pcyc
    { tid := tid, ord := 0, x := 0, y := 0, z := 0, entryVa := 0, rank := 0, gsize := 1, gang := [] })

/-- Nothing stands before the core's next bundle: no turn on the agenda, nothing due, no wait; what was fetched is
dropped. -/
def State.clearWay (s : State) : State :=
  { s.mc (fun c => { c with
      flight := [], port := [], pend := [], track := Vector.replicate 16 none, poison := 0, preempt := none, ibuf := [],
      loops := { c.loops with buf := [] },
      eng := { Engines.reset with nextCmd := c.eng.nextCmd, mn := c.eng.mn, pcw := c.eng.pcw },
      ctl := { c.ctl with wait := none, ready := s.pcyc, turn := s.pcyc, late := [], pass := .alone, busyPort := 0 } }) with
    agenda := [] }

/-- Store 64 bytes where the core in focus fetches its next bundle. -/
def State.placeBundle (s : State) (w : Nat) : State :=
  match s.translate s.core.sys.xlat s.core.ctl.pc.toNat .rd with
  | .ok pa g _ _ => s.dpaWrite g pa (leBytes 64 w)
  | _ => s

/-- The bundle of bits w, at the place from which the next step fetches; a core that runs no task is given one. -/
def State.place (s : State) (w : Nat) : State :=
  ((if s.core.mode = .running then s else s.withTask).clearWay).placeBundle w

end Sys2Proof.Machine
end

