-- ==== Sys2Proof/Machine/Step.lean ====
section
/-! DEFINITION. One step of the module. -/

namespace Sys2Proof.Machine

/-- One step: the next turn of the agenda, or the module's own course. -/
def step (s : State) : Host.Outcome State Fault Refusal := s.advance

/-- A bundle of bits w at the place from which the next step fetches. -/
def State.withFetchWord (s : State) (_nbits w : Nat) : State := s.place w

end Sys2Proof.Machine
end

