-- ==== Sys2Proof/Safety.lean ====
section
/-! DEFINITION. What the claims mean by a sound state, by a core that is ready to issue an operation, and by the parts of a
state that an operation leaves alone. -/

namespace Sys2Proof.Safety

open Sys2Proof Sys2Proof.Machine

/-- The module's memory stands in its canonical form (R376: an unlisted byte is 0). -/
def MemOk (s : State) : Prop := s.mem.wf = true

/-- Nothing is amiss with the units that n bytes at a DPA touch: no unit is poisoned or in error, and their check bits were
not last written under another granule (R85, R86, R424, R425). -/
def Sound (s : State) (g : BitVec 2) (pa : Dpa) (n : Nat) : Prop :=
  s.poison = [] ∧ s.flips = [] ∧ ∀ u ∈ unitKeys g pa n, s.ownCode g u = true

/-- A state but for its memory, the granules its units were last written under, and what the memory-side buffers hold and
have counted (R16, R86, R389). -/
def stored (s : State) (mem codes : Memory) (buf : List (Nat × Bool)) (hit miss : Vector Nat 8) : State :=
  { s with mem := mem, codes := codes, buf := buf, hub := { s.hub with msbHit := hit, msbMiss := miss } }

/-- A store of bytes at a memory die: `after` is the state that it leaves, which differs from `s` by those bytes alone, and by
what `stored` leaves open. -/
def Stores (s : State) (g : BitVec 2) (pa : Dpa) (bs : List Byte) (after : State) : Prop :=
  ∃ m codes buf hit miss, after = stored s m codes buf hit miss ∧ m.wf = true ∧
    (∀ k, (∀ i < bs.length, dpaKey g (dpaAdd pa i) ≠ some k) → m.get k = s.mem.get k) ∧
    (offOf pa + bs.length ≤ 2 ^ 39 → ∀ i < bs.length, ∀ k, dpaKey g (dpaAdd pa i) = some k → m.get k = bs.getD i 0)

/-- A read at a memory die leaves everything but what the memory-side buffers have counted. -/
def Reads (s after : State) : Prop := ∃ buf hit miss, after = stored s s.mem s.codes buf hit miss

/-- The hub or a walker has read a memory die: everything is as before but for what the memory-side buffers have counted and
what was found, for the hub to report (R16, R406, R424). -/
def HubReads (s after : State) : Prop := ∃ hit miss found, after =
  s.mhub (fun h => { h with msbHit := hit, msbMiss := miss, found := found })

/-- The hub has written bytes at a memory die: beside the write itself, as `HubReads`, and lines that the memory-side buffers
hold may be modified. -/
def HubWrites (s : State) (g : BitVec 2) (pa : Dpa) (bs : List Byte) (after : State) : Prop := ∃ buf hit miss found, after =
  { s.dpaWrite g pa bs with buf := buf, hub := { s.hub with msbHit := hit, msbMiss := miss, found := found } }

/-- A core's scratchpad and side bank stand in the canonical form. -/
def CoreMemOk (c : Core) : Prop := c.spad.wf = true ∧ c.side.wf = true

/-- Nothing holds an operation that stands alone: the core is not in replay mode, no scalar register is poisoned (R265),
no core-local word holds an error (R399), and no unit is busy (R184). -/
structure Free (s : State) : Prop where
  normal : s.core.ctl.replay = false
  noPoison : s.core.poison = 0
  noMarks : s.core.marks = []
  idleS : s.core.ctl.busyS ≤ s.pcyc
  idleV0 : s.core.ctl.busyV0 ≤ s.pcyc
  idleV1 : s.core.ctl.busyV1 ≤ s.pcyc
  idleX : s.core.ctl.busyX ≤ s.pcyc

/-- An operation takes its effect: the checks of its bundle are behind it, or it stands alone and nothing holds it. -/
def Ready (s : State) : Prop := s.core.ctl.pass = .go ∨ (s.core.ctl.pass = .alone ∧ Free s)

/-- Sources of B beats that may be read: no row run passes a255 (R186) and no latch is empty (R188). -/
def Readable (s : State) (b1 : BitVec 4) (sels : List VSel) : Prop :=
  (∀ r, VSel.row r ∈ sels → r.toNat + b1.toNat ≤ 255) ∧ ∀ n, VSel.latch n ∈ sels → s.core.regs.getB n ≠ none

/-- A state after an operation has read the rows its selectors name: a phase that reads a row it has not written is no
longer restartable (R301), and nothing else changes. -/
def noted (s : State) (imm : SReg) (b1 : BitVec 4) (sels : List VSel) : State :=
  s.readRows (rowsOf (s.srcSels imm b1 sels))

/-- A V operation completes: its unit is busy for its beats, and beat j puts in flight, `lat + j` cycles on, a row whose
lane i is `r j i`, under the lanes that `en` enables, with the flags of those lanes (R225, R226). -/
def LanesGive (s : State) (c : VCtl) (imm : SReg) (sels : List VSel) (w lat : Nat) (en : Nat → Bool) (i : Instr)
    (r : Nat → Nat → Nat × BitVec 5) : Prop :=
  ∃ f : Nat → RowVal × RowVal × BitVec 5,
    exec i s = .next (State.occupyV c.unit (c.b1.toNat + 1) ((noted s imm c.b1 sels).vbeats c lat f)) ∧
      ∀ j ≤ c.b1.toNat, (∀ l < 4096 / w, lane (f j).1 l w = (r j l).1 % 2 ^ w) ∧
        (∀ b < 4096, (f j).2.1.getLsbD b = en (b / w)) ∧
        ∀ b, (f j).2.2.getLsbD b = true ↔ ∃ l < 4096 / w, en l = true ∧ (r j l).2.getLsbD b = true

/-- The result and flags of TreeReduce (R135) over lanes i·2^k to i·2^k + 2^k − 1. -/
def treeOf (op : Nat → Nat → Nat × BitVec 5) (x : Nat → Nat) : Nat → Nat → Nat × BitVec 5
  | 0, i => (x i, 0)
  | k + 1, i =>
    let a := treeOf op x k (2 * i)
    let b := treeOf op x k (2 * i + 1)
    ((op a.1 b.1).1, a.2 ||| b.2 ||| (op a.1 b.1).2)

/-- The running result y[i] of ScanSeq (R136), and the flags of its steps so far. -/
def scanOf (op : Nat → Nat → Nat × BitVec 5) (x : Nat → Nat) : Nat → Nat × BitVec 5
  | 0 => (x 0, 0)
  | i + 1 =>
    let y := scanOf op x i
    ((op y.1 (x (i + 1))).1, y.2 ||| (op y.1 (x (i + 1))).2)

/-- An X operation completes: its unit is busy for its beats, and beat j puts in flight, `lat + j` cycles on, the whole row
`v j` with the flags `fl j` (R252). -/
def RowsGive (s : State) (c : XCtl) (lat : Nat) (i : Instr) (ok : Nat → RowVal → BitVec 5 → Prop) : Prop :=
  ∃ f : Nat → RowVal × BitVec 5,
    exec i s = .next (State.occupyX (c.b1.toNat + 1) ((noted s 0 c.b1 [xToV c.src]).xrows c lat f)) ∧
      ∀ j ≤ c.b1.toNat, ok j (f j).1 (f j).2

/-- An operation of a V slot (R172). -/
def isVector : Instr → Bool
  | .vadd .. | .vsub .. | .vmul .. | .vfma .. | .vmin .. | .vmax .. | .vabs .. | .vmulh .. | .vand .. | .vor ..
  | .vxor .. | .vshl .. | .vshr .. | .vsar .. | .vcmp .. | .vsel .. | .vbext .. | .vfshr .. | .vclmul .. | .vpopc ..
  | .vclz .. | .vbcast .. | .viota .. | .vrsum .. | .vrmax .. | .vrmin .. | .vscan .. | .vshuf .. | .vslide ..
  | .vtopk .. | .vcvt .. | .vsfu .. | .vmov .. | .vmask .. | .vqnt .. | .vdqnt .. | .vsetk .. | .vextr .. | .vins .. => true
  | _ => false

/-- The guard of an operation; none for a V operation, a NOP and an event (R175). -/
def guardOf : Instr → Option PReg
  | .add g .. | .sub g .. | .mul g .. | .mulh g .. | .mulhn g .. | .and g .. | .or g .. | .xor g .. | .min g ..
  | .max g .. | .minn g .. | .maxn g .. | .clmuls g .. | .div g .. | .divn g .. | .rem g .. | .remn g .. | .addi g ..
  | .andi g .. | .ori g .. | .xori g .. | .shl g .. | .shr g .. | .sar g .. | .shli g .. | .shri g .. | .sari g ..
  | .rol g .. | .fshr g .. | .bext g .. | .bexts g .. | .bins g .. | .clz g .. | .ctz g .. | .popc g .. | .brev g ..
  | .cmp g .. | .cmpi g .. | .plog g .. | .sel g .. | .li g .. | .lih g .. | .hset g .. | .hget g .. | .hadd g ..
  | .rdsr g .. | .wrsr g .. | .axadd g .. | .axsub g .. | .axlog g .. | .axsh g .. | .wxadd g .. | .lds g .. | .ldm g ..
  | .ldw g .. | .ldwRpl g | .ldq g .. | .sts g .. | .stm g .. | .vld g .. | .vst g .. | .vldp g .. | .vldg g ..
  | .vsts g .. | .ldh g .. | .sth g .. | .ldpcw g .. | .ats g .. | .atm g .. | .mst g .. | .cpy g .. | .cpyp g ..
  | .chst g .. | .cpya g .. | .cpyb g .. | .cfil g .. | .cred g .. | .cres g .. | .cmcs g .. | .cwld g .. | .cmig g ..
  | .crly g .. | .cnest g .. | .mcfg g .. | .mpcw g .. | .mgo g | .mhad g .. | .mwld g .. | .mdrn g .. | .mzero g ..
  | .mstat g .. | .mswap g .. | .br g .. | .brc g .. | .call g .. | .ret g .. | .loop g .. | .loopr g .. | .waite g ..
  | .bsp g .. | .fence g .. | .publish g .. | .swapb g .. | .probe g .. | .ckts g .. | .cktv g .. | .trap g ..
  | .eret g | .setrpl g .. | .enq g .. | .spawn g .. | .endTask g | .dictld g .. | .dictsw g | .rdtime g .. | .qpt g ..
  | .inval g .. | .wcsld g .. | .halt g => some g
  | .xexp c .. | .xpln c .. | .xtrn c .. | .xcvt c .. | .xscl c .. | .xpack c .. | .xunpk c .. | .xbits c .. | .xzip c ..
  | .xunzip c .. | .xswz c .. => some c.guard
  | _ => none

/-- What a guarded-off operation still does: it occupies its unit for its beats (R175, R208). -/
def occupied : Instr → State → State
  | .div .. | .divn .. | .rem .. | .remn .. => State.occupyS 18
  | .add .. | .sub .. | .mul .. | .mulh .. | .mulhn .. | .and .. | .or .. | .xor .. | .min .. | .max .. | .minn ..
  | .maxn .. | .clmuls .. | .addi .. | .andi .. | .ori .. | .xori .. | .shl .. | .shr .. | .sar .. | .shli .. | .shri ..
  | .sari .. | .rol .. | .fshr .. | .bext .. | .bexts .. | .bins .. | .clz .. | .ctz .. | .popc .. | .brev .. | .cmp ..
  | .cmpi .. | .plog .. | .sel .. | .li .. | .lih .. | .hset .. | .hget .. | .hadd .. | .rdsr .. | .wrsr .. =>
    State.occupyS 1
  | .xexp c .. | .xpln c .. | .xtrn c .. | .xcvt c .. | .xscl c .. | .xpack c .. | .xunpk c .. | .xbits c .. | .xzip c ..
  | .xunzip c .. | .xswz c .. => State.occupyX (c.b1.toNat + 1)
  | _ => id

/-- Two states hold the same registers, memories and machine outside the focus core's issue and queues, but for the hub and the
TLBs. -/
structure SameStore (s t : State) : Prop where
  regs : t.core.regs = s.core.regs
  sys : t.core.sys = s.core.sys
  spad : t.core.spad = s.core.spad
  side : t.core.side = s.core.side
  mem : t.mem = s.mem
  poison : t.poison = s.poison
  flips : t.flips = s.flips
  codes : t.codes = s.codes
  buf : t.buf = s.buf
  wstore : t.wstore = s.wstore
  wmarks : t.wmarks = s.wmarks
  wlog : t.wlog = s.wlog
  parked : t.parked = s.parked
  cur : t.cur = s.cur
  host : t.host = s.host
  fab : t.fab = s.fab
  pcyc : t.pcyc = s.pcyc
  dsub : t.dsub = s.dsub
  agenda : t.agenda = s.agenda

end Sys2Proof.Safety
end

