-- ==== Sys2Proof/Certificates/Slice0/Obligations.lean ====
section
/-! DEFINITION. The claims, as propositions about the machine; each docstring names the rules of the manual it states. -/

open Sys2Proof Sys2Proof.Machine Sys2Proof.Safety

/-! ### Scalar operations -/

/-- R206, R203: the two-source integer operations. Each completes when the core is ready, with the result of the table in
flight for its latency and the S unit busy for one cycle.

R207, R208: division truncates toward zero, a remainder takes the sign of the dividend, division by zero and signed
overflow give the fixed results; the result lands 18 cycles after issue and the S unit is busy for them, guarded off as
well. -/
def Obligations.IntegerResults : Prop :=
  (∀ (s : State) (g : PReg) (d a b : SReg), Ready s → s.preg g = true →
    let x := s.sreg a
    let y := s.sreg b
    let gives (lat : Nat) (v : Word) (i : Instr) : Prop :=
      exec i s = .next (State.occupyS 1 (s.landS lat .s d v))
    let sat (z : Int) : Word := BitVec.ofInt 64 (max (-2 ^ 63) (min (2 ^ 63 - 1) z))
    let satn (z : Int) : Word := BitVec.ofInt 64 (max 0 (min (2 ^ 64 - 1) z))
    let c : BitVec 127 := (List.range 64).foldl (fun c i =>
      if y.getLsbD i then c ^^^ (x.zeroExtend 127 <<< i) else c) 0
    gives 1 (x + y) (.add g .wrap d a b) ∧ gives 1 (x - y) (.sub g .wrap d a b) ∧
    gives 3 (x * y) (.mul g .wrap d a b) ∧
    gives 1 (sat (x.toInt + y.toInt)) (.add g .sat d a b) ∧ gives 1 (sat (x.toInt - y.toInt)) (.sub g .sat d a b) ∧
    gives 3 (sat (x.toInt * y.toInt)) (.mul g .sat d a b) ∧
    gives 1 (satn (x.toNat + y.toNat)) (.add g .satn d a b) ∧
    gives 1 (satn ((x.toNat : Int) - y.toNat)) (.sub g .satn d a b) ∧
    gives 3 (satn (x.toNat * y.toNat)) (.mul g .satn d a b) ∧
    gives 3 ((x.signExtend 128 * y.signExtend 128).extractLsb' 64 64) (.mulh g d a b) ∧
    gives 3 ((x.zeroExtend 128 * y.zeroExtend 128).extractLsb' 64 64) (.mulhn g d a b) ∧
    gives 1 (x &&& y) (.and g d a b) ∧ gives 1 (x ||| y) (.or g d a b) ∧ gives 1 (x ^^^ y) (.xor g d a b) ∧
    gives 1 (if x.toInt ≤ y.toInt then x else y) (.min g d a b) ∧
    gives 1 (if x.toInt ≤ y.toInt then y else x) (.max g d a b) ∧
    gives 1 (if x.toNat ≤ y.toNat then x else y) (.minn g d a b) ∧
    gives 1 (if x.toNat ≤ y.toNat then y else x) (.maxn g d a b) ∧
    gives 3 (c.extractLsb' 0 64) (.clmuls g false d a b) ∧
    gives 3 ((c.extractLsb' 64 63).zeroExtend 64) (.clmuls g true d a b)) ∧
  (∀ (s : State) (g : PReg) (d a b : SReg), Ready s →
    let x := s.sreg a
    let y := s.sreg b
    let gives (v : Word) (i : Instr) : Prop :=
      exec i s = .next (State.occupyS 18 (if s.preg g then s.landS 18 .s d v else s))
    gives (if y = 0 then BitVec.allOnes 64 else x.sdiv y) (.div g d a b) ∧
    gives (if y = 0 then BitVec.allOnes 64 else x / y) (.divn g d a b) ∧
    gives (if y = 0 then x else x.srem y) (.rem g d a b) ∧
    gives (if y = 0 then x else x % y) (.remn g d a b))

/-- R209, R210, R211: the immediate forms, the shifts and the funnel shift.

R212, R213: bit fields, and bit counts and reversal. -/
def Obligations.ShiftAndFieldResults : Prop :=
  (∀ (s : State) (g : PReg) (d a b : SReg) (imm : BitVec 32) (n : BitVec 6) (m : BitVec 7), Ready s → s.preg g = true →
    let x := s.sreg a
    let y := s.sreg b
    let gives (v : Word) (i : Instr) : Prop := exec i s = .next (State.occupyS 1 (s.landS 1 .s d v))
    let sx : Word := imm.signExtend 64
    let zx : Word := imm.zeroExtend 64
    gives (x + sx) (.addi g .wrap d a imm) ∧
    gives (BitVec.ofInt 64 (max (-2 ^ 63) (min (2 ^ 63 - 1) (x.toInt + imm.toInt)))) (.addi g .sat d a imm) ∧
    gives (BitVec.ofInt 64 (min (2 ^ 64 - 1) ((x.toNat : Int) + imm.toNat))) (.addi g .satn d a imm) ∧
    gives (x &&& sx) (.andi g false d a imm) ∧ gives (x &&& zx) (.andi g true d a imm) ∧
    gives (x ||| sx) (.ori g false d a imm) ∧ gives (x ||| zx) (.ori g true d a imm) ∧
    gives (x ^^^ sx) (.xori g false d a imm) ∧ gives (x ^^^ zx) (.xori g true d a imm) ∧
    gives (x <<< y.toNat) (.shl g d a b) ∧ gives (x >>> y.toNat) (.shr g d a b) ∧
    gives (x.sshiftRight y.toNat) (.sar g d a b) ∧
    gives (x <<< n.toNat) (.shli g d a n) ∧ gives (x >>> n.toNat) (.shri g d a n) ∧
    gives (x.sshiftRight n.toNat) (.sari g d a n) ∧
    gives (x.rotateLeft (y.toNat % 64)) (.rol g d a (.reg b)) ∧ gives (x.rotateLeft n.toNat) (.rol g d a (.imm n)) ∧
    gives (((x ++ y) >>> m.toNat).setWidth 64) (.fshr g d a b (some m)) ∧
    gives (((x ++ y) >>> ((s.sreg d).toNat % 128)).setWidth 64) (.fshr g d a b none)) ∧
  (∀ (s : State) (g : PReg) (d a b : SReg) (p : Option (BitVec 6)) (l : Option (BitVec 7)) (wd : BitW), Ready s →
    s.preg g = true → (∀ v, l = some v → v.toNat ≤ 64) →
    let x := s.sreg a
    let pos := match p with
      | some v => v.toNat
      | none => (s.sreg b).toNat % 64
    let len := match l with
      | some v => v.toNat
      | none => min ((s.sreg b).extractLsb' 8 7).toNat 64
    let w := match wd with
      | .w64 => 64
      | .w32 => 32
      | .w16 => 16
      | .w8 => 8
    let gives (v : Word) (i : Instr) : Prop := exec i s = .next (State.occupyS 1 (s.landS 1 .s d v))
    let field (q : Word → Prop) (i : Instr) : Prop := ∃ v, q v ∧ gives v i
    field (fun v => ∀ i < 64, v.getLsbD i = (decide (i < len) && x.getLsbD (pos + i))) (.bext g d a b p l) ∧
    field (fun v => ∀ i < 64, v.getLsbD i =
      (decide (0 < len) && x.getLsbD (pos + if i < len then i else len - 1))) (.bexts g d a b p l) ∧
    field (fun v => ∀ i < 64, v.getLsbD i =
      if pos ≤ i ∧ i < pos + len then x.getLsbD (i - pos) else (s.sreg d).getLsbD i) (.bins g d a b p l) ∧
    gives (BitVec.ofNat 64 (((List.range w).reverse.takeWhile (fun i => !x.getLsbD i)).length)) (.clz g wd d a) ∧
    gives (BitVec.ofNat 64 (((List.range w).takeWhile (fun i => !x.getLsbD i)).length)) (.ctz g wd d a) ∧
    gives (BitVec.ofNat 64 (((List.range w).filter (fun i => x.getLsbD i)).length)) (.popc g wd d a) ∧
    field (fun v => ∀ i < 64, v.getLsbD i = (decide (i < w) && x.getLsbD (w - 1 - i))) (.brev g wd d a))

/-- R214 to R217: compares and predicate logic land a predicate, SEL and the constants a scalar, all at the next cycle.

R219: HSET and HADD change one field of a handle and nothing else of it, HGET reads one, zero-extended or, for a
stride, sign-extended. -/
def Obligations.PredicateConstantAndHandleResults : Prop :=
  (∀ (s : State) (g p q r : PReg) (d a b : SReg) (cc : CCond) (imm : BitVec 32) (tt : BitVec 4), Ready s →
    s.preg g = true →
    let sx : Word := imm.signExtend 64
    let holds (x y : Word) : Bool := match cc with
      | .eq => decide (x = y)
      | .ne => decide (x ≠ y)
      | .lt => x.slt y
      | .ge => !x.slt y
      | .ltn => x.ult y
      | .gen => !x.ult y
      | .le => !y.slt x
      | .gt => y.slt x
      | .len => !y.ult x
      | .gtn => y.ult x
      | .tst => decide (x &&& y ≠ 0)
      | .ntst => decide (x &&& y = 0)
    let gives (v : Word) (i : Instr) : Prop := exec i s = .next (State.occupyS 1 (s.landS 1 .s d v))
    let sets (v : Bool) (i : Instr) : Prop := exec i s = .next (State.occupyS 1 (s.landP 1 .s p v))
    sets (holds (s.sreg a) (s.sreg b)) (.cmp g cc p a b) ∧
    sets (holds (s.sreg a) sx) (.cmpi g cc p a imm) ∧
    sets (tt.getLsbD ((if s.preg q then 2 else 0) + if s.preg r then 1 else 0)) (.plog g p q r tt) ∧
    gives (if s.preg q then s.sreg a else s.sreg b) (.sel g q d a b) ∧
    gives sx (.li g false d imm) ∧ gives (imm.zeroExtend 64) (.li g true d imm) ∧
    gives (imm ++ (s.sreg d).setWidth 32) (.lih g d imm)) ∧
  (∀ (s : State) (g : PReg) (d a : SReg) (h : HReg) (f : HSel) (hf : HField), Ready s → s.preg g = true →
    let old := s.hreg h
    let place (lo w : Nat) (v : Nat) (i : Instr) : Prop := ∃ x m : Handle,
      exec i s = .next (State.occupyS 1 (s.landH 1 .s h x m)) ∧
        ∀ k < 256, ((old &&& ~~~m) ||| (x &&& m)).getLsbD k =
          if lo ≤ k ∧ k < lo + w then v.testBit (k - lo) else old.getLsbD k
    place (hselAt f).1 (hselAt f).2 (s.sreg a).toNat (.hset g f h a) ∧
    (WF.haddOk hf → place (hfieldAt hf).1 (hfieldAt hf).2
      ((old.extractLsb' (hfieldAt hf).1 (hfieldAt hf).2).toNat + (s.sreg a).toNat) (.hadd g hf h a)) ∧
    exec (.hget g f d h) s = .next (State.occupyS 1 (s.landS 1 .s d
      (if f = .field .st1 ∨ f = .field .st2 ∨ f = .field .st3 then
        (old.extractLsb' (hselAt f).1 (hselAt f).2).signExtend 64
      else (old.extractLsb' (hselAt f).1 (hselAt f).2).zeroExtend 64))))

/-- R220, R179, R180: RDSR lands the value of a system register at the next cycle, STATUS, CTXID and the rotation bases with zeros
above their fields. WRSR lands at the next cycle, where it writes the writable fields of its register and zeros beside them; a
register that is read-only, or privileged outside ASID 0, keeps its value, and so does everything else of the core. WSTATE is
stated apart.

R105, R104: WSTATE shows, from DTIME alone, the cycles to the next refresh window, its bank, and whether a window is open now
and whose; the bank of no open window is a free value.

Where the spec leaves a point open the statement rests on the model's reading: log 13. -/
def Obligations.SystemRegisterAccess : Prop :=
  (∀ (s : State) (g : PReg) (d a : SReg) (r : SysReg), Ready s → s.preg g = true →
    let y := s.core.sys
    (r ≠ .wstate → exec (.rdsr g d r) s = .next (State.occupyS 1 (s.landS 1 .s d (match r with
      | .ctxid => (0 : BitVec 50) ++ BitVec.ofBool y.sec ++ y.asid
      | .heapbase => y.heapbase
      | .heaplim => y.heaplim
      | .heapoff => y.heapoff
      | .heapattr => y.heapattr
      | .ptroot => y.ptroot
      | .tcoord => y.tcoord
      | .rcbptr => y.rcbptr
      | .rpladdr => y.rpladdr
      | .trapaddr => y.trapaddr
      | .dtime => BitVec.ofNat 64 (s.dsub / 189)
      | .pcyc => BitVec.ofNat 64 s.pcyc
      | .wstate => 0
      | .status => y.status.zeroExtend 64
      | .rrbs => y.rrbs.zeroExtend 64
      | .rrba => y.rrba.zeroExtend 64
      | .rrbp => y.rrbp.zeroExtend 64)))) ∧
    exec (.wrsr g r a) s = .next (State.occupyS 1 (s.land 1 .s (.sys r (s.sreg a)) 0)) ∧
    -- what the write does where it lands: to the writable fields of register r, and to nothing else of the core
    (∀ (c : Core) (v : Word) (cyc ord : Nat) (fl : BitVec 5) (pc : Word) (btag : Byte),
      let x := c.sys
      let priv (z : SysRegs) : SysRegs := if x.asid = 0 then z else x
      c.applyDest ⟨cyc, ord, .sys r v, fl, pc, btag⟩ = { c with sys := (match r with
        | .heapbase => priv { x with heapbase := v &&& 0x0000FFFFFFFC0000 }
        | .heaplim => priv { x with heaplim := v &&& 0x0000FFFFFFFC0000 }
        | .heapoff => priv { x with heapoff := v &&& 0xFFFFFFFFFFFC0000 }
        | .heapattr => priv { x with heapattr := v &&& 0x3F }
        | .ptroot => priv { x with ptroot := v &&& 0x001FFFFFFFFFE000 }
        | .rpladdr => { x with rpladdr := v &&& 0x0000FFFFFFFFFFC0 }
        | .trapaddr => { x with trapaddr := v &&& 0x0000FFFFFFFFFFC0 }
        | .status => { x with status := v.setWidth 5 }
        | .rrbs => { x with rrbs := v.setWidth 4 }
        | .rrba => { x with rrba := v.setWidth 6 }
        | .rrbp => { x with rrbp := v.setWidth 3 }
        | .ctxid | .tcoord | .rcbptr | .dtime | .pcyc | .wstate => x) })) ∧
  (∀ (s : State) (g : PReg) (d : SReg), Ready s → s.preg g = true →
    let t := s.dsub / 189 % 16000
    ∃ v : Word, exec (.rdsr g d .wstate) s = .next (State.occupyS 1 (s.draw.2.landS 1 .s d v)) ∧
      (v.extractLsb' 0 32).toNat = 2000 - t % 2000 ∧ (v.extractLsb' 32 3).toNat = (t / 2000 + 1) % 8 ∧
      v.getLsbD 35 = decide (t % 2000 < 320) ∧ (t % 2000 < 320 → (v.extractLsb' 36 3).toNat = t / 2000) ∧
      v.extractLsb' 39 25 = 0)

/-- R223, R224: the address ALU forms of the L and W slots; no unit is busy after them. -/
def Obligations.AddressAluResults : Prop :=
  ∀ (s : State) (g : PReg) (d a b : SReg) (imm : BitVec 32) (w : BitVec 24) (n : BitVec 6), Ready s → s.preg g = true →
    let x := s.sreg a
    let y := s.sreg b
    let sx : Word := imm.signExtend 64
    let sw : Word := w.signExtend 64
    let l (v : Word) (i : Instr) : Prop := exec i s = .next (s.landS 1 .l d v)
    let st (v : Word) (i : Instr) : Prop := exec i s = .next (s.landS 1 .w d v)
    l (x + y) (.axadd g d a (.reg b)) ∧ l (x + sx) (.axadd g d a (.imm imm)) ∧
    l (x - y) (.axsub g d a (.reg b)) ∧ l (x - sx) (.axsub g d a (.imm imm)) ∧
    l (x &&& y) (.axlog g .and d a (.reg b)) ∧ l (x &&& sx) (.axlog g .and d a (.imm imm)) ∧
    l (x ||| y) (.axlog g .or d a (.reg b)) ∧ l (x ||| sx) (.axlog g .or d a (.imm imm)) ∧
    l (x ^^^ y) (.axlog g .xor d a (.reg b)) ∧ l (x ^^^ sx) (.axlog g .xor d a (.imm imm)) ∧
    l (x &&& ~~~y) (.axlog g .andn d a (.reg b)) ∧ l (x &&& ~~~sx) (.axlog g .andn d a (.imm imm)) ∧
    l (x <<< y.toNat) (.axsh g .shl d a (.reg b)) ∧ l (x <<< n.toNat) (.axsh g .shl d a (.imm n)) ∧
    l (x >>> y.toNat) (.axsh g .shr d a (.reg b)) ∧ l (x >>> n.toNat) (.axsh g .shr d a (.imm n)) ∧
    l (x.sshiftRight y.toNat) (.axsh g .sar d a (.reg b)) ∧ l (x.sshiftRight n.toNat) (.axsh g .sar d a (.imm n)) ∧
    st (x + y) (.wxadd g false d a (.reg b)) ∧ st (x + sw) (.wxadd g false d a (.imm w)) ∧
    st (x - y) (.wxadd g true d a (.reg b)) ∧ st (x - sw) (.wxadd g true d a (.imm w))

/-! ### Vector operations -/

/-- R229, R226: the lane arithmetic. An integer lane is exact, then clamped or wrapped; a floating lane is the exact
result rounded once in the mode of the operation, its flags those of R115 to R130 as the model's number formats give them.

Where the spec leaves a point open the statement rests on the model's reading: log 11. -/
def Obligations.VectorArithmeticResults : Prop :=
  ∀ (s : State) (c : VCtl) (ty : VType) (md : VMode) (a b d : VSel), Ready s → c.d.toNat + c.b1.toNat ≤ 255 →
    let w := typeW ty
    let en (i : Nat) : Bool := (s.kreg c.k).getLsbD i
    let x (v : VSel) (j i : Nat) : Nat := lane (s.vsrc c.imm w v j) i w
    let z (n : Nat) : Int := if typeSigned ty then (BitVec.ofNat w n).toInt else n
    let q (n : Nat) : Val := laneVal ty n
    let lo : Int := if typeSigned ty then -2 ^ (w - 1) else 0
    let hi : Int := if typeSigned ty then 2 ^ (w - 1) - 1 else 2 ^ w - 1
    let whole (n : Int) : Nat := ((if md.sat then max lo (min hi n) else n) % 2 ^ w).toNat
    let real (p : Val × BitVec 5) : Nat × BitVec 5 :=
      (((typeF ty).round md.rm p.1).1, p.2 ||| ((typeF ty).round md.rm p.1).2)
    let res (n : Int) (p : Val × BitVec 5) : Nat × BitVec 5 := if typeFloat ty then real p else (whole n, 0)
    let nan : Nat := (typeF ty).nanCode
    let gives (sels : List VSel) (li lf : Nat) (i : Instr) (r : Nat → Nat → Nat × BitVec 5) : Prop :=
      Readable s c.b1 sels → LanesGive s c c.imm sels w (if typeFloat ty then lf else li) en i r
    gives [a, b] 2 4 (.vadd c ty md a b) (fun j i => res (z (x a j i) + z (x b j i)) (addVal md.rm (q (x a j i)) (q (x b j i)))) ∧
    gives [a, b] 2 4 (.vsub c ty md a b) (fun j i =>
      res (z (x a j i) - z (x b j i)) (addVal md.rm (q (x a j i)) (q (x b j i)).negate)) ∧
    gives [a, b] 4 4 (.vmul c ty md a b) (fun j i => res (z (x a j i) * z (x b j i)) (mulVal (q (x a j i)) (q (x b j i)))) ∧
    gives [a, b, d] 4 4 (.vfma c ty md a b d) (fun j i =>
      let p := mulVal (q (x a j i)) (q (x b j i))
      let t := addVal md.rm p.1 (q (x d j i))
      res (z (x a j i) * z (x b j i) + z (x d j i)) (t.1, p.2 ||| t.2)) ∧
    gives [a, b] 2 4 (.vmin c ty md a b) (fun j i =>
      (if typeFloat ty then
        (if (q (x a j i)).isNan || (q (x b j i)).isNan then nan
          else if Val.cmpTotal (q (x a j i)) (q (x b j i)) = .gt then x b j i else x a j i)
        else if z (x a j i) ≤ z (x b j i) then x a j i else x b j i, 0)) ∧
    gives [a, b] 2 4 (.vmax c ty md a b) (fun j i =>
      (if typeFloat ty then
        (if (q (x a j i)).isNan || (q (x b j i)).isNan then nan
          else if Val.cmpTotal (q (x a j i)) (q (x b j i)) = .lt then x b j i else x a j i)
        else if z (x a j i) < z (x b j i) then x b j i else x a j i, 0)) ∧
    gives [a] 2 4 (.vabs c ty md a) (fun j i =>
      (if typeFloat ty then (if (q (x a j i)).isNan then nan else x a j i % 2 ^ (w - 1)) else whole |z (x a j i)|, 0)) ∧
    (typeFloat ty = false → gives [a, b] 4 4 (.vmulh c ty md a b) (fun j i =>
      ((z (x a j i) * z (x b j i) / 2 ^ w % 2 ^ w).toNat, 0)))

/-- R230, R231, R234 to R236: bitwise lane operations, shifts, fields, carry-less products and bit counts; none raises a
flag. -/
def Obligations.VectorBitResults : Prop :=
  ∀ (s : State) (c : VCtl) (ty : VType) (sgn hi : Bool) (a b d : VSel), Ready s → c.d.toNat + c.b1.toNat ≤ 255 →
    let w := typeW ty
    let en (i : Nat) : Bool := (s.kreg c.k).getLsbD i
    let x (v : VSel) (j i : Nat) : Nat := lane (s.vsrc c.imm w v j) i w
    let gives (sels : List VSel) (lat : Nat) (i : Instr) (r : Nat → Nat → Nat) : Prop :=
      Readable s c.b1 sels → LanesGive s c c.imm sels w lat en i (fun j l => (r j l, 0))
    let bits (f : Nat → Bool) : Nat := ((List.range w).map (fun t => if f t then 2 ^ t else 0)).sum
    gives [a, b] 2 (.vand c ty a b) (fun j i => x a j i &&& x b j i) ∧
    gives [a, b] 2 (.vor c ty a b) (fun j i => x a j i ||| x b j i) ∧
    gives [a, b] 2 (.vxor c ty a b) (fun j i => x a j i ^^^ x b j i) ∧
    gives [a, b] 2 (.vshl c ty a b) (fun j i => (x a j i <<< x b j i) % 2 ^ w) ∧
    gives [a, b] 2 (.vshr c ty a b) (fun j i => x a j i >>> x b j i) ∧
    gives [a, b] 2 (.vsar c ty a b) (fun j i => ((BitVec.ofNat w (x a j i)).sshiftRight (x b j i)).toNat) ∧
    gives [a, b, d] 2 (.vbext c ty sgn a b d) (fun j i =>
      let len := min (x d j i) w
      bits (fun t => if t < len then (x a j i).testBit (x b j i + t)
        else sgn && decide (0 < len) && (x a j i).testBit (x b j i + len - 1))) ∧
    gives [a, b, d] 2 (.vfshr c ty a b d) (fun j i =>
      ((x a j i * 2 ^ w + x b j i) >>> (x d j i % (2 * w))) % 2 ^ w) ∧
    gives [a, b] 3 (.vclmul c ty hi a b) (fun j i =>
      let p := (List.range w).foldl (fun p t => if (x b j i).testBit t then p ^^^ (x a j i <<< t) else p) 0
      if hi then p >>> w else p % 2 ^ w) ∧
    gives [a] 2 (.vpopc c ty a) (fun j i => ((List.range w).filter (fun t => (x a j i).testBit t)).length) ∧
    gives [a] 2 (.vclz c ty a) (fun j i =>
      ((List.range w).reverse.takeWhile (fun t => !(x a j i).testBit t)).length)

/-- R228, R232, R246, R247: the operations that write a lane mask. VCMP and VMASK write the enabled bits below n and clear
those from n on; the raw mode and VSETK write all 512 bits. The result lands at t + 2; a write to k0 is discarded. -/
def Obligations.VectorMaskResults : Prop :=
  ∀ (s : State) (c : VMaskCtl) (ty : VType) (cc : VCond) (a b : VSel) (p q : KReg) (n : SReg), Ready s →
    let w := typeW ty
    let x (v : VSel) (i : Nat) : Nat := lane (s.vsrc c.imm w v 0) i w
    let z (m : Nat) : Int := if typeSigned ty then (BitVec.ofNat w m).toInt else m
    let int (m l : Nat) : Bool := match cc with
      | .eq => decide (m = l)
      | .ne => decide (m ≠ l)
      | .lt => decide (z m < z l)
      | .le => decide (z m ≤ z l)
      | .gt => decide (z l < z m)
      | .ge => decide (z l ≤ z m)
    let ord (o : Ordering) : Bool := match cc with
      | .eq => o.isEq
      | .ne => o.isNe
      | .lt => o.isLT
      | .le => o.isLE
      | .gt => o.isGT
      | .ge => o.isGE
    let holds (m l : Nat) : Bool :=
      if typeFloat ty then
        (if (laneVal ty m).isNan || (laneVal ty l).isNan then decide (cc = .ne)
          else ord (Val.cmpReal (laneVal ty m) (laneVal ty l)))
      else int m l
    let sets (sels : List VSel) (i : Instr) (ok : Nat → Option Bool → Prop) : Prop :=
      Readable s 0 sels → ∃ v m : Line,
        exec i s = .next (State.occupyV c.unit 1 ((noted s c.imm 0 sels).land 2 (vslot c.unit) (.k c.dk v m) 0)) ∧
          ∀ t < 512, ok t (if m.getLsbD t then some (v.getLsbD t) else none)
    let masked (f : Nat → Bool) (t : Nat) (o : Option Bool) : Prop :=
      o = if t < 4096 / w then (if (s.kreg c.k).getLsbD t then some (f t) else none) else some false
    let whole (f : Nat → Bool) (t : Nat) (o : Option Bool) : Prop := o = some (f t)
    sets [a, b] (.vcmp c ty cc a b) (masked (fun t => holds (x a t) (x b t))) ∧
    sets [a] (.vmask c ty .nz a) (masked (fun t => decide (x a t ≠ 0))) ∧
    sets [a] (.vmask c ty .neg a) (masked (fun t => (x a t).testBit (w - 1))) ∧
    sets [a] (.vmask c ty .raw a) (whole (fun t => (s.vsrc c.imm w a 0).getLsbD t)) ∧
    sets [] (.vsetk c.unit c.dk (.pre ty n)) (whole (fun t => decide (t < min (s.sreg n).toNat (4096 / w)))) ∧
    sets [] (.vsetk c.unit c.dk (.and p q)) (whole (fun t => (s.kreg p).getLsbD t && (s.kreg q).getLsbD t)) ∧
    sets [] (.vsetk c.unit c.dk (.or p q)) (whole (fun t => (s.kreg p).getLsbD t || (s.kreg q).getLsbD t)) ∧
    sets [] (.vsetk c.unit c.dk (.xor p q)) (whole (fun t => (s.kreg p).getLsbD t ^^ (s.kreg q).getLsbD t)) ∧
    sets [] (.vsetk c.unit c.dk (.andn p q)) (whole (fun t => (s.kreg p).getLsbD t && !(s.kreg q).getLsbD t)) ∧
    sets [] (.vsetk c.unit c.dk (.not p)) (whole (fun t => !(s.kreg p).getLsbD t))

/-- R233, R237 to R242: selection, broadcast, indices, shuffle, slide, extraction, insertion and moves.

Where the spec leaves a point open the statement rests on the model's reading: logs 15 and 167. -/
def Obligations.VectorMoveResults : Prop :=
  ∀ (s : State) (c : VCtl) (ty : VType) (m : KReg) (a b d : VSel) (r n : SReg) (l : BitVec 9) (am : BitVec 6),
    Ready s → c.d.toNat + c.b1.toNat ≤ 255 →
    let w := typeW ty
    let cnt := 4096 / w
    let en (i : Nat) : Bool := (s.kreg c.k).getLsbD i
    let gives (imm : SReg) (sels : List VSel) (lat : Nat) (i : Instr) (f : (VSel → Nat → Nat → Nat) → Nat → Nat → Nat) : Prop :=
      Readable s c.b1 sels → LanesGive s c imm sels w lat en i
        (fun j t => (f (fun v j t => lane (s.vsrc imm w v j) t w) j t, 0))
    let one (dst : Row) (nowb : Bool) (lane_ : Nat) (i : Instr) : Prop := ∃ v k : RowVal,
      exec i s = .next (State.occupyV c.unit 1
        (s.land 2 (vslot c.unit) (if nowb then .none else .row (rotA s.core.sys dst) v k) 0)) ∧
        ∀ t < 4096, (if k.getLsbD t then some (v.getLsbD t) else none) =
          if lane_ * w ≤ t ∧ t < lane_ * w + w then some ((s.sreg n).getLsbD (t - lane_ * w)) else none
    let ext (v : Nat) : Word := if typeSigned ty then (BitVec.ofNat w v).signExtend 64 else BitVec.ofNat 64 v
    let takes (sels : List VSel) (v : Nat) (i : Instr) : Prop := Readable s 0 sels →
      exec i s = .next (State.occupyV c.unit 1 ((noted s n 0 sels).landS 3 (vslot c.unit) r (ext v)))
    gives c.imm [a, b] 2 (.vsel c ty m a b) (fun x j i => if (s.kreg m).getLsbD i then x a j i else x b j i) ∧
    (l.toNat < cnt → gives c.imm [a] 2 (.vbcast c ty a (.imm l)) (fun x j _ => x a j l.toNat)) ∧
    gives n [a] 2 (.vbcast c ty a (.reg n)) (fun x j _ => x a j ((s.sreg n).toNat % cnt)) ∧
    gives c.imm [] 2 (.viota c ty (.count n)) (fun _ j i => ((s.sreg n).toNat + j * cnt + i) % 2 ^ w) ∧
    gives c.imm [] 2 (.viota c ty (.mask m)) (fun _ _ i =>
      ((List.range i).filter (fun t => (s.kreg m).getLsbD t)).length % 2 ^ w) ∧
    gives c.imm [a, b, d] 3 (.vshuf c ty a b d) (fun x j i =>
      let t := x b j i
      if t < cnt then x a j t else if t < 2 * cnt then x d j (t - cnt) else 0) ∧
    (∀ (v : SlideAmt), let imm := match v with
        | .imm k => k
        | .reg r => r
      let k := match v with
        | .imm k => k.toNat
        | .reg r => min (s.sreg r).toNat cnt
      gives imm [a, b] 3 (.vslide c ty false a b v) (fun x j i =>
        if i + k < cnt then x a j (i + k) else x b j (i + k - cnt)) ∧
      gives imm [a, b] 3 (.vslide c ty true a b v) (fun x j i =>
        if k ≤ i then x a j (i - k) else x b j (cnt + i - k))) ∧
    gives c.imm [a] 1 (.vmov c ty a) (fun x j i => x a j i) ∧
    (l.toNat < cnt → takes [a] (lane (s.vsrc n w a 0) l.toNat w) (.vextr c.unit ty r a (.imm l) n)) ∧
    takes [a] (lane (s.vsrc n w a 0) ((s.sreg am).toNat % cnt) w) (.vextr c.unit ty r a (.reg am) n) ∧
    (l.toNat < cnt → one c.d c.nowb l.toNat (.vins c.unit ty c.d c.nowb n (.imm l))) ∧
    one c.d c.nowb ((s.sreg am).toNat % cnt) (.vins c.unit ty c.d c.nowb n (.reg am))

/-- R243 to R245: reductions, scans and top-k. A lane that k disables enters as the identity. A NaN that VSCAN passes on is
canonical: the model's reading (log 9). -/
def Obligations.VectorReductionResults : Prop :=
  ∀ (s : State) (c : VCtl) (ty : VType) (sat : Bool) (a : VSel) (k : BitVec 5), Ready s → c.d.toNat + c.b1.toNat ≤ 255 →
    Readable s c.b1 [a] →
    let w := typeW ty
    let n := 4096 / w
    let en (i : Nat) : Bool := (s.kreg c.k).getLsbD i
    let x (imm : SReg) (ident : Nat) (j i : Nat) : Nat := if en i then lane (s.vsrc imm w a j) i w else ident
    let z (m : Nat) : Int := if typeSigned ty then (BitVec.ofNat w m).toInt else m
    let q (m : Nat) : Val := laneVal ty m
    let lo : Int := if typeSigned ty then -2 ^ (w - 1) else 0
    let hi : Int := if typeSigned ty then 2 ^ (w - 1) - 1 else 2 ^ w - 1
    let whole (m : Int) : Nat := ((if sat then max lo (min hi m) else m) % 2 ^ w).toNat
    let nan : Nat := (typeF ty).nanCode
    let add (m l : Nat) : Nat × BitVec 5 :=
      if typeFloat ty then
        (((typeF ty).round .rne (addVal .rne (q m) (q l)).1).1,
          (addVal .rne (q m) (q l)).2 ||| ((typeF ty).round .rne (addVal .rne (q m) (q l)).1).2)
      else (whole (z m + z l), 0)
    let pick (o : Ordering) (m l : Nat) : Nat × BitVec 5 :=
      (if typeFloat ty then
        (if (q m).isNan || (q l).isNan then nan else if Val.cmpTotal (q m) (q l) = o then l else m)
        else if compare (z m) (z l) = o then l else m, 0)
    let idSum : Nat := if typeFloat ty then (typeF ty).sign true else 0
    let idMax : Nat := if typeFloat ty then (typeF ty).infCode true else (lo % 2 ^ w).toNat
    let idMin : Nat := if typeFloat ty then (typeF ty).infCode false else (hi % 2 ^ w).toNat
    let reduces (lat ident : Nat) (op : Nat → Nat → Nat × BitVec 5) (i : Instr) : Prop :=
      ∃ f : Nat → RowVal × RowVal × BitVec 5,
        exec i s = .next (State.occupyV c.unit (c.b1.toNat + 1) ((noted s c.imm c.b1 [a]).vbeats c lat f)) ∧
          ∀ j ≤ c.b1.toNat, let t := treeOf op (x c.imm ident j) (Nat.log2 n) 0
            (∀ l < n, lane (f j).1 l w = t.1 % 2 ^ w) ∧ (f j).2.1 = BitVec.allOnes 4096 ∧ (f j).2.2 = t.2
    let canon (m : Nat) : Nat := if typeFloat ty && (q m).isNan then nan else m
    let scans (ident : Nat) (op : Nat → Nat → Nat × BitVec 5) (i : Instr) : Prop :=
      ∃ f : Nat → RowVal × RowVal × BitVec 5,
        exec i s = .next (State.occupyV c.unit (c.b1.toNat + 1)
          ((noted s c.imm c.b1 [a]).vbeats c (if typeFloat ty then 34 else 10) f)) ∧
          ∀ j ≤ c.b1.toNat,
            let y := scanOf op (fun i => if i = 0 then canon (x c.imm ident j 0) else x c.imm ident j i)
            (∀ l < n, lane (f j).1 l w = (y l).1 % 2 ^ w) ∧ (∀ b < 4096, (f j).2.1.getLsbD b = en (b / w)) ∧
              (f j).2.2 = (y (n - 1)).2
    let above (m l : Nat × Nat) : Bool :=
      let up (a b : Nat) : Bool := !(q a).isNan && ((q b).isNan || decide (Val.cmpTotal (q a) (q b) = .gt))
      up m.1 l.1 || (!up l.1 m.1 && decide (m.2 < l.2))
    reduces (if typeFloat ty then 14 else 10) idSum add (.vrsum c ty sat a) ∧
    reduces 10 idMax (pick .lt) (.vrmax c ty a) ∧ reduces 10 idMin (pick .gt) (.vrmin c ty a) ∧
    scans idSum add (.vscan c ty .add sat a) ∧ scans idMax (pick .lt) (.vscan c ty .max sat a) ∧
    scans idMin (pick .gt) (.vscan c ty .min sat a) ∧
    scans 0 (fun m l => (m ^^^ l, 0)) (.vscan c ty .xor sat a) ∧
    (k.toNat ≤ 16 → Readable s c.b1 [a] → ∃ f : Nat → RowVal × RowVal × BitVec 5,
      exec (.vtopk c ty k a) s = .next (State.occupyV c.unit (c.b1.toNat + 1)
        ((noted s (k.zeroExtend 6) c.b1 [a]).vbeats c 16 f)) ∧
        ∀ j ≤ c.b1.toNat,
          let v (i : Nat) : Nat := lane (s.vsrc (k.zeroExtend 6) w a j) i w
          let rank (i : Nat) : Nat := ((List.range n).filter (fun l => en l && above (v l, l) (v i, i))).length
          (∀ r < k.toNat, (∀ i < n, en i = true → rank i = r →
              lane (f j).1 r w = canon (v i) % 2 ^ w ∧ lane (f j).1 (n / 2 + r) w = i % 2 ^ w) ∧
            (((List.range n).filter en).length ≤ r →
              lane (f j).1 r w = 0 ∧ lane (f j).1 (n / 2 + r) w = 2 ^ w - 1)) ∧
          (∀ l < n, k.toNat ≤ l → (l < n / 2 ∨ n / 2 + k.toNat ≤ l) → lane (f j).1 l w = 0) ∧
          (f j).2.1 = BitVec.allOnes 4096 ∧ (f j).2.2 = 0)

/-- R248 to R251, R249: conversion, the quantised row form, and the special functions, over the model's number formats.

Where the spec leaves a point open the statement rests on the model's reading: logs 10, 11 and 168. -/
def Obligations.VectorConversionResults : Prop :=
  ∀ (s : State) (c : VCtl) (ty st : VType) (md : VMode) (part : BitVec 3) (a : VSel) (f : Fmt) (gs : GSize) (fn : SfuFn),
    Ready s → c.d.toNat + c.b1.toNat ≤ 255 → Readable s c.b1 [a] →
    let en (i : Nat) : Bool := (s.kreg c.k).getLsbD i
    let gives (lat : Nat) (imm : SReg) (i : Instr) (ok : Nat → RowVal → RowVal → BitVec 5 → Prop) : Prop :=
      ∃ g : Nat → RowVal × RowVal × BitVec 5,
        exec i s = .next (State.occupyV c.unit (c.b1.toNat + 1) ((noted s imm c.b1 [a]).vbeats c lat g)) ∧
          ∀ j ≤ c.b1.toNat, ok j (g j).1 (g j).2.1 (g j).2.2
    let ws := typeW st
    let wd := typeW ty
    let m := 4096 / max ws wd
    let db := if wd < ws then part.toNat * m else 0
    let sb := if ws < wd then part.toNat * m else 0
    let imm : SReg := part ++ tyCode st
    let conv (x : Nat) : Nat × BitVec 5 :=
      if ty = st then (x, 0) else encPlain (typeFmt ty) (!typeFloat st) md.rm md.sat (laneVal st x)
    let w := typeW ty
    let n := 4096 / w
    let fm : SReg := (fmtCode f).zeroExtend 6
    let cell (r : RowVal) (t : Nat) : Nat := lane r t 8
    (part.toNat < max ws wd / min ws wd → gives 4 imm (.vcvt c ty st md part a) (fun j v k fl =>
      let x (i : Nat) : Nat := lane (s.vsrc imm ws a j) (sb + i) ws
      (∀ i < m, lane v (db + i) wd = (conv (x i)).1 % 2 ^ wd) ∧
      (∀ b < 4096, k.getLsbD b = (en (b / wd) && decide (db ≤ b / wd) && decide (b / wd < db + m))) ∧
      ∀ b, fl.getLsbD b = true ↔ ∃ i < m, en (db + i) = true ∧ (conv (x i)).2.getLsbD b = true)) ∧
    (typeFloat ty = true → LanesGive s c c.imm [a] w 12 en (.vsfu c ty fn a) (fun j i =>
      let r := sfuVal fn (laneVal ty (lane (s.vsrc c.imm w a j) i w))
      (((typeF ty).round .rne r.1).1, r.2 ||| ((typeF ty).round .rne r.1).2))) ∧
    (typeFloat ty = true → (fmtMx f || fmtPx f) = true → gives 6 fm (.vqnt c ty f gs a) (fun j v k fl =>
      let e := encodeElems f (gsN gs) false .rne false ((List.range n).map (fun i => laneVal ty (lane (s.vsrc fm w a j) i w)))
      (∀ t < n, cell v t = e.1.codes.getD t 0 % 256) ∧ (∀ t < 256, n ≤ t → cell v t = 0) ∧
      (fmtPx f = false → ∀ q < 256, cell v (256 + q) = e.1.scales.getD q 0 % 256) ∧
      (fmtPx f = true → ∀ q < n / 16, cell v (256 + 2 * q) = e.1.scales.getD q 0 % 256 ∧
        ∀ p < 8, (cell v (257 + 2 * q)).testBit p = (e.1.mus.getD (8 * q + p) 0).testBit 0) ∧
      (fmtPx f = true → ∀ t < 512, 256 + 2 * (n / 16) ≤ t → cell v t = 0) ∧
      k = BitVec.allOnes 4096 ∧ fl = e.2)) ∧
    (typeFloat ty = true → (fmtMx f || fmtPx f) = true → LanesGive s c fm [a] w 4 en (.vdqnt c ty f gs a) (fun j i =>
      let r := s.vsrc fm w a j
      let g := gsN gs
      let sc := if fmtPx f then cell r (256 + 2 * (i / 16)) else cell r (256 + i / g)
      let mu := if fmtPx f then cell r (257 + 2 * (i / 16)) >>> (i % 16 / 2) % 2 else 0
      (typeF ty).round .rne (decodeScaled f (cell r i % 2 ^ fmtBits f) sc mu)))

/-- R252 to R254, R258 to R261: the transform slot without number formats. Whole rows, no flag; paired rows need an even
beat count.

R255, R256: row conversion and scale application, over the model's number formats. XSCL reads its handle whole and each
side record it names; a record the core has itself written and not yet published reads as R329 lets it.

Where the spec leaves a point open the statement rests on the model's reading: logs 120 and 121. -/
def Obligations.TransformResults : Prop :=
  (∀ (s : State) (c : XCtl) (w : LaneW) (k : KReg) (f : Fmt) (w1 : BitVec 3) (b : BitVec 6), Ready s →
    s.preg c.guard = true → c.d.toNat + c.b1.toNat ≤ 255 → Readable s c.b1 [xToV c.src] →
    let gives (lat : Nat) (i : Instr) (ok : Nat → RowVal → Prop) : Prop :=
      RowsGive s c lat i (fun j v fl => ok j v ∧ fl = 0)
    let even : Prop := c.b1.toNat % 2 = 1
    let x (j : Nat) : RowVal := s.xsrc c.src j
    let fst (j : Nat) : RowVal := x (j / 2 * 2)
    let snd (j : Nat) : RowVal := x (j / 2 * 2 + 1)
    let W := laneWN w
    let n := 4096 / W
    let en (i : Nat) : Bool := (s.kreg k).getLsbD i
    let below (i : Nat) : Nat := ((List.range i).filter en).length
    let q := fmtBits f
    let pos (i : Nat) : Nat := i / 8 * 8 + (7 - i % 8)
    let P := w1.toNat + 1
    gives 6 (.xexp c true w k) (fun j v => (∀ i < n, en i = true → lane v (below i) W = lane (x j) i W) ∧
      ∀ l < n, below n ≤ l → lane v l W = 0) ∧
    gives 6 (.xexp c false w k) (fun j v => ∀ i < n, lane v i W = if en i then lane (x j) (below i) W else 0) ∧
    (q ≤ 8 → gives 8 (.xpln c f) (fun j v => ∀ p < 8, ∀ i < 512,
      v.getLsbD (512 * p + pos i) = (decide (p < q) && (x j).getLsbD (8 * i + (q - 1 - p))))) ∧
    (q = 16 → even → gives 8 (.xpln c f) (fun j v => ∀ p < 8, ∀ i < 512, v.getLsbD (512 * p + pos i) =
      (if i < 256 then fst j else snd j).getLsbD (16 * (i % 256) + (15 - (8 * (j % 2) + p))))) ∧
    (q ≤ 8 → gives 8 (.xtrn c f) (fun j v => ∀ i < 512, ∀ t < 8,
      v.getLsbD (8 * i + t) = (decide (t < q) && (x j).getLsbD (512 * (q - 1 - t) + pos i)))) ∧
    (q = 16 → even → gives 8 (.xtrn c f) (fun j v => ∀ i < 256, ∀ t < 16, v.getLsbD (16 * i + t) =
      (if t < 8 then snd j else fst j).getLsbD (512 * (7 - t % 8) + pos (256 * (j % 2) + i)))) ∧
    gives 4 (.xpack c w1) (fun j v => ∀ t < 4096,
      v.getLsbD t = (decide (t < 512 * P) && (x j).getLsbD (8 * (t / P) + t % P))) ∧
    (∀ sgn : Bool, gives 4 (.xunpk c sgn w1) (fun j v => ∀ i < 512, ∀ t < 8, v.getLsbD (8 * i + t) =
      if t < P then (x j).getLsbD (i * P + t) else sgn && (x j).getLsbD (i * P + P - 1))) ∧
    (b.toNat < W → ∀ msb : Bool, gives 4 (.xbits c w msb b) (fun j v => ∀ t < 4096, v.getLsbD t =
      (decide (t < n) && (x j).getLsbD ((if msb then pos t else t) * W + b.toNat)))) ∧
    (even → gives 3 (.xzip c w) (fun j v => ∀ i < n,
      let e := n * (j % 2) + i
      lane v i W = lane (if e % 2 = 0 then fst j else snd j) (e / 2) W)) ∧
    (even → gives 3 (.xunzip c w) (fun j v => ∀ i < n,
      let e := 2 * i + j % 2
      lane v i W = if e < n then lane (fst j) e W else lane (snd j) (e - n) W)) ∧
    gives 3 (.xswz c .rev w) (fun j v => ∀ i < n, lane v i W = lane (x j) (n - 1 - i) W) ∧
    gives 3 (.xswz c .bswap w) (fun j v => ∀ i < n, ∀ t < W / 8,
      lane v (i * (W / 8) + t) 8 = lane (x j) (i * (W / 8) + (W / 8 - 1 - t)) 8) ∧
    gives 3 (.xswz c .bitrev w) (fun j v => ∀ i < 512, ∀ t < 8, v.getLsbD (8 * i + t) = (x j).getLsbD (8 * i + (7 - t)))) ∧
  (∀ (s : State) (c : XCtl) (sf df : Fmt) (gs : GSize) (sat inv : Bool) (h : HReg), Ready s →
    s.preg c.guard = true → c.d.toNat + c.b1.toNat ≤ 255 → Readable s c.b1 [xToV c.src] →
    let x (j : Nat) : RowVal := s.xsrc c.src j
    let hv := s.hreg h
    let f := (hfmt hv).getD .bytes
    let at_ (j : Nat) : Nat := hget hv .side + 128 * j
    RowsGive s c 6 (.xcvt c sf df gs sat) (fun j v fl =>
      let e := convElems (rowElems sf (gsN gs) (x j)) df (gsN gs) .rne sat
      fl = e.2 ∧ (if fmtMx df || fmtPx df then v = quantRow e.1
        else ∀ l < 4096 / fmtBits df, lane v l (fmtBits df) = e.1.codes.getD l 0 % 2 ^ fmtBits df)) ∧
    (handleFault hv = none → (fmtMx f || fmtPx f) = true → hget hv .off ≤ 384 → at_ (c.b1.toNat + 1) ≤ s.sideb →
      ∃ g : Nat → RowVal × BitVec 5,
        exec (.xscl c inv h) s = .next (State.occupyX (c.b1.toNat + 1)
          ((noted s 0 c.b1 [xToV c.src]).xrows c 4 g).usedShadow) ∧
        ∀ j ≤ c.b1.toNat,
          let rec_ (i : Nat) : Nat := ((s.ownBytes (.side s.cur) (at_ j) (s.core.side.read (at_ j) 64)).getD i 0).toNat
          let scale (n : Nat) : Val :=
            let code := if fmtPx f then rec_ (2 * (n / 16)) else rec_ (n / hgroup hv)
            let mu : Int := if fmtPx f then (rec_ (2 * (n / 16) + 1) >>> (n % 16 / 2) % 2 : Nat) else 0
            if code = 255 then .nan else .fin false 1 ((code : Int) - 127 - mu)
          let res (i : Nat) : Nat × BitVec 5 := fp32F.round .rne (match scale (hget hv .off + i) with
            | .fin _ _ e => (fp32F.decode (lane (x j) i 32)).scale (if inv then -e else e)
            | _ => .nan)
          (∀ i < 128, lane (g j).1 i 32 = (res i).1 % 2 ^ 32) ∧
            ∀ b, (g j).2.getLsbD b = true ↔ ∃ i < 128, (res i).2.getLsbD b = true))

/-! ### Loads and stores -/

/-- R263, R264, R270 to R272: the loads of the local scratchpad and side bank complete by queueing their beats at the local
port, beat j for cycle t + 1 + j, when the address is aligned and the bytes lie inside the task's memory.

R264, R269 to R273, R98: the stores and atomics of the local memories complete by queueing the bytes they store, read at
issue, each at its address: beat j in cycle p + 1 + j where every tile met is plain, and later beats 72 cycles on for each
compressed tile met first. p is the cycle of issue, or later so that no beat comes before the last of the bundle's L access.

Where the spec leaves a point open the statement rests on the model's reading: logs 34 and 170. -/
def Obligations.LocalAccessesIssue : Prop :=
  (∀ (s : State) (g : PReg) (cl : Cls) (d : SReg) (r x : Row) (h : HReg) (i : BitVec 4) (k : KReg) (a : SReg) (sz : MSize)
    (w dw : LaneW) (sx : Bool) (b1 : BitVec 4) (sh : BitVec 2) (d32 : BitVec 32) (d29 : BitVec 29) (d21 : BitVec 21),
    Ready s → s.preg g = true →
    let ea {n : Nat} (v : BitVec n) : Nat := (s.sreg a + v.signExtend 64).toNat
    let n := sizeN sz
    let inSpad (e m : Nat) : Prop := e < 2 ^ 21 ∧ e + m ≤ s.spadb
    let dst : SReg := if d = 0 then 0 else rotS s.core.sys d
    let row (j : Nat) : Row := rotA s.core.sys (r + BitVec.ofNat 8 j)
    let queues (s' : State) (l : List PortOp) (o : Instr) : Prop :=
      exec o s = .next (s'.pushPort .l (some cl) (l.zipIdx.map (fun (op, j) => (s.pcyc + 1 + j, op))))
    let W := laneWN w
    let en (l : Nat) : Bool := (s.kreg k).getLsbD l
    let at_ (l : Nat) : Nat := (ea d21 + lane (s.arow x) l W * 2 ^ sh.toNat) % 2 ^ 64
    (ea d32 % n = 0 → inSpad (ea d32) n → queues s [.ld dst n sx false (ea d32)] (.lds g cl d a sz sx false d32)) ∧
    (ea d32 % n = 0 → ea d32 < 2 ^ 18 → ea d32 + n ≤ s.sideb →
      queues s [.ld dst n sx true (ea d32)] (.lds g cl d a sz sx true d32)) ∧
    (ea d32 % 32 = 0 → inSpad (ea d32) 32 → queues s [.ldh h (ea d32)] (.ldh g cl h a false d32)) ∧
    (ea d32 % 8 = 0 → inSpad (ea d32) 8 → queues s [.ldpcw i (ea d32)] (.ldpcw g cl i a false d32)) ∧
    (ea d29 % 64 = 0 → r.toNat + b1.toNat ≤ 255 → inSpad (ea d29) (512 * (b1.toNat + 1)) →
      queues s ((List.range (b1.toNat + 1)).map (fun j => .vld (row j) (laneMask (s.kreg k) W) (ea d29 + 512 * j)))
        (.vld g cl r a b1 w k d29)) ∧
    (W < laneWN dw → ea d29 % 64 = 0 → inSpad (ea d29) (4096 / laneWN dw * W / 8) →
      queues s [.vldp (row 0) (laneMask (s.kreg k) (laneWN dw)) W (laneWN dw) sx (ea d29)] (.vldp g cl r a w dw sx k d29)) ∧
    ((∀ l < 4096 / W, en l = true → at_ l % (W / 8) = 0 ∧ inSpad (at_ l) (W / 8)) →
      queues (noted s 0 0 [.row x]) [.vldg (row 0) (laneMask (s.kreg k) W) W
        (((List.range (4096 / W)).filter en).map (fun l => (l, at_ l)))] (.vldg g cl r a w sh x k d21))) ∧
  (∀ (s : State) (g : PReg) (cl : Cls) (src dd : SReg) (r x : Row) (h : HReg) (k : KReg) (a : SReg) (sz : MSize) (w : LaneW)
    (b1 : BitVec 4) (sh : BitVec 2) (op : AtomOp) (eight : Bool) (lat : BitVec 8) (d24 : BitVec 24) (d21 : BitVec 21)
    (d13 : BitVec 13) (d10 : BitVec 10), Ready s → s.preg g = true →
    let ea {n : Nat} (v : BitVec n) : Nat := (s.sreg a + v.signExtend 64).toNat
    let n := sizeN sz
    let inSpad (e m : Nat) : Prop := e < 2 ^ 21 ∧ e + m ≤ s.spadb
    let W := laneWN w
    let en (l : Nat) : Bool := (s.kreg k).getLsbD l
    let at_ (l : Nat) : Nat := (ea d13 + lane (s.arow x) l W * 2 ^ sh.toNat) % 2 ^ 64
    let m := if eight then 8 else 4
    let p := ((s.core.port.filter (fun e => decide (e.slot = .l))).map (fun e => e.cyc - 1)).foldl max s.pcyc
    let cyc := p + 1 + if s.core.curd.plain (ea d10 / 4096) then 0 else 72
    let byte (v : RowVal) (l : Nat) : Byte := v.extractLsb' (8 * l) 8
    let queues (s' : State) (l : List (List (Nat × Byte))) (o : Instr) : Prop :=
      exec o s = .next (s'.pushPort .w (some cl) ((s.core.storeCycles p l 0 0 []).map (fun (cyc, b) => (cyc, .st false b))))
    (∀ l, (∀ b ∈ l, ∀ p ∈ b, s.core.curd.plain (p.1 / 4096) = true) →
      s.core.storeCycles p l 0 0 [] = l.zipIdx.map (fun (b, j) => (p + 1 + j, b))) ∧
    (ea d24 % n = 0 → inSpad (ea d24) n →
      queues s [placed (ea d24) (leBytes n (s.sreg src).toNat)] (.sts g cl src a sz .loc d24)) ∧
    (ea d24 % n = 0 → ea d24 < 2 ^ 18 → ea d24 + n ≤ s.sideb → exec (.sts g cl src a sz .side d24) s =
      .next (s.pushPort .w (some cl) [(p + 1, .st true (placed (ea d24) (leBytes n (s.sreg src).toNat)))])) ∧
    (ea d24 % 32 = 0 → inSpad (ea d24) 32 →
      queues s [placed (ea d24) (leBytes 32 (s.hreg h).toNat)] (.sth g cl h a false d24)) ∧
    (ea d21 % 64 = 0 → r.toNat + b1.toNat ≤ 255 → inSpad (ea d21) (512 * (b1.toNat + 1)) →
      queues (noted s 0 b1 [.row r]) ((List.range (b1.toNat + 1)).map (fun j => (List.range 512).filterMap (fun l =>
        if en (8 * l / W) then some (ea d21 + 512 * j + l, byte (s.arow (r + BitVec.ofNat 8 j)) l) else none)))
        (.vst g cl r a b1 w k d21)) ∧
    ((∀ l < 4096 / W, en l = true → at_ l % (W / 8) = 0 ∧ inSpad (at_ l) (W / 8)) →
      queues (noted s 0 0 [.row r, .row x]) [((List.range (4096 / W)).filter en).flatMap (fun l =>
        placed (at_ l) (leBytes (W / 8) (lane (s.arow r) l W)))] (.vsts g cl r a w sh x k d13)) ∧
    (ea d10 % m = 0 → inSpad (ea d10) m → (eight = true → op ≠ .fadd ∧ op ≠ .bfadd2) →
      (dd = 0 → exec (.ats g cl op eight src false a dd lat d10) s = .next (s.breakPhase.pushPort .w (some cl)
        [(cyc, .at op eight (s.sreg src) (s.sreg dd) none (ea d10))])) ∧
      (∀ t, dd ≠ 0 → s.core.freeTrack = some t → exec (.ats g cl op eight src false a dd lat d10) s =
        .next ((s.breakPhase.takeTrack t dd 6 cl lat).pushPort .w (some cl)
          [(cyc, .at op eight (s.sreg src) (s.sreg dd) (some t) (ea d10))]))))

/-- R264, R268, R270 to R272: what a load's beat does in its cycle, when no marked word is met: it reads the bytes of the
memory, as the core's own unpublished writes let it see them, and puts the value in flight: 4 cycles on for a register, 7
for a row, 11 for a gathered row. A load to s0 writes nothing.

R264, R269, R98: a store's beat stores exactly its bytes, the last of them at each address, and leaves every other byte
and everything else of the machine as it was; an atomic's beat stores its new value and answers the old one (R273).

R273: what an atomic operation leaves at a location of w bits that holds `old`, for operands v and c.

Where the spec leaves a point open the statement rests on the model's reading: logs 34 and 108. -/
def Obligations.LocalPortBeats : Prop :=
  (∀ (s : State) (e : PortEntry), s.core.marks = [] →
    let t := s.mc (fun c => { c with port := c.port.filter (fun x => decide (x ≠ e)) })
    let own (a n : Nat) : List Byte := s.ownBytes (.spad s.cur) a (s.core.spadRead a n)
    let num (a n : Nat) : Nat := leNat (own a n)
    let ext (n : Nat) (sx : Bool) (v : Nat) : Word :=
      if sx then (BitVec.ofNat (8 * n) v).signExtend 64 else (BitVec.ofNat (8 * n) v).zeroExtend 64
    (∀ a n, s.core.eng.shadow = [] → (∀ i ≤ n, s.core.curd.plain ((a + i) / 4096) = true) → own a n = s.core.spad.read a n) ∧
    (∀ d n sx a, 0 < n → e.op = .ld d n sx false a → s.beat e =
      if d = 0 then t.usedShadow else t.usedShadow.landAt e 4 (.s d (ext n sx (num a n)))) ∧
    (∀ d n sx a, 0 < n → e.op = .ld d n sx true a → s.beat e = if d = 0 then t.usedShadow else
      t.usedShadow.landAt e 4 (.s d (ext n sx (leNat (s.ownBytes (.side s.cur) a (s.core.side.read a n)))))) ∧
    (∀ h a, e.op = .ldh h a → s.beat e =
      (t.landAt e 4 (.h h (BitVec.ofNat 256 (num a 32)) (BitVec.allOnes 256))).usedShadow) ∧
    (∀ i a, e.op = .ldpcw i a → s.beat e = (t.landAt e 4 (.pcw i (BitVec.ofNat 64 (num a 8)))).usedShadow) ∧
    (∀ r m a, e.op = .vld r m a → s.beat e = (t.landAt e 7 (.row r (BitVec.ofNat 4096 (num a 512)) m)).usedShadow) ∧
    (∀ r m w dw sx a, w ∈ [8, 16, 32] → dw ∈ [16, 32, 64] → w < dw → e.op = .vldp r m w dw sx a → ∃ v : RowVal,
      s.beat e = (t.landAt e 7 (.row r v m)).usedShadow ∧ ∀ l < 4096 / dw,
        let f := num a (4096 / dw * w / 8) / 2 ^ (w * l) % 2 ^ w
        lane v l dw = if sx then ((BitVec.ofNat w f).signExtend dw).toNat else f) ∧
    (∀ r m w as, w ∈ [8, 16, 32, 64] → e.op = .vldg r m w as → as.Pairwise (fun p q => p.1 < q.1) →
      (∀ p ∈ as, p.1 < 4096 / w) → ∃ v : RowVal, s.beat e = (t.landAt e 11 (.row r v m)).usedShadow ∧
        ∀ p ∈ as, lane v p.1 w = num p.2 (w / 8) % 2 ^ w)) ∧
  (∀ (s : State) (e : PortEntry), s.core.marks = [] → CoreMemOk s.core →
    let left := s.core.port.filter (fun x => decide (x ≠ e))
    let put (m : Memory) (bs : List (Nat × Byte)) (x : Nat) : Byte :=
      match bs.reverse.find? (fun p => decide (p.1 = x)) with
      | some p => p.2
      | none => m.get x
    (∀ bs, e.op = .st false bs → (∀ p ∈ bs, s.core.curd.plain (p.1 / 4096) = true) → ∃ m : Memory, m.wf = true ∧
      s.beat e = s.mc (fun c => { c with port := left, spad := m }) ∧ ∀ x, m.get x = put s.core.spad bs x) ∧
    (∀ bs, e.op = .st true bs → ∃ m : Memory, m.wf = true ∧
      s.beat e = s.mc (fun c => { c with port := left, side := m }) ∧ ∀ x, m.get x = put s.core.side bs x) ∧
    (∀ op eight v c a, e.op = .at op eight v c none a → s.dieReply s.cur = none →
      let n := if eight then 8 else 4
      let old := leNat (s.core.spadRead a n)
      let new := atomNew op (8 * n) old (v.toNat % 2 ^ (8 * n)) (c.toNat % 2 ^ (8 * n))
      (∀ i < n, s.core.curd.plain ((a + i) / 4096) = true) → ∃ m : Memory, m.wf = true ∧
        s.beat e = s.mc (fun c => { c with port := left, spad := m }) ∧
        ∀ x, m.get x = put s.core.spad (placed a (leBytes n new)) x)) ∧
  (∀ (w : Nat) (old v c : BitVec w), (w = 32 ∨ w = 64) →
    let f (op : AtomOp) : Nat := atomNew op w old.toNat v.toNat c.toNat
    f .add = (old + v).toNat ∧ f .swap = v.toNat ∧ f .cas = (if old = c then v else old).toNat ∧
    f .and = (old &&& v).toNat ∧ f .or = (old ||| v).toNat ∧ f .xor = (old ^^^ v).toNat ∧
    f .smin = (if v.toInt < old.toInt then v else old).toNat ∧ f .smax = (if old.toInt < v.toInt then v else old).toNat ∧
    f .umin = min old.toNat v.toNat ∧ f .umax = max old.toNat v.toNat)

/-- R265, R268, R269, R272 to R274, R93: the loads, stores, atomics and multicast stores of memory and of the cluster's
scratchpads complete by putting one access under way to the place their address names; LDW, and a load of a handle or PCW,
stops issue for its reply; a tracked load or atomic takes a tracker entry. A page that is moving, and one whose table entry is
in a line that another node owns, is named by its VA, and the access walks again (R91, R350).

Where the spec leaves a point open the statement rests on the model's reading: log 27. -/
def Obligations.MemoryAccessesIssue : Prop :=
  ∀ (s : State) (g : PReg) (cl : Cls) (d src dd : SReg) (h : HReg) (i t : BitVec 4) (a : SReg) (sz : MSize) (sx : Bool)
    (op : AtomOp) (eight : Bool) (lat : BitVec 8) (d32 : BitVec 32) (d24 : BitVec 24) (d10 : BitVec 10) (to_ : Machine.Target),
    Ready s → s.preg g = true →
    let ea {n : Nat} (v : BitVec n) : Nat := (s.sreg a + v.signExtend 64).toNat
    let n := sizeN sz
    let dst : SReg := if d = 0 then 0 else rotS s.core.sys d
    let xl (e : Nat) (k : AKind) : Xl := s.translate s.core.sys.xlat e k
    let at_ (e : Nat) (k : AKind) : Prop := match xl e k with
      | .ok pa gr _ _ => to_ = .dpa pa gr
      | .moving | .away _ => to_ = .va e s.core.sys.xlat
      | _ => False
    let register (e : Nat) (k : AKind) : Bool := match xl e k with
      | .ok pa _ _ _ => decide (dieCode pa = 14)
      | _ => false
    let clus (e : Nat) : Machine.Target := .cluster (64 * clusterOf s.cur + e / 2 ^ 21 % 64) (e % 2 ^ 21)
    let goes (s' : State) (sl : Slot) (to_ : Machine.Target) (rap : Bool) (k : AKind) (op : AccOp) : State :=
      s'.mc (fun c => { c with nextAcc := c.nextAcc + 1, pend := c.pend ++ [{
        id := c.nextAcc, cls := cl, slot := sl, tgt := to_, op := op, kind := k, pc := c.ctl.curPc, btag := c.ctl.btag,
        sent := false, born := s.ns, rap := rap, task := c.task, sec := c.sys.sec, po := c.nextAcc }] })
    -- an operation that stands alone looks its memory up as it issues; in a bundle the check pass has
    let wk (e : Nat) : State := if s.core.ctl.pass = .go then s else s.walked s.core.sys.xlat e
    let holds (s' : State) : State := s'.mc (fun c =>
      { c with ldwReply := none, ctl := { c.ctl with wait := some (.ldw s.core.nextAcc) } })
    let bytes (m : Nat) : List Byte := leBytes m (s.sreg src).toNat
    let m := if eight then 8 else 4
    let wide : Prop := eight = true → op ≠ .fadd ∧ op ≠ .bfadd2
    let atom (e : Option (BitVec 4)) : AccOp := .atomic op eight (s.sreg src) (s.sreg dd) e
    let grp := s.group (BitVec.ofNat 12 (ea d24 / 2 ^ 32))
    (ea d24 % n = 0 → at_ (ea d24) .rd → s.core.freeTrack = some t → exec (.ldm g cl d a sz sx false d24 lat) s =
      .next (if register (ea d24) .rd then holds (goes (wk (ea d24)) .l to_ false .rd (.ldWait dst n sx))
        else goes ((wk (ea d24)).takeTrack t d 2 cl lat) .l to_ false .rd (.ldTrack t n sx))) ∧
    (ea d24 % n = 0 → ea d24 < 2 ^ 27 → s.core.freeTrack = some t → exec (.ldm g cl d a sz sx true d24 lat) s =
      .next (goes (s.takeTrack t d 2 cl lat) .l (clus (ea d24)) false .rd (.ldTrack t n sx))) ∧
    (ea d32 % n = 0 → at_ (ea d32) .rd →
      exec (.ldw g cl d a sz sx false d32) s = .next (holds (goes (wk (ea d32)) .l to_ false .rd (.ldWait dst n sx)))) ∧
    (ea d32 % n = 0 → ea d32 < 2 ^ 27 →
      exec (.ldw g cl d a sz sx true d32) s = .next (holds (goes s .l (clus (ea d32)) false .rd (.ldWait dst n sx)))) ∧
    (ea d32 % 32 = 0 → at_ (ea d32) .rd →
      exec (.ldh g cl h a true d32) s = .next (holds (goes (wk (ea d32)) .l to_ false .rd (.ldHandle h)))) ∧
    (ea d32 % 8 = 0 → at_ (ea d32) .rd →
      exec (.ldpcw g cl i a true d32) s = .next (holds (goes (wk (ea d32)) .l to_ false .rd (.ldPcw i)))) ∧
    (ea d24 % n = 0 → ea d24 < 2 ^ 27 →
      exec (.sts g cl src a sz .cluster d24) s = .next (goes s .w (clus (ea d24)) false .wr (.store (bytes n)))) ∧
    (ea d24 % n = 0 → at_ (ea d24) .wr →
      exec (.stm g cl src a sz false d24) s = .next (goes (wk (ea d24)) .w to_ false .wr (.store (bytes n)))) ∧
    (ea d24 % n = 0 → ea d24 < 2 ^ 27 →
      exec (.stm g cl src a sz true d24) s = .next (goes s .w (clus (ea d24)) false .wr (.store (bytes n)))) ∧
    (ea d24 % 32 = 0 → at_ (ea d24) .wr →
      exec (.sth g cl h a true d24) s = .next (goes (wk (ea d24)) .w to_ false .wr (.store (leBytes 32 (s.hreg h).toNat)))) ∧
    (ea d10 % m = 0 → ea d10 < 2 ^ 27 → wide →
      (dd = 0 → exec (.ats g cl op eight src true a dd lat d10) s =
        .next (goes s.breakPhase .w (clus (ea d10)) false .at (atom none))) ∧
      (dd ≠ 0 → s.core.freeTrack = some t → exec (.ats g cl op eight src true a dd lat d10) s =
        .next (goes (s.breakPhase.takeTrack t dd 6 cl lat) .w (clus (ea d10)) false .at (atom (some t))))) ∧
    (ea d10 % m = 0 → at_ (ea d10) .at → wide →
      (dd = 0 → exec (.atm g cl op eight src a dd lat d10) s =
        .next (goes (wk (ea d10)).breakPhase .w to_ (xlRap (xl (ea d10) .at)) .at (atom none))) ∧
      (dd ≠ 0 → s.core.freeTrack = some t → exec (.atm g cl op eight src a dd lat d10) s =
        .next (goes ((wk (ea d10)).breakPhase.takeTrack t dd 7 cl lat) .w to_ (xlRap (xl (ea d10) .at)) .at (atom (some t))))) ∧
    (ea d24 % n = 0 → ea d24 < 2 ^ 44 → grp.v = true → grp.mem = true →
      ea d24 % 2 ^ 32 + n ≤ 64 * grp.wlen.toNat → exec (.mst g cl src a sz d24) s =
        .next (goes s.breakPhase .w (.mcast (BitVec.ofNat 12 (ea d24 / 2 ^ 32))) false .wr
          (.mst (BitVec.ofNat 12 (ea d24 / 2 ^ 32)) (BitVec.ofNat 32 (ea d24)) (bytes n))))

/-- R72, R73, R78: a VA of the heap translates by adding HEAPOFF, under the granule and rights of HEAPATTR, when it lies in a
memory die of this module; outside the module's memory it has no mapping, and a right it lacks is a permission failure. The
page tables are not consulted.

R81, R82: where a byte of the near stripe stands, that a die's own code reaches the same cell at its die-local offset
(R83), and that two offsets of one code never name one cell. -/
def Obligations.HeapAndStripeMaps : Prop :=
  (∀ (s : State) (x : XlatRegs) (va : Nat) (kind : AKind), va < 2 ^ 48 →
    x.heapbase.toNat ≤ va → va < x.heapbase.toNat + x.heaplim.toNat →
    let pa : Dpa := BitVec.ofNat 53 (va + x.heapoff.toNat)
    let die := (pa.extractLsb' 39 4).toNat
    let bit (i : Nat) : Bool := x.heapattr.getLsbD i
    let right : Bool := match kind with
      | .rd => bit 3
      | .wr => bit 4
      | .at => bit 5
    (12 < die ∨ pa.extractLsb' 43 10 ≠ s.fab.node → s.translate x va kind = .noLeaf) ∧
    (die ≤ 12 → pa.extractLsb' 43 10 = s.fab.node →
      ((right = false ∨ (bit 2 = true ∧ x.sec = false)) → s.translate x va kind = .perm) ∧
      (right = true → (bit 2 = true → x.sec = true) → dpaKey (x.heapattr.extractLsb' 0 2) pa ≠ none →
        s.translate x va kind = .ok pa (x.heapattr.extractLsb' 0 2) 0 false))) ∧
  ((∀ (g : BitVec 2) (pa : Dpa), dieCode pa = 0 → offOf pa < 384 * 2 ^ 30 →
    let S := [32, 64, 256, 1024].getD g.toNat 0
    let f := offOf pa / 2 ^ 18
    let w := offOf pa % 2 ^ 18
    dpaKey g pa = some (w / S % 8 * 2 ^ 39 + (2 ^ 15 * f + w / (8 * S) * S + w % S))) ∧
  (∀ (g : BitVec 2) (pa : Dpa), 1 ≤ dieCode pa → dieCode pa ≤ 12 →
    dpaKey g pa = if offOf pa < (if dieCode pa ≤ 8 then 48 else 256) * 2 ^ 30 then
      some ((dieCode pa - 1) * 2 ^ 39 + offOf pa) else none) ∧
  (∀ (g : BitVec 2) (pa : Dpa), 12 < dieCode pa → dpaKey g pa = none) ∧
  ∀ (g : BitVec 2) (a b : Dpa) (k : Nat), dieCode a = dieCode b → dpaKey g a = some k → dpaKey g b = some k →
    offOf a = offOf b)

/-- R75, R76, R77, R78, R80: outside the heap a VA translates by the leaf that the TLB holds for its context, or else by the
leaf that the walk from PTROOT reaches: one entry of 8 bytes a level, a pointer naming the next table, a leaf giving frame,
granule, aperture and rights. A walk stops at an invalid entry, at a pointer of level 0, at a malformed leaf, at a table
that is not in this module's memory, at an entry on a far die that is lost (R429), and, until it is recalled, at an entry in a
line that another node owns (R350). That a page being moved makes the access wait is R91's.

R79: the TLB takes only a valid leaf, the one that a walk reaches, and gives an entry up again; nothing else of the machine
changes but what the reads of a walk count, and find for the hub to report. When it does either is the agenda's choice (log 31). -/
def Obligations.TablesAndHeldEntries : Prop :=
  (∀ (s : State) (x : XlatRegs) (va : Nat) (kind : AKind), va < 2 ^ 48 →
    (va < x.heapbase.toNat ∨ x.heapbase.toNat + x.heaplim.toNat ≤ va) →
    (∀ t, s.tlbHit x.asid va = some t →
      t ∈ s.tlb ∧ t.die = dieOf s.cur ∧ t.asid = x.asid ∧ t.page = va / 2 ^ (18 + 10 * t.lvl) ∧
      s.translate x va kind = s.leafXl x.sec va kind t.lvl t.entry) ∧
    (s.tlbHit x.asid va = none → ∀ lvl ea e, s.walk va 2 (x.ptroot.extractLsb' 0 53) = .leaf lvl ea e →
      s.translate x va kind = s.leafXl x.sec va kind lvl e) ∧
    (s.tlbHit x.asid va = none → ∀ r, s.walk va 2 (x.ptroot.extractLsb' 0 53) = .stop r → s.translate x va kind = r)) ∧
  (∀ (s : State) (va lvl : Nat) (t : Dpa) (k : Nat),
    let ea := dpaAdd t (8 * (va / 2 ^ (18 + 10 * lvl) % 1024))
    let e := BitVec.ofNat 64 (s.dpaNat 1 ea 8)
    let sz := (e.extractLsb' 1 2).toNat
    let fr : Dpa := e.extractLsb' 18 35 ++ (0 : BitVec 18)
    let ok : Prop := sz = lvl + 1 ∧ fr.toNat % 2 ^ (18 + 10 * lvl) = 0 ∧ dieAllowed (e.extractLsb' 5 2) (dieCode fr) = true
    ((12 < dieCode t ∨ nodeOf t ≠ s.fab.node) → s.walk va lvl t = .stop .noLeaf) ∧
    (dieCode t ≤ 12 → nodeOf t = s.fab.node → dpaKey 1 ea = some k → s.farLost ea = true →
      s.walk va lvl t = .stop (.uncorr ea)) ∧
    (dieCode t ≤ 12 → nodeOf t = s.fab.node → dpaKey 1 ea = some k → s.farLost ea = false → Sound s 1 ea 8 →
      s.lineAway ea 8 = true → s.walk va lvl t = .stop (.away ea)) ∧
    (dieCode t ≤ 12 → nodeOf t = s.fab.node → dpaKey 1 ea = some k → s.farLost ea = false → Sound s 1 ea 8 →
      s.lineAway ea 8 = false →
      (e.getLsbD 0 = false → s.walk va lvl t = .stop .noLeaf) ∧
      (e.getLsbD 0 = true → sz = 0 → lvl = 0 → s.walk va lvl t = .stop .noLeaf) ∧
      (∀ l, e.getLsbD 0 = true → sz = 0 → lvl = l + 1 →
        s.walk va lvl t = s.walk va l (e.extractLsb' 13 40 ++ (0 : BitVec 13))) ∧
      (e.getLsbD 0 = true → sz ≠ 0 → ok → s.walk va lvl t = .leaf lvl ea e) ∧
      (e.getLsbD 0 = true → sz ≠ 0 → ¬ ok → s.walk va lvl t = .stop .noLeaf))) ∧
  (∀ (s : State) (sec : Bool) (va : Nat) (kind : AKind) (lvl : Nat) (e : Word),
    let ap := e.extractLsb' 5 2
    let fr : Dpa := e.extractLsb' 18 35 ++ (0 : BitVec 18)
    let right : Bool := match kind with
      | .rd => e.getLsbD 8
      | .wr => e.getLsbD 9
      | .at => e.getLsbD 10 && (decide (ap ≠ 1) || e.getLsbD 7) && decide (ap ≠ 2) && decide (dieCode fr ≠ 14)
    let pa := dpaAdd fr (va % 2 ^ (18 + 10 * lvl))
    let here : Dpa := s.fab.node ++ pa.extractLsb' 0 43
    (e.getLsbD 12 = true → s.leafXl sec va kind lvl e = .moving) ∧
    (e.getLsbD 12 = false → (right = false ∨ (e.getLsbD 11 = true ∧ sec = false)) → s.leafXl sec va kind lvl e = .perm) ∧
    (e.getLsbD 12 = false → right = true → (e.getLsbD 11 = true → sec = true) →
      (ap ≠ 0 → s.leafXl sec va kind lvl e = .ok pa (e.extractLsb' 3 2) ap (e.getLsbD 7)) ∧
      (ap = 0 → (12 < dieCode here ∨ dpaKey (e.extractLsb' 3 2) here ≠ none) →
        s.leafXl sec va kind lvl e = .ok here (e.extractLsb' 3 2) ap (e.getLsbD 7)))) ∧
  (∀ (s : State) (x : XlatRegs) (va : Nat), HubReads s (s.walked x va)) ∧
  (∀ (s : State) (va n : Nat), ∃ (u : State) (l : List Tlb), HubReads s u ∧
    s.take (.tlbFill s.cur va) = .next { u with tlb := l } ∧
    (∀ t ∈ l, t ∈ s.tlb ∨ (t.entry.getLsbD 0 = true ∧ t.entry.getLsbD 12 = false ∧ t.entry.extractLsb' 1 2 ≠ 0 ∧
      t.asid = s.core.sys.asid ∧ t.die = dieOf s.cur ∧
      s.walk va 2 (s.core.sys.ptroot.extractLsb' 0 53) = .leaf t.lvl t.ea t.entry)) ∧
    s.take (.tlbDrop n) = .next { s with tlb := s.tlb.eraseIdx n })

/-- R268, R269, R273, R317, R328: what an access does at a memory die of this module that answers it: a load brings the bytes
of the memory, a store stores exactly its bytes, an atomic stores its new value and brings the old one; every other byte of
memory is unchanged. -/
def Obligations.HomeAccesses : Prop :=
  ∀ (s : State) (a : Access) (pa : Dpa) (g : BitVec 2), MemOk s → a.tgt = .dpa pa g → a.sent = false →
    s.permitted a = true → nodeOf pa = s.fab.node → dieCode pa ≤ 12 → s.lineAway pa a.op.bytes = false →
    offOf pa + a.op.bytes ≤ 2 ^ 39 → s.homeRefuses a.sec (match a.op with
      | .store _ => .wr
      | .atomic .. => .at
      | _ => .rd) g pa a.op.bytes = none → Sound s g pa a.op.bytes → s.core.eng.shadow = [] →
    s.host.windows.toList.any Window.en = false →
    let bytes (n : Nat) : List Byte := (List.range n).map (fun i => match dpaKey g (dpaAdd pa i) with
      | some k => s.mem.get k
      | none => Config.freeByte (dpaAdd pa i).toNat)
    let loads (n : Nat) : Prop := ∃ t, Reads s t ∧ s.performAcc a = t.reply a 0 0 (leNat (bytes n))
    let stores (bs : List Byte) (v : Nat) : Prop := ∃ t, Stores s g pa bs t ∧ s.performAcc a = t.reply a 0 0 v
    (∀ t n sx, a.op = .ldTrack t n sx → loads n) ∧ (∀ d n sx, a.op = .ldWait d n sx → loads n) ∧
    (∀ h, a.op = .ldHandle h → loads 32) ∧ (∀ i, a.op = .ldPcw i → loads 8) ∧
    (∀ bs, a.op = .store bs → stores bs 0) ∧
    (∀ op eight v c t, a.op = .atomic op eight v c t →
      let n := if eight then 8 else 4
      let old := leNat (bytes n)
      stores (leBytes n (atomNew op (8 * n) old (v.toNat % 2 ^ (8 * n)) (c.toNat % 2 ^ (8 * n)))) old)

/-- R265, R268: what the reply of a load does when it brings no error: a waiting load's value lands in the next cycle and
ends the wait; a tracked load's reply is held in its entry, zero- or sign-extended, until its cycle; at that cycle the
value joins the writes that land then, in the slot of the instruction, and the entry is freed (R183); without a reply it is the
register's poison that lands, and the entry stays, late.

R265, R266, R346, R354, R421 to R423, R441, R447: what answers an access. An access that performs at this node does so at
LOAD_REPLY; a reply from another node frees the access and is held in the tracker entry, extended, or with its error code, and
the line that it grants to an atomic under RAP is this node's from then on (R349); an acknowledged write is done, and an error reply to it is a fault of the task that issued it, at SLOT 6. A request that has left
and had no answer for 101 µs is answered PATH_LOST 1, one to the host that has not been answered for 10 ms HOST_ERROR. A bundle
that reads a poisoned register goes to RPLADDR in replay mode; with RPLADDR = 0 it is held, and in replay mode that is the
fault REPLAY.

Where the spec leaves a point open the statement rests on the model's reading: logs 25 and 82. -/
def Obligations.AccessesAnswered : Prop :=
  (∀ (s : State) (a : Access) (v : Nat),
    let left := s.core.pend.filter (fun x => decide (x.id ≠ a.id))
    let ext (n : Nat) (sx : Bool) : Word :=
      if sx then (BitVec.ofNat (8 * n) v).signExtend 64 else (BitVec.ofNat (8 * n) v).zeroExtend 64
    let gone := s.mc (fun c => { c with pend := left })
    (∀ d n sx, 0 < n → a.op = .ldWait d n sx → s.reply a 0 0 v =
      (if d = 0 then gone else gone.land 1 .l (.s d (ext n sx)) 0).mc (fun c => { c with ldwReply := some (0, 0, ext n sx) })) ∧
    (∀ t n sx x, 0 < n → a.op = .ldTrack t n sx → s.core.track[t.toNat]'(t.isLt) = some x → x.drop = false → x.reg ≠ 0 →
      s.reply a 0 0 v = gone.mc (fun c => { c with
        track := c.track.set t.toNat (some { x with reply := some (0, ext n sx), detail := 0 }) t.isLt })) ∧
    (∀ (t : BitVec 4) x, s.core.track[t.toNat]'(t.isLt) = some x → x.late = false → x.drop = false → x.due ≤ s.pcyc →
      x.reg ≠ 0 → s.core.ctl.late = [] →
      let lands (o : Option Track) (d : Dest) : Prop := exec (.trackerDeadline t) s = .next (s.mc (fun c => { c with
        track := c.track.set t.toNat o t.isLt,
        flight := c.flight ++ [⟨x.due, if x.opc = 2 then 5 else 6, d, 0, x.pc, x.btag⟩] }))
      (∀ w, x.reply = some (0, w) → lands none (.s x.reg w)) ∧
      (x.reply = none → lands (some { x with late := true }) (.poison x.reg)))) ∧
  (∀ (s : State) (a : Access) (n : BitVec 4) (x : Track) (v : BitVec 256) (line : List Byte) (code detail : BitVec 16)
    (b : Nat), s.core.ctl.late = [] → s.core.eng.shadow = [] →
    let c := s.core
    let left : Core := { c with pend := c.pend.filter (fun y => decide (y.id ≠ a.id)) }
    let to_ (y : Access) : Bool := match y.op with
      | .ldTrack t .. => decide (t = n)
      | .atomic _ _ _ _ (some t) => decide (t = n)
      | _ => false
    let entry : Prop := c.pend.find? to_ = some a ∧ c.track[n.toNat]'(n.isLt) = some x ∧ x.drop = false ∧ x.reg ≠ 0
    let holdsIn (s : State) (code detail : BitVec 16) (v : Word) (i : Instr) (was : State) : Prop :=
      exec i was = .next (s.mc (fun _ => { left with
        track := c.track.set n.toNat (some { x with reply := some (code, v), detail := detail }) n.isLt }))
    let holds (code detail : BitVec 16) (v : Word) (i : Instr) : Prop := holdsIn s code detail v i s
    let mine := s.fab.owned.filter (fun o => o.owner.isNone)
    let ext (k : Nat) (sx : Bool) : Word :=
      if sx then (BitVec.ofNat (8 * k) v.toNat).signExtend 64 else (BitVec.ofNat (8 * k) v.toNat).zeroExtend 64
    let host : Prop := ∃ pa g, a.tgt = .dpa pa g ∧ dieCode pa = 13
    let numbered (k : Nat) : Prop := c.pend.find? (fun y => decide (y.id = k)) = some a
    let reads (r : SReg) : Prop := (∃ p ∈ c.ctl.reads, p.2 = .s r) ∧ c.poison.getLsbD r.toNat = true
    (∀ t, c.pend.find? to_ = some a → s.performAcc a = t → t.core.ctl.late = [] → exec (.loadReply n .local) s = .next t) ∧
    (∀ k sx, entry → a.sent = true → a.op = .ldTrack n k sx → 0 < k →
      holds 0 0 (ext k sx) (.loadReply n (.remote v line))) ∧
    (∀ op eight y z, entry → a.sent = true → a.op = .atomic op eight y z (some n) → (a.rap = false ∨ line = []) →
      holds 0 0 (ext (if eight then 8 else 4) false) (.loadReply n (.remote v line))) ∧
    (∀ op eight y z pa g, entry → a.sent = true → a.op = .atomic op eight y z (some n) → a.rap = true → a.tgt = .dpa pa g →
      line.length = 64 → mine.length < 4096 →
      let at_ := pa.toNat / 64 * 64
      holdsIn (s.mfab (fun f => { f with
          owned := f.owned.filter (fun o => decide (o.dpa ≠ at_)) ++ [⟨at_, none, g, line, false⟩] })) 0 0
        (ext (if eight then 8 else 4) false) (.loadReply n (.remote v line)) s) ∧
    (c.pend.find? to_ = some a → a.sent = false → exec (.loadReply n (.remote v line)) s = .next s) ∧
    (∀ k sx, entry → (a.sent = true ∨ host) → code ≠ 0 → a.op = .ldTrack n k sx → 0 < k →
      holds code detail 0 (.loadReply n (.error code detail))) ∧
    (∀ bs ms d e via, numbered b → a.sent = true → (a.op = .store bs ∨ a.op = .published ms d e via) →
      exec (.writeAcknowledgement b 0 ⟨detail, line⟩) s = .next (s.mc (fun _ => left))) ∧
    (∀ op eight y z, numbered b → a.sent = true → a.op = .atomic op eight y z none → a.rap = false →
      exec (.writeAcknowledgement b 0 ⟨detail, line⟩) s = .next (s.mc (fun _ => left))) ∧
    (∀ bs tid, numbered b → (a.sent = true ∨ host) → code ≠ 0 → a.op = .store bs → a.slot ≠ .y → c.task = some tid →
      a.task = some tid → (∀ v ∈ s.hub.saves, v.task ≠ tid) → exec (.writeAcknowledgement b code ⟨detail, line⟩) s = .next (State.takeFaults (s.mc (fun _ => left)) none
        [⟨code, detail, 6, 0, 0, 0, 0, c.eng.cidx, a.pc, a.btag, decide (code = 0x0107), none⟩]).takeLate) ∧
    (∀ k sx, entry → numbered b → a.op = .ldTrack n k sx → 0 < k →
      (a.sent = true → a.born + 101000 ≤ s.ns → holds 0x0108 1 0 (.requestExpiry b)) ∧
      (s.ns < a.born + 101000 → exec (.requestExpiry b) s = .next s) ∧
      (a.sent = false → host → a.born + 10000000 ≤ s.ns → holds 0x0109 0 0 (.hostCompletionTimeout b)) ∧
      (s.ns < a.born + 10000000 → exec (.hostCompletionTimeout b) s = .next s)) ∧
    ((∀ r, ¬ reads r) → exec .enterReplay s = .next s) ∧
    (∀ r, reads r → c.ctl.replay = false → c.sys.rpladdr ≠ 0 → exec .enterReplay s = .next (s.mc (fun c => { c with
      ctl := { c.ctl with replay := true, replayRet := c.ctl.curPc, pc := c.sys.rpladdr, npc := none, ready := s.pcyc + 1,
                          found := [] } }))) ∧
    (∀ r, reads r → c.ctl.replay = false → c.sys.rpladdr = 0 → ∃ l : List SReg, (∀ q, q ∈ l ↔ reads q) ∧
      exec .enterReplay s = .next (s.mc (fun c => { c with ctl := { c.ctl with wait := some (.hold l), found := [] } }))) ∧
    (∀ r, reads r → c.ctl.replay = true → ∃ slot, (∃ q, (slot, .s q) ∈ c.ctl.reads ∧ c.poison.getLsbD q.toNat = true) ∧
      exec .enterReplay s = .next (s.takeFault slot 0x0209 0)))

/-! ### Engines: entering the queues -/

/-- R275 to R287, R461: the copy commands complete by entering the engine's queue with all they capture at issue: their
handles, rounding, shadow nest (used when outer), context and dictionary bank; their token counts one more and the command
index goes up by one. They do so when the queue has room, the token is below 255, every handle named is sound, and the
operands fit each other as the command asks. CPYP also waits for no outstanding command. A CMCS takes the next place in program
order for its stores (R274).

Where the spec leaves a point open the statement rests on the model's reading: logs 52 and 53. -/
def Obligations.CopyCommandsIssue : Prop :=
  ∀ (s : State) (g : PReg) (cl : Cls) (t : Tok) (hd hs hr hc : HReg) (rm : RMode) (sat outer comp add far : Bool) (f : Fmt)
    (gs : GSize) (gran : BitVec 2) (a b : SReg), Ready s → s.preg g = true →
    (s.core.eng.cq.filter CopyCmd.queued).length < 16 → s.core.eng.tokens[t.toNat]'(t.isLt) ≠ 255 →
    let D := s.hreg hd
    let S := s.hreg hs
    let R := s.hreg hr
    let C := s.hreg hc
    let sound (l : List Handle) : Prop := ∀ h ∈ l, handleFault h = none
    let one (outer : Bool) (x : BitVec 16) : Nat := if outer then x.toNat else 1
    let enters (s' : State) (op : CopyOp) (d x r y : Handle) (rm : RMode) (sat outer comp kept : Bool) (hold : CopyHold)
        (i : Instr) : Prop :=
      let e := s.core.eng
      let q : CopyCmd := {
        id := e.nextCmd, op := op, cls := cl, tok := t, hd := d, hs := x, hr := r, hc := y, rm := rm, sat := sat,
        comp := comp, oc4 := one outer e.oc4, oc5 := one outer e.oc5, ds4 := e.ds4, dd4 := e.dd4, ds5 := e.ds5,
        dd5 := e.dd5, pos := 0, xl := s.core.sys.xlat, bank := s.core.curd.bank, cidx := e.cidx + 1,
        pc := s.core.ctl.curPc, btag := s.core.ctl.btag, hold := hold, acc := s.core.nextAcc, fl := 0, born := s.pcyc }
      exec i s = .next (s'.mc (fun c => { c with eng := { c.eng with
        cq := e.cq ++ [q], nextCmd := e.nextCmd + 1, cidx := e.cidx + 1, hist := if kept then e.hist ++ [q] else e.hist,
        tokens := e.tokens.set t.toNat (e.tokens[t.toNat]'(t.isLt) + 1) t.isLt } }))
    let fits : Prop := hcount D = hcount S ∧ (comp = true → sameShape D S = true ∧ tileOk D = true ∧ tileOk S = true) ∧
      hspace D ≠ 3 ∧ (hscaled D = true → hget D .ex0 % hgroup D = 0 ∧ hget D .off % hgroup D = 0) ∧
      isBytes D = isBytes S
    let feeds : Prop := (∃ f, hfmt D = some f ∧ fmtMx f = true) ∧ hplane D = false ∧ hfmt C = some .n8 ∧
      hfmt S = some .fp32 ∧ hfmt R = some .fp32 ∧ hget D .ex0 = hget S .ex0 ∧ hget R .ex0 = hget S .ex0 ∧
      hget C .ex0 = (hget S .ex0 + gsN gs - 1) / gsN gs ∧
      (∀ e ∈ ([.ex1, .ex2, .ex3] : List HField), hget D e = hget S e ∧ hget R e = hget S e ∧ hget C e = hget S e) ∧
      ∀ h ∈ [D, R, C], hspace h ≠ 3
    let ea := (s.sreg b).toNat
    let answer : Prop := ea % 8 = 0 ∧ ea < 2 ^ 21 ∧ ea + 8 ≤ s.spadb
    let grp := s.group (BitVec.ofNat 12 ((s.sreg a).toNat / 2 ^ 32))
    (sound [D, S] → fits → enters s .cpy D S 0 0 rm sat outer comp true .run (.cpy g cl t hd hs rm sat outer comp)) ∧
    (sound [D, S] → fits → s.core.engineBusy = false →
      enters s .cpyp D S 0 0 rm sat outer comp false .run (.cpyp g cl t hd hs rm sat outer comp)) ∧
    (sound [D, S] → fits → enters s .chst D S 0 0 rm sat outer comp true .run (.chst g cl t hd hs rm sat outer comp)) ∧
    (sound [S] → isBytes S = false → hget S .ex0 ≤ 128 →
      enters s (.cpya f gs) S S 0 0 .rne false outer false false .run (.cpya g cl t f hs gs outer)) ∧
    (sound [S] → isBytes S = false → hget S .ex0 ≤ 128 → hget S .ex1 ≤ 128 →
      enters s (.cpyb f gs) S S 0 0 .rne false outer false false .run (.cpyb g cl t f hs gs outer)) ∧
    (sound [D] → hspace D ≠ 3 →
      enters s (.cfil (s.sreg a)) D D 0 0 .rne false outer false false .run (.cfil g cl t hd a outer)) ∧
    (sound [D, S] → sameShape D S = true → (add = true → isBytes D = false) → hspace D = 1 → hspace S = 1 → (∃ k l p, s.curTask = some k ∧ s.leafOf k = some l ∧ l.together = true ∧
        s.peerTask (s.sreg a) = some p ∧ s.core.task ≠ some p.id) →
      enters s.breakPhase (.cred (s.sreg a) (s.sreg b) add) D S 0 0 .rne false false false false .slot
        (.cred g cl t hd hs a b add)) ∧
    (sound [D, S, R, C] → feeds →
      enters s.breakPhase (.cres gs) D S R C .rne false false false false .run (.cres g cl t hd hs hr hc gs)) ∧
    (sound [S] → (s.sreg a).toNat < 2 ^ 44 → grp.v = true → grp.mem = true →
        (s.sreg a).toNat % 2 ^ 32 + (hcount S * hwidth S + 7) / 8 ≤ 64 * grp.wlen.toNat →
      enters (s.breakPhase.mc (fun c => { c with nextAcc := c.nextAcc + 1 })) (.cmcs (s.sreg a)) S S 0 0 .rne false false false false .run (.cmcs g cl t hs a)) ∧
    (sound [D, S] → hspace D = 3 → hspace S < 2 → (if isBytes S then hcount S = hrows D * rowStore D
        else sameShape D S = true) →
      enters s.breakPhase .cwld D S 0 0 .rne false outer false false .run (.cwld g cl t hd hs outer)) ∧
    (answer → enters s.breakPhase (.cmig (s.sreg a) (s.sreg b) far gran) 0 0 0 0 .rne false false false false .run
      (.cmig g cl t a b far gran)) ∧
    (answer → enters s.breakPhase (.crly (s.sreg a) (s.sreg b) gran) 0 0 0 0 .rne false false false false .run
      (.crly g cl t a b gran))

/-- R142, R143: which precision control words are legal for a command, and for MWLD (R289).

R276, R278, R288, R290: MCFG, MPCW and CNEST put the shadow registers' new contents in flight for the next cycle; MSTAT
queues 32 bytes for the local port: the state of the two slots and of the standby block, and the next leaf of the active
command.

Where the spec leaves a point open the statement rests on the model's reading: log 145. -/
def Obligations.EngineWordsAndStatus : Prop :=
  (∀ (load : Bool) (p : Word),
    let f (lo w : Nat) : Nat := p.toNat / 2 ^ lo % 2 ^ w
    let af := f 0 5
    let bf := f 5 5
    let inSet (x : Nat) : Prop := x = 1 ∨ (3 ≤ x ∧ x ≤ 12) ∨ x = 15
    let int (x : Nat) : Prop := x = 12 ∨ x = 15
    let had := p.getLsbD 29 = true
    pcwOk load p = true ↔ f 31 33 = 0 ∧ inSet af ∧ (inSet bf ∨ (had ∧ load = false)) ∧ f 26 2 ≠ 3 ∧
      (p.getLsbD 30 = true → af = 1) ∧ (¬ had → (int af ↔ int bf)) ∧ (p.getLsbD 28 = true → int af)) ∧
  (∀ (s : State) (g : PReg) (n : BitVec 4) (a c ds dd : SReg) (l5 : Bool), Ready s → s.preg g = true →
    let lands (slot : Nat) (d : Dest) (i : Instr) : Prop := exec i s = .next (s.mc (fun c =>
      { c with flight := c.flight ++ [⟨s.pcyc + 1, slot, d, 0, c.ctl.curPc, c.ctl.btag⟩] }))
    let ea := (s.sreg a).toNat
    let running (m : MCmd) : Prop := ∀ t, m.stage ≠ .done t
    let e := s.core.eng
    lands 3 (.mn n (s.sreg a)) (.mcfg g n a) ∧ lands 3 (.pcw n (s.sreg a)) (.mpcw g n a) ∧
    lands 7 (.nest l5 ((s.sreg c).extractLsb' 0 16) (s.sreg ds) (s.sreg dd)) (.cnest g l5 c ds dd) ∧
    (ea % 32 = 0 → ea < 2 ^ 21 → ea + 32 ≤ s.spadb → s.core.curd.plain (ea / 4096) = true → ∃ bs : List Byte,
      bs.length = 32 ∧
      exec (.mstat g a) s = .next (s.pushPort .m none [(s.pcyc + 1, .st false (placed ea bs))]) ∧
      (∀ m, e.act = some m → running m → ∃ x0 x1 : Nat,
        leNat bs = 1 + (if e.pend.isSome then 2 else 0) + (if e.standbyLoaded then 4 else 0) + 2 ^ 64 * x0 + 2 ^ 128 * x1 ∧
        ((∀ l < 6, m.xAt l < 2 ^ 16) → m.dcur < 2 ^ 24 → x0 = m.xAt 0 + 2 ^ 16 * m.xAt 1 + 2 ^ 32 * m.xAt 2 + 2 ^ 48 * m.xAt 3 ∧
          x1 = m.xAt 4 + 2 ^ 16 * m.xAt 5 + (if 0 < m.taken ∧ m.taken = m.ldws then 2 ^ 32 else 0) + 2 ^ 40 * m.dcur)) ∧
      ((e.act = none ∨ ∃ m t, e.act = some m ∧ m.stage = .done t) →
        leNat bs = (if e.pend.isSome then 2 else 0) + if e.standbyLoaded then 4 else 0)))

/-- R151, R190, R142 to R154, R163, R289, R463: the matrix commands complete by entering the engine with all they capture at
issue: the active slot when it is empty or its command completed in an earlier cycle, with the active weight block zeroed
(R155), and the pending slot otherwise. Their token counts one more and the command index goes up by one. They do so when a
slot is free, the token is below 255, and their words and press destination are legal. A phase that reads a row which it has
not written is no longer restartable (R301, R408); that is the only other change.

Where the spec leaves a point open the statement rests on the model's reading: logs 21, 41 and 46. -/
def Obligations.MatrixCommandsIssue : Prop :=
  ∀ (s : State) (g : PReg) (row0 : Row) (m1 k1 n1 c1 : BitVec 7) (c8 psh : BitVec 8) (drn i32 : Bool) (hd : HReg) (t : Tok)
    (pcw : BitVec 4) (rm : RMode), Ready s → s.preg g = true →
    let e := s.core.eng
    let now := s.pcyc
    let start (m : MCmd) : MCmd :=
      if m.kind = .drn then { m with last := now, stage := .drained,
                                     reads := (List.range (m.count 0)).map (fun i => (m.rowAt i, now + 1 + 2 * i)) }
      else { m with last := now }
    let put (m : MCmd) (f : Engines → Engines) : Host.Outcome State Fault Refusal := .next ((s.judgeRows m).mc (fun c => { c with
      eng := f { e with nextCmd := e.nextCmd + 1, cidx := e.cidx + 1,
                        tokens := e.tokens.set m.tok.toNat (e.tokens[m.tok.toNat]'(m.tok.isLt) + 1) m.tok.isLt } }))
    let active (m : MCmd) (p : Option MCmd) (e : Engines) : Engines :=
      { e with act := some (start m), pend := p, blk := Block.zero, blkAt := now }
    let enters (m : MCmd) (i : Instr) : Prop :=
      let m := { m with id := e.nextCmd, cidx := e.cidx + 1 }
      (∀ a ∈ e.act, a.over now = true) → e.pend = none → exec i s = put m (active m none)
    let follows (m : MCmd) (i : Instr) : Prop :=
      let m := { m with id := e.nextCmd, cidx := e.cidx + 1 }
      ∀ a, e.act = some a →
        (a.over now = false → e.pend = none → exec i s = put m (fun e => { e with pend := some m })) ∧
        (∀ p, a.over now = true → e.pend = some p → p.stage = .idle → exec i s = put m (active p (some m)))
    let unread (l : List Row) : Prop := ∃ p, s.core.phase = some p ∧ p.restartable = true ∧
      ∃ r ∈ l, r ∉ (([e.act, e.pend].filterMap id).filter (fun x => decide (p.firstCmd ≤ x.id))).foldl
        (fun w x => (x.rowUse w).2) p.written
    let takes (tok : Tok) (i : Instr) (ok : MCmd → Prop) : Prop := e.tokens[tok.toNat]'(tok.isLt) ≠ 255 → ∃ m : MCmd,
      enters m i ∧ follows m i ∧ m.tok = tok ∧ m.stage = .idle ∧ m.reads = [] ∧ m.writes = [] ∧ m.fl = 0 ∧
        m.bank = s.core.curd.bank ∧ m.xl = s.core.sys.xlat ∧ m.pc = s.core.ctl.curPc ∧ m.btag = s.core.ctl.btag ∧ ok m
    let press (h : Handle) (dcur rows : Nat) : Prop := handleFault h = none ∧ (hget h .space = 1 ∨ hget h .space = 2) ∧
      hget h .ex0 ≤ 128 ∧ (hscaled h = true → hget h .ex0 % hgroup h = 0 ∧ hget h .off % hgroup h = 0) ∧
      isBytes h = false ∧ dcur + rows ≤ hget h .ex1 * hget h .ex2 * hget h .ex3
    let mn (i lo w : Nat) : Nat := (e.mn.getD i 0).toNat / 2 ^ lo % 2 ^ w
    let on (l b : Nat) : Prop := mn l b 1 = 1
    let word (i : Nat) : Word := e.pcw.getD i 0
    let any (b : Nat) : Prop := ∃ l ∈ [1, 2, 3, 4, 5], on l b
    let levels (m : MCmd) (counts steps : List Nat) : Prop := ∀ l < 6, m.count l = counts.getD l 1 ∧ m.astep l = steps.getD l 0
    let zero : Vector Nat 6 := Vector.replicate 6 0
    (pcwOk false (word (mn 8 16 4)) = true → (any 36 → pcwOk false (word (mn 8 20 4)) = true ∧ (word (mn 8 20 4)).getLsbD 30) →
      (∀ l < 6, mn l 25 7 = 0 ∧ mn l 37 27 = 0) → (∀ b ∈ [32, 33, 35, 36], ¬ on 0 b) → (∀ l ∈ [1, 2, 3, 4, 5], ¬ on l 34) →
      mn 0 0 16 ≤ 128 → mn 7 33 7 = 0 → mn 8 52 12 = 0 → mn 8 35 1 = 0 → mn 8 15 1 = 0 → mn 8 7 1 = 0 →
      (any 35 → press (s.hreg (BitVec.ofNat 5 (mn 8 28 5))) (mn 7 40 24) s.goCmd.rowsToDrain) →
      takes (BitVec.ofNat 4 (mn 8 24 4)) (.mgo g) (fun m => m.kind = .go ∧ m.mn = e.mn ∧ m.pa = word (mn 8 16 4) ∧
        m.pb = word (mn 8 20 4) ∧ m.hd = s.hreg (BitVec.ofNat 5 (mn 8 28 5)) ∧ m.dcur = mn 7 40 24 ∧
        m.x = #v[mn 6 0 16, mn 6 16 16, mn 6 32 16, mn 6 48 16, mn 7 0 16, mn 7 16 16] ∧
        m.taken = (if on 7 32 then m.ldws else 0) ∧ m.i32 = m.pcw.getLsbD 28)) ∧
    ((drn = true → press (s.hreg hd) 0 (m1.toNat + 1)) → takes t (.mhad g row0 m1 drn hd t rm psh) (fun m =>
      m.kind = .had ∧ m.hd = s.hreg hd ∧ m.x = zero ∧ m.taken = 0 ∧ m.dcur = 0 ∧ m.i32 = false ∧ m.k = 128 ∧ m.n = 128 ∧
      levels m [m1.toNat + 1] [1] ∧ (∀ b ∈ [32, 33, 35, 36], m.levels b = if b = 36 ∨ b = 33 ∨ (b = 35 ∧ drn) then [1] else []) ∧
      m.bit 0 34 = true ∧ m.rowAt 0 = row0 ∧ m.pcw = 0x60000001 ∧ m.fld 8 36 8 = psh.toNat ∧
      m.fld 8 33 2 = ([RMode.rne, .rz, .rdn, .rup].idxOf rm))) ∧
    (pcwOk true (word pcw.toNat) = true → takes t (.mwld g pcw k1 n1 t) (fun m => s.judgeRows m = s ∧
      m.kind = .wld ∧ m.pa = word pcw.toNat ∧ m.k = k1.toNat + 1 ∧ m.n = n1.toNat + 1)) ∧
    (press (s.hreg hd) 0 (c1.toNat + 1) → takes t (.mdrn g row0 c1 hd t rm psh i32) (fun m =>
      m.kind = .drn ∧ m.hd = s.hreg hd ∧ m.dcur = 0 ∧ m.i32 = i32 ∧ m.count 0 = c1.toNat + 1 ∧
      (let rows := (List.range (c1.toNat + 1)).map (fun i => row0 + BitVec.ofNat 8 i)
       (unread rows → s.judgeRows m = s.breakPhase) ∧ (¬ unread rows → s.judgeRows m = s)) ∧
      (∀ i, m.rowAt i = row0 + BitVec.ofNat 8 i) ∧ m.fld 8 36 8 = psh.toNat ∧
      m.fld 8 33 2 = ([RMode.rne, .rz, .rdn, .rup].idxOf rm))) ∧
    takes t (.mzero g row0 c8 t) (fun m => m.kind = .zero ∧ s.judgeRows m = s ∧
      m.rows = (List.range (c8.toNat + 1)).map (fun i => row0 + BitVec.ofNat 8 i)) ∧
    takes t (.mswap g t) (fun m => m.kind = .swap ∧ s.judgeRows m = s) ∧
    ∀ m : MCmd, s.judgeRows m = s ∨ s.judgeRows m = s.breakPhase

/-! ### The Y slot -/

/-- R293 to R295, R197: a taken BR, BRC, CALL or RET sets the next PC, whose bundle is a group mark and issues no earlier
than two cycles on; a level of the loop nest whose body the target lies outside becomes inactive with those inside it, except
in trap mode. CALL puts PC + 64 in flight for its link. A BRC whose predicate does not choose it does nothing. -/
def Obligations.ControlTransfers : Prop :=
  ∀ (s : State) (g q : PReg) (n : Bool) (l a : SReg) (d : BitVec 24), Ready s → s.preg g = true →
    let L := s.core.loops
    let k := s.core.ctl
    let disp : Word := k.curPc + d.signExtend 64 * 64
    let reg : Word := s.sreg a
    let code : Prop := reg.toNat % 64 = 0 ∧ reg.toNat < 2 ^ 48
    let left (tgt : Word) (i : Nat) : Prop := ∃ j, i ≤ j ∧ j < 3 ∧ (L.at j).active = true ∧
      ¬ ((L.at j).start.toNat ≤ tgt.toNat ∧ tgt.toNat < (L.at j).start.toNat + 64 * (L.at j).len)
    let goes (s' : State) (tgt : Word) (i : Instr) : Prop := ∃ l : Loops, exec i s = .next (s'.mc (fun c =>
        { c with loops := l, ctl := { k with npc := some tgt, mark := true, ready := max k.ready (s.pcyc + 2) } })) ∧
      l.buf = L.buf ∧ l.le = L.le ∧
      ∀ i < 3, (left tgt i → k.trap = false → l.at i = { L.at i with active := false, lc := 0, desc := none }) ∧
        (¬ left tgt i ∨ k.trap = true → l.at i = L.at i)
    goes s disp (.br g (.disp d)) ∧ (code → goes s reg (.br g (.reg a))) ∧
    (s.preg q ≠ n → goes s disp (.brc g q n d)) ∧ (s.preg q = n → exec (.brc g q n d) s = .next s) ∧
    goes (s.landS 1 .y l (k.curPc + 64)) disp (.call g l (.disp d)) ∧
    (code → goes (s.landS 1 .y l (k.curPc + 64)) reg (.call g l (.reg a))) ∧ (code → goes s reg (.ret g a))

/-- R192, R193, R195, R196, R296: LOOP and LOOPR begin a level that is not active: its counter holds the count, for LOOPR the
count and the drain, its body starts after the bundle or its descriptor, and the next PC is the body; LOOPR also puts p8 true
and p9 to p15 false in flight. A count of 0 skips the body. The registers of other levels stay.

R183, R194 to R196: at a bundle with LE bits, from level 0 up, a named active level whose counter is 1 or less ends, and
the first with more than 1 loops back: its counter goes down by one, the next PC is its start, and the deltas of its
descriptor and, for LOOPR, the rotation are put in flight for the next cycle. Levels beyond it do nothing, and the LE bits
are spent. R188, R189, R310: a group mark empties the latches, starts the count again and lets a recorded dictionary flip take
effect.

Where the spec leaves a point open the statement rests on the model's reading: logs 17 and 19. -/
def Obligations.LoopsBeginAndEnd : Prop :=
  (∀ (s : State) (g : PReg) (lvl : BitVec 2) (d : Option Line) (o : Option (BitVec 2 × Dpa))
    (len1 : BitVec 8) (drain : BitVec 3) (cnt : LoopCount), Ready s → s.preg g = true →
    let L := s.core.loops
    let sound (w : Line) : Prop := ∀ i < 8, (w.extractLsb' (64 * i) 21) = 0 ∧ (w.extractLsb' (64 * i + 30) 2) ≠ 3 ∧
      (w.extractLsb' (64 * i + 21) 3).toNat ≤ 2
    let read : State := match d, o with
      | some w, some o => if s.core.ctl.pass = .go then s else s.fetched (s.core.ctl.curPc + 64).toNat (.line w (some o))
      | _, _ => s
    (∀ w ∈ d, s.descLine true = some (.line w o) ∧ sound w) → lvl ≠ 3 → (L.at lvl.toNat).active = false → L.le = 0 →
    (s.core.ctl.trap = false ∨ L.any = false) → (L.any = false → len1.toNat + 1 + (if d.isSome then 1 else 0) ≤ 256) →
    let n := match cnt with
      | .imm v => v.toNat
      | .reg r => (s.sreg r).toNat % 2 ^ 32
    let len := len1.toNat + 1
    let start : Word := s.core.ctl.curPc + if d.isSome then 128 else 64
    let begins (s' : State → State) (extra : Nat) (isR : Bool) (i : Instr) : Prop :=
      (n = 0 → exec i s = .next (read.mc (fun c =>
        { c with ctl := { c.ctl with npc := some (start + BitVec.ofNat 64 (64 * len)) } }))) ∧
      (n ≠ 0 → ∃ l : Loops, exec i s = .next (s' (read.mc (fun c =>
          { c with loops := l, marks := c.marks.filter (fun x => decide (x ≠ .lc lvl.toNat)),
                   ctl := { c.ctl with npc := some start } }))) ∧ l.le = L.le ∧
        l.at lvl.toNat = ⟨true, BitVec.ofNat 32 (n + extra), n, 1, isR, start, len, d⟩ ∧
        (∀ j < 3, j ≠ lvl.toNat → l.at j = L.at j) ∧
        l.buf = (let b := if L.any then L else { L with buf := [] }
          match d with
          | some w => b.keep (s.core.ctl.curPc + 64) w
          | none => b).buf)
    begins id 0 false (.loop g lvl d.isSome len1 cnt) ∧
    (n + drain.toNat < 2 ^ 32 → begins (fun t => (List.range 8).foldl (fun t i =>
      t.landP 1 .y (BitVec.ofNat 4 (8 + i)) (decide (i = 0))) t) drain.toNat true (.loopr g lvl d.isSome len1 drain cnt))) ∧
  (∀ s : State,
    let L := s.core.loops
    let k := s.core.ctl
    let ends (j : Nat) : Prop := L.le.getLsbD j = true ∧ (L.at j).active = true
    let off (v : LoopLvl) : LoopLvl := { v with active := false, lc := 0, desc := none }
    let x (ord : Nat) (d : Dest) : Landing := ⟨s.pcyc + 1, ord, d, 0, k.curPc, k.btag⟩
    let deltas (w : Line) : List Landing := (List.range 8).filterMap (fun i =>
      let idx := (w.extractLsb' (64 * i + 24) 6)
      let v := (w.extractLsb' (64 * i + 32) 32).signExtend 64
      match (w.extractLsb' (64 * i + 30) 2).toNat with
      | 1 => some (x 9 (.deltaS idx v))
      | 2 =>
        let f := match (w.extractLsb' (64 * i + 21) 3).toNat with
          | 0 => hfieldAt .base
          | 1 => hfieldAt .side
          | _ => hfieldAt .off
        some (x 9 (.deltaH (BitVec.ofNat 5 idx.toNat) f.1 f.2 v))
      | _ => none)
    (∀ i < 3, ends i → 1 < (L.at i).lc.toNat → (∀ j < i, ends j → (L.at j).lc.toNat ≤ 1) → ∃ l : Loops,
      exec .loopEnd s = .next (s.mc (fun c => { c with
        loops := l, ctl := { k with npc := some (L.at i).start },
        flight := c.flight ++ ((L.at i).desc.map deltas).getD [] ++
          (if (L.at i).isR then [x 10 (.rotate (decide ((L.at i).begun + 1 ≤ (L.at i).n)))] else []) })) ∧
      l.le = 0 ∧ l.buf = L.buf ∧ l.at i = { L.at i with lc := (L.at i).lc - 1, begun := (L.at i).begun + 1 } ∧
      (∀ j < 3, i < j → l.at j = L.at j) ∧ ∀ j < i, (ends j → l.at j = off (L.at j)) ∧ (¬ ends j → l.at j = L.at j)) ∧
    ((∀ i < 3, ends i → (L.at i).lc.toNat ≤ 1) → ∃ l : Loops, exec .loopEnd s = .next (s.mc (fun c => { c with loops := l })) ∧
      l.le = 0 ∧ l.buf = L.buf ∧ ∀ j < 3, (ends j → l.at j = off (L.at j)) ∧ (¬ ends j → l.at j = L.at j)) ∧
    (k.g = true → exec .groupMark s = .next (s.mc (fun c => { c with
      regs := { c.regs with b := Vector.replicate 8 none },
      ctl := { k with mark := false, since := 0, g := false, latchEpoch := k.latchEpoch + 1 },
      curd := { c.curd with bank := c.curd.bank != c.curd.flip, flip := false },
      csBank := c.csBank != c.csPending, csPending := false }))))

/-- R292, R297 to R302, R308 to R316: the Y operations that wait complete by stopping issue after their bundle until what they
name comes: WAITE, BSP, FENCE, PUBLISH, SWAPB, PROBE, SPAWN, END, DICTLD, a QPT that yields, and in ASID 0 INVAL, WCSLD and
HALT. A BSP counts in its scope; a SPAWN names a root RCB of the heap that takes no group from its parent that it must not;
DICTLD queues the reads of its 1,024 bytes. An INVAL removes the entries it names from the TLB (R314).

Where the spec leaves a point open the statement rests on the model's reading: logs 30 and 31. -/
def Obligations.WaitingOperations : Prop :=
  ∀ (s : State) (g p : PReg) (m : BitVec 16) (sc : BScope) (fs : FScope) (h : HReg) (a b d : SReg) (rs flip : Bool)
    (kind : AKind) (ik : InvKind), Ready s → s.preg g = true →
    let x := s.core.sys.xlat
    let phys (r : SReg) : SReg := if r = 0 then 0 else rotS s.core.sys r
    let waits (s' : State) (w : Wait) (i : Instr) : Prop :=
      exec i s = .next (s'.mc (fun c => { c with ctl := { c.ctl with wait := some w } }))
    let va := (s.sreg a).toNat
    let n := (s.sreg b).toNat
    let asked (s' : State) : State := if p = 0 then s' else s'.land 1 .y (.p (rotP s.core.sys p) s.core.preempt.isSome) 0
    waits s (.waite m) (.waite g m) ∧ waits s (.fence m fs) (.fence g m fs) ∧ waits s (.publish m) (.publish g m) ∧
    ((flip = true → handleFault (s.hreg h) = none) → waits s (.swapb m h (phys a) rs flip) (.swapb g m h a rs flip)) ∧
    ((∃ k, s.curTask = some k ∧ s.bspTasks k sc ≠ []) → waits (s.mc (fun c => { c with
        bsps := c.bsps.setIfInBounds (scopeIx sc) (c.bsps.getD (scopeIx sc) 0 + 1) })) (.bsp sc) (.bsp g sc)) ∧
    (s.core.engineBusy = false → waits s (.probe va n kind false) (.probe g a b kind)) ∧
    (∀ k r pa gr ap rap, s.curTask = some k → s.leafOf k = some r → r.depth < 8 → va % 256 = 0 → va < 2 ^ 48 →
      x.heapbase.toNat ≤ va → va < x.heapbase.toNat + x.heaplim.toNat → s.translate x va .rd = .ok pa gr ap rap →
      (∀ j ∈ [1, 4, 5], (s.rcbNat gr pa.toNat 4 4).testBit j = false) →
      waits s.breakPhase (.spawn pa.toNat) (.spawn g a)) ∧
    waits s .endT (.endTask g) ∧
    (va % 1024 = 0 → va + 1024 ≤ s.spadb → exec (.dictld g a) s = .next (((s.mc (fun c =>
        { c with curd := { c.curd with load := [] } })).pushPort .y none [(s.pcyc + 1, .dictld (!s.core.curd.bank) va),
          (s.pcyc + 2, .dictld (!s.core.curd.bank) (va + 512))]).mc (fun c =>
        { c with ctl := { c.ctl with wait := some (.dictld (!s.core.curd.bank)) } }))) ∧
    exec (.qpt g p none) s = .next (asked s) ∧
    (s.core.preempt = none → exec (.qpt g p (some a)) s = .next (asked s)) ∧
    (s.core.preempt ≠ none → waits ((asked s).mc (fun c =>
        { c with yieldF := some (min ((va + 4095) / 4096 * 4096) s.spadb) }))
      (.qpt (if p = 0 then 0 else rotP s.core.sys p)) (.qpt g p (some a))) ∧
    (s.core.sys.asid = 0 → waits { s with tlb := s.tlb.filter (fun t => !t.named ik va ((s.sreg b).extractLsb' 0 13)) }
      (.inval s.ns s.pcyc ik va ((s.sreg b).extractLsb' 0 13)) (.inval g a b ik)) ∧
    (s.core.sys.asid = 0 → n % 64 = 0 → n ≠ 0 → n ≤ 65536 → waits s (.wcsld (phys d) (s.sreg a) (s.sreg b)) (.wcsld g d a b)) ∧
    (s.core.sys.asid = 0 → waits s .halt (.halt g))

/-- R175, R268, R303, R306, R307, R310, R311: NOP, LDQ, LDW.RPL, CKTS, CKTV, SETRPL, ENQ, DICTSW and RDTIME.

R304, R305, R266: a TRAP with a handler, outside trap and replay mode, puts its code in flight, saves PC + 64, sets trap
mode and goes to TRAPADDR; ERET leaves replay mode for the recorded bundle, and trap mode for the saved PC. -/
def Obligations.SmallYOperations : Prop :=
  (∀ (s : State) (g : PReg) (slot : Slot) (a b c d e : SReg) (x y : Row) (b1 : BitVec 4) (k : KReg) (n : BitVec 4)
    (disp : BitVec 24) (three : Bool), Ready s → s.preg g = true →
    let code (v : Word) : Prop := v.toNat % 64 = 0 ∧ v.toNat < 2 ^ 48
    let lands (v : Word) (i : Instr) : Prop := exec i s = .next (s.mc (fun c =>
      { c with flight := c.flight ++ [⟨s.pcyc + 1, 8, .sys .rpladdr v, 0, c.ctl.curPc, c.ctl.btag⟩] }))
    let ea := (s.sreg a).toNat
    exec (.nop slot) s = .next s ∧
    (∃ v : Word, exec (.ldq g d none) s = .next (s.landS 1 .l d v) ∧ v.toNat < 2 ^ 32 ∧ ∀ i : Fin 16,
      (v.getLsbD i.val = true ↔ ∃ t, s.core.track[i.val] = some t ∧ t.late = true ∧ t.drop = false ∧ t.reg ≠ 0) ∧
      (v.getLsbD (16 + i.val) = true ↔ ∃ t, s.core.track[i.val] = some t ∧ t.reply ≠ none)) ∧
    (s.core.track[n.toNat]'(n.isLt) = none → exec (.ldq g d (some n)) s = .next (s.landS 1 .l d 0)) ∧
    (∀ t, s.core.track[n.toNat]'(n.isLt) = some t → exec (.ldq g d (some n)) s = .next (s.landS 1 .l d
      (BitVec.ofNat 64 (t.reg.toNat + 2 ^ 8 * t.opc.toNat + 2 ^ 12 * t.cls.toNat +
        2 ^ 16 * (match t.reply with
          | some r => r.1.toNat
          | none => 0))))) ∧
    exec (.ldwRpl g) s = .next (s.mc (fun c => { c with ctl := { c.ctl with wait := some .rpl } })) ∧
    (s.sreg a = s.sreg b → (three = true → s.sreg a = s.sreg c) → exec (.ckts g a b c three) s = .next s) ∧
    (x.toNat + b1.toNat ≤ 255 → y.toNat + b1.toNat ≤ 255 → (∀ j ≤ b1.toNat, ∀ i < 128, (s.kreg k).getLsbD i = true →
        lane (s.arow (x + BitVec.ofNat 8 j)) i 32 = lane (s.arow (y + BitVec.ofNat 8 j)) i 32) →
      exec (.cktv g x y b1 k) s = .next (noted s 0 b1 [.row x, .row y])) ∧
    (code (s.sreg a) → lands (s.sreg a) (.setrpl g (.reg a))) ∧
    (code (s.core.ctl.curPc + disp.signExtend 64 * 64) →
      lands (s.core.ctl.curPc + disp.signExtend 64 * 64) (.setrpl g (.disp disp))) ∧
    (∀ t task r, s.core.task = some t → s.curTask = some task → s.leafOf task = some r → r.outq ≠ 0 → task.outLeft ≠ 0 →
      ea % 64 = 0 → ea < 2 ^ 21 → ea + 64 ≤ s.spadb → exec (.enq g a) s = .next ((s.breakPhase.modTask t (fun x =>
        { x with outLeft := x.outLeft - 1 })).pushPort .y none [(s.pcyc + 1, .enq ea)])) ∧
    exec (.dictsw g) s = .next (s.mc (fun c => { c with curd := { c.curd with flip := !c.curd.flip } })) ∧
    exec (.rdtime g d e) s = .next ((s.landS 1 .y d (BitVec.ofNat 64 (s.dsub / 189))).landS 1 .y e (BitVec.ofNat 64 s.pcyc))) ∧
  (∀ (s : State) (g : PReg) (d : SReg) (code : BitVec 16), Ready s → s.preg g = true →
    let k := s.core.ctl
    (s.core.sys.trapaddr ≠ 0 → k.trap = false → k.replay = false → exec (.trap g d code) s =
      .next ((s.landS 1 .y d (code.zeroExtend 64)).mc (fun c => { c with ctl := { k with
        trap := true, trapRet := k.curPc + 64, npc := some s.core.sys.trapaddr, mark := true,
        ready := max k.ready (s.pcyc + 2) } }))) ∧
    (k.trap = true → k.replay = false → exec (.eret g) s = .next (s.mc (fun c => { c with ctl := { k with
      trap := false, npc := some k.trapRet, mark := true, ready := max k.ready (s.pcyc + 2) } }))) ∧
    (k.pass = .go → k.replay = true → exec (.eret g) s = .next (s.mc (fun c => { c with ctl := { k with
      replay := false, npc := some k.replayRet } }))))

/-! ### Guards, faults and replay -/

/-- R175, R208, R226: a guarded-off operation completes with no effect: it only occupies its unit for its beats, a division
for its 18 cycles. -/
def Obligations.GuardedOffOnlyOccupies : Prop :=
  ∀ (s : State) (i : Instr) (g : PReg), Ready s → guardOf i = some g → s.preg g = false → exec i s = .next (occupied i s)

/-- R182, R183, R264, R265, R314, R317, R328: issuing an operation in a bundle changes no register, no memory and nothing outside
its core but an ENQ's count and the TLB entries that an INVAL removes: results wait in flight, accesses and commands in their
queues. The model's own count of free values apart. -/
def Obligations.IssueWritesNoRegisterOrByte : Prop :=
  ∀ (s t : State) (i : Instr) (g : PReg), s.core.ctl.pass = .go → (guardOf i = some g ∨ ∃ sl, i = .nop sl) →
    exec i s = .next t → SameStore s t ∧ ((∀ g a, i ≠ .enq g a) → t.hub = s.hub) ∧
      (∀ x ∈ t.tlb, x ∈ s.tlb) ∧ ((∀ g a b k, i ≠ .inval g a b k) → t.tlb = s.tlb)

/-- R175, R184, R264 to R266, R302 to R306, R313 to R316, R400, R431, R454 to R456, R460 to R464: what an operation that stands
alone with nothing in its way raises when a check of its own fails, with the code, the DETAIL and the slot of the record: an
address not aligned (OPERAND 1) or outside its space (OPERAND 2), a control address that is none (OPERAND 3), an illegal PCW
(OPERAND 4), a row run past a255 (OPERAND 7), an ERET outside both modes (OPERAND 10), a PROBE over commands (OPERAND 12), an
address without a leaf (TRANS) or without the right (PERM), a busy unit (SCHEDULE 1), full engine slots (SCHEDULE 2), a full
token (SCHEDULE 6), an unsound handle (HANDLE), a level in use (LOOP 1), a privileged operation outside ASID 0 (PRIVILEGE), a
trap without handler (USER_TRAP) and runs that differ (CHECK).

R265, R266, R399: an operation that stands alone and reads a late load's register enters replay: the routine at RPLADDR
issues in the next cycle and the bundle's PC is recorded, or with RPLADDR = 0 the bundle is held; in replay mode it is the
fault REPLAY. An operation that reads a register with a parity error, and no late register, is the fault PARITY, whose machine
check names that register.

Where the spec leaves a point open the statement rests on the model's reading: logs 14, 26 and 33. -/
def Obligations.FailingChecks : Prop :=
  (∀ (s : State) (g : PReg) (cl : Cls) (d a b c src : SReg) (sz : MSize) (sx : Bool) (d32 : BitVec 32) (d24 : BitVec 24)
    (lat : BitVec 8) (code : BitVec 16) (ik : InvKind) (h hs : HReg) (t : Tok) (rm : RMode) (sat outer comp : Bool)
    (pcw : BitVec 4) (k1 n1 : BitVec 7) (r : Row) (b1 : BitVec 4) (w : LaneW) (k : KReg) (d29 : BitVec 29) (kd : AKind),
    s.core.ctl.pass = .alone → s.preg g = true →
    let fails (slot : Nat) (code detail : BitVec 16) (i : Instr) : Prop := exec i s = .next (s.takeFault slot code detail)
    -- the same, once table entries have been read
    let walks (e slot : Nat) (code detail : BitVec 16) (i : Instr) : Prop :=
      exec i s = .next ((s.walked s.core.sys.xlat e).takeFault slot code detail)
    let ea {n : Nat} (v : BitVec n) : Nat := (s.sreg a + v.signExtend 64).toNat
    let n := sizeN sz
    let bad (v : Word) : Prop := v.toNat % 64 ≠ 0 ∨ 2 ^ 48 ≤ v.toNat
    ((s.core.sys.trapaddr = 0 ∨ s.core.ctl.trap = true ∨ s.core.ctl.replay = true) → fails 8 0x0208 code (.trap g d code)) ∧
    (s.core.sys.asid ≠ 0 → fails 8 0x0207 25 (.inval g a b ik) ∧ fails 8 0x0207 26 (.wcsld g d a b) ∧
      fails 8 0x0207 27 (.halt g)) ∧
    (s.pcyc < s.core.ctl.busyS → fails 0 0x0205 1 (.and g d a b)) ∧
    (s.core.eng.tokens[t.toNat]'(t.isLt) = 255 → fails 7 0x0205 6 (.cpy g cl t h hs rm sat outer comp)) ∧
    (∀ x, s.core.eng.tokens[t.toNat]'(t.isLt) ≠ 255 → handleFault (s.hreg h) = some x →
      fails 7 0x0203 (BitVec.ofNat 16 (32 * x + h.toNat)) (.cpy g cl t h hs rm sat outer comp)) ∧
    (∀ m p, s.core.eng.act = some m → m.over s.pcyc = false → s.core.eng.pend = some p → fails 3 0x0205 2 (.mswap g t)) ∧
    (∀ l : BitVec 2, (s.core.loops.at l.toNat).active = true →
      fails 8 0x0206 1 (.loop g l false 0 (.imm code))) ∧
    (Free s →
      (255 < r.toNat + b1.toNat → fails 5 0x0204 7 (.vld g cl r a b1 w k d29)) ∧
      (s.core.ctl.trap = false → fails 8 0x0204 10 (.eret g)) ∧
      (bad (s.sreg a) → fails 8 0x0204 3 (.br g (.reg a)) ∧ fails 8 0x0204 3 (.call g d (.reg a)) ∧ fails 8 0x0204 3 (.ret g a) ∧
        fails 8 0x0204 3 (.setrpl g (.reg a))) ∧
      (s.sreg a ≠ s.sreg b → fails 8 0x0301 0 (.ckts g a b c false)) ∧
      (s.core.engineBusy = true → fails 8 0x0204 12 (.probe g a b kd)) ∧
      (s.core.eng.pend = none → s.core.eng.tokens[t.toNat]'(t.isLt) ≠ 255 → pcwOk true (s.core.eng.pcw[pcw.toNat]'(pcw.isLt)) = false →
        fails 3 0x0204 4 (.mwld g pcw k1 n1 t)) ∧
      (ea d32 % n ≠ 0 → fails 5 0x0204 1 (.lds g cl d a sz sx false d32) ∧ fails 5 0x0204 1 (.ldw g cl d a sz sx true d32)) ∧
      (ea d24 % n ≠ 0 → fails 6 0x0204 1 (.sts g cl src a sz .loc d24) ∧ fails 6 0x0204 1 (.stm g cl src a sz true d24)) ∧
      (ea d32 % n = 0 → (2 ^ 21 ≤ ea d32 ∨ s.spadb < ea d32 + n) → fails 5 0x0204 2 (.lds g cl d a sz sx false d32)) ∧
      (ea d24 % n = 0 → (2 ^ 21 ≤ ea d24 ∨ s.spadb < ea d24 + n) → fails 6 0x0204 2 (.sts g cl src a sz .loc d24)) ∧
      (ea d24 % n = 0 → s.translate s.core.sys.xlat (ea d24) .wr = .noLeaf → walks (ea d24) 6 0x0101 1 (.stm g cl src a sz false d24)) ∧
      (ea d24 % n = 0 → s.translate s.core.sys.xlat (ea d24) .wr = .perm → walks (ea d24) 6 0x0102 1 (.stm g cl src a sz false d24)) ∧
      (ea d24 % n = 0 → s.translate s.core.sys.xlat (ea d24) .rd = .noLeaf → walks (ea d24) 5 0x0101 0 (.ldm g cl d a sz sx false d24 lat)) ∧
      (ea d24 % n = 0 → s.translate s.core.sys.xlat (ea d24) .rd = .perm → walks (ea d24) 5 0x0102 0 (.ldm g cl d a sz sx false d24 lat)))) ∧
  (∀ (s : State) (d a b : SReg), s.core.ctl.pass = .alone → s.core.ctl.busyS ≤ s.pcyc →
    let k := s.core.ctl
    let pa := rotS s.core.sys a
    let pb := rotS s.core.sys b
    let i : Instr := .add 0 .wrap d a b
    (s.core.poison.getLsbD pa.toNat = true →
      (k.replay = true → exec i s = .next (s.takeFault 0 0x0209 0)) ∧
      (k.replay = false → s.core.sys.rpladdr ≠ 0 → exec i s = .next (s.mc (fun c => { c with ctl := { k with
        replay := true, replayRet := k.curPc, pc := s.core.sys.rpladdr, npc := none, ready := s.pcyc + 1, found := [] } }))) ∧
      (k.replay = false → s.core.sys.rpladdr = 0 → ∃ l : List SReg, (∀ r, r ∈ l ↔ (r = pa ∨ r = pb) ∧
          s.core.poison.getLsbD r.toNat = true) ∧
        exec i s = .next (s.mc (fun c => { c with ctl := { k with wait := some (.hold l), found := [] } })))) ∧
    (s.core.poison.getLsbD pa.toNat = false → s.core.poison.getLsbD pb.toNat = false →
      (Mark.s pa ∈ s.core.marks ∨ Mark.s pb ∈ s.core.marks) → ∃ r : SReg, (r = pa ∨ r = pb) ∧ Mark.s r ∈ s.core.marks ∧
        exec i s = .next (s.takeFaults none
          [⟨0x0303, 0, 0, 0, 0, 0, 0, s.core.eng.cidx, k.curPc, k.btag, false, some ⟨none, r.toNat⟩⟩])))

/-- R398, R403, R411: a fault that no rollback undoes kills the task: its core holds no task and issues nothing, its engines'
commands, unpublished writes, results in flight and loads are gone, its stores and what it has published stay to perform, and the task is Killed with
status 0x80, its fault counted and its first code kept.

R398, R408 to R410: an uncorrectable error, a failed check, a parity error or a residue mismatch in a restartable phase that
has not been rolled back restores the snapshot of its SWAPB: the registers but the rows, the PCWs, loops, rotation and trap
state, the PC; latches, poison marks, results in flight and replay mode are gone, but the flags of a command that has completed are set
(R139); commands of the phase and their unpublished
writes are discarded, those carried into it stay; the input commands are queued again; a second condition does not roll back. -/
def Obligations.FaultsKillOrRollBack : Prop :=
  (∀ (s : State) (slot : Nat) (code detail : BitVec 16) (tid : Nat) (t : Task), s.core.task = some tid → s.task? tid = some t →
    t.core = s.cur → t.st = .running → (rollable code = false ∨ s.core.canRoll none = false) →
    let u := s.takeFault slot code detail
    u.core.mode = .free ∧ u.core.task = none ∧ u.core.flight = [] ∧ u.core.poison = 0 ∧ u.core.phase = none ∧
    u.core.eng.cq = [] ∧ u.core.eng.act = none ∧ u.core.eng.pend = none ∧ u.core.eng.shadow = [] ∧
    (∀ e ∈ u.core.port, ∃ side bs, e.op = .st side bs) ∧ (∀ a ∈ u.core.pend, a.op.isLoad = false) ∧
    (∀ a ∈ s.core.pend, (match a.op with
      | .store _ | .mst .. | .published .. => True
      | _ => False) → a ∈ u.core.pend) ∧
    u.core.regs = s.core.regs ∧ u.core.spad = s.core.spad ∧ u.core.side = s.core.side ∧
    ∃ t', u.task? tid = some t' ∧ t'.st = .killed ∧ t'.status = 0x80 ∧
      (s.leafOf t ≠ none → t'.fcount = t.fcount + 1 ∧ t'.fcode = if t.fcount = 0 then code else t.fcode)) ∧
  (∀ (s : State) (slot : Nat) (code detail : BitVec 16) (tid : Nat) (p : Phase), s.core.task = some tid →
    code ∈ [0x0103#16, 0x0301, 0x0302, 0x0303] → s.core.phase = some p → p.restartable = true → p.rolled = false →
    let u := s.takeFault slot code detail
    let c := u.core
    c.regs = { p.regs with a := s.core.regs.a, b := Vector.replicate 8 none } ∧ c.eng.pcw = p.pcw ∧ c.loops = p.loops ∧
    c.sys = { s.core.sys with rrbs := p.rrbs, rrba := p.rrba, rrbp := p.rrbp } ∧ c.ctl.pc = p.pc ∧ c.ctl.trap = p.trap ∧
    c.ctl.trapRet = p.trapRet ∧ c.ctl.replay = false ∧ c.ctl.mark = true ∧ c.poison = 0 ∧
    (∀ x, x ∈ c.flight ↔ x ∈ s.core.flight ∧ x.dest = .none ∧ x.ord = 9) ∧
    c.spad = s.core.spad ∧ c.side = s.core.side ∧ c.task = some tid ∧ c.mode = s.core.mode ∧
    (∀ q ∈ s.core.eng.cq, q.id < p.firstCmd → q ∈ c.eng.cq) ∧
    (∀ q ∈ c.eng.cq, q ∈ s.core.eng.cq ∧ q.id < p.firstCmd ∨ q.hold = .restart ∧ q.pos = 0) ∧
    (p.firstCmd ≤ s.core.eng.nextCmd → (c.eng.cq.filter (fun q => decide (q.hold = .restart ∧ s.core.eng.nextCmd ≤ q.id))).length = p.inputs.length) ∧
    (∀ w ∈ c.eng.shadow, w ∈ s.core.eng.shadow ∧ w.cmd < p.firstCmd) ∧
    c.phase = some { p with rolled := true } ∧ c.canRoll none = false)

/-- R401, R404: the fields of a fault record, as it waits for its ring, and the counts it raises in the task. -/
def Obligations.FaultRecordFields : Prop :=
  ∀ (s : State) (tid act : Nat) (f : FaultInfo) (t : Task) (r : Region), s.task? tid = some t → s.leafOf t = some r →
    r.f.ring ≠ 255 → (s.hub.rings.getD r.f.ring.toNat Ring.reset).cen = true → (∃ x ∈ s.hub.recs, x.ring = r.f.ring) →
    let u := s.faultRecord tid f act
    ∃ bs : List Byte, u.hub.recs = s.hub.recs ++ [⟨r.f.ring, bs, true, none, some r.id, [], []⟩] ∧ bs.length = 64 ∧
      (let fld (lo w : Nat) : Nat := leNat bs / 2 ^ lo % 2 ^ w
       fld 496 16 = f.detail.toNat ∧ fld 492 4 = 0 ∧ fld 488 4 = f.tok % 16 ∧ fld 480 8 = r.stage.getD 0 % 256 ∧
       fld 432 48 = t.ord % 2 ^ 48 ∧ fld 416 16 = f.cidx.toNat ∧ fld 384 32 = min f.rem (2 ^ 32 - 1) ∧
       fld 320 64 = f.coord1 % 2 ^ 64 ∧ fld 256 64 = f.coord0 % 2 ^ 64 ∧ fld 192 64 = f.pc.toNat ∧ fld 128 64 = r.tag.toNat ∧
       fld 117 11 = 0 ∧ fld 116 1 = (if f.applied then 1 else 0) ∧ fld 112 4 = f.slot % 16 ∧ fld 104 8 = f.btag.toNat ∧
       fld 99 5 = 0 ∧ fld 96 3 = act % 8 ∧ fld 80 8 = 3 ∧ fld 64 16 = f.code.toNat ∧ fld 0 64 = s.dsub / 189 % 2 ^ 64) ∧
      u.mem = s.mem ∧ u.core = s.core ∧ ∃ t', u.task? tid = some t' ∧ t'.fcount = t.fcount + 1 ∧
        t'.fcode = (if t.fcount = 0 then f.code else t.fcode) ∧ t'.st = t.st ∧ t'.status = t.status

/-! ### Registers and results in flight -/

/-- R10, R177, R178: s0 reads 0, p0 true and k0 all lanes, whatever is written to them; another register reads what was written
last. Rotation renames s48 to s63, p8 to p15 and a192 to a255 only, gives two names two registers, and after it has gone down
by one each register answers to the next name. -/
def Obligations.RegistersAndRotation : Prop :=
  (∀ (r : Regs) (i j : SReg) (v : Word), (r.setS i v).getS j = if j = 0 then 0 else if j = i then v else r.getS j) ∧
  (∀ (r : Regs) (i j : PReg) (v : Bool), (r.setP i v).getP j = if j = 0 then true else if j = i then v else r.getP j) ∧
  (∀ (r : Regs) (i j : KReg) (v : Line),
    (r.setK i v).getK j = if j = 0 then BitVec.allOnes 512 else if j = i then v else r.getK j) ∧
  (∀ (r : Regs) (i j : HReg) (v : Handle), (r.setH i v).getH j = if j = i then v else r.getH j) ∧
  (∀ (r : Regs) (i j : Row) (v : RowVal), (r.setA i v).getA j = if j = i then v else r.getA j) ∧
  (∀ (r : Regs) (i j : BitVec 3) (v : Option RowVal), (r.setB i v).getB j = if j = i then v else r.getB j) ∧
  ∀ x : SysRegs,
    let y : SysRegs := { x with rrbs := x.rrbs - 1, rrba := x.rrba - 1, rrbp := x.rrbp - 1 }
    (∀ i : SReg, i < 48 → rotS x i = i) ∧ (∀ i : PReg, i < 8 → rotP x i = i) ∧ (∀ i : Row, i < 192 → rotA x i = i) ∧
    (∀ i j, rotS x i = rotS x j → i = j) ∧ (∀ i j, rotP x i = rotP x j → i = j) ∧ (∀ i j, rotA x i = rotA x j → i = j) ∧
    (∀ i : SReg, 48 ≤ i → i < 63 → rotS y (i + 1) = rotS x i) ∧ (∀ i : PReg, 8 ≤ i → i < 15 → rotP y (i + 1) = rotP x i) ∧
    (∀ i : Row, 192 ≤ i → i < 255 → rotA y (i + 1) = rotA x i)

/-- R10, R182, R186, R188, R252: where a result in flight stands: in its cycle, under its slot, named by the register that its
name denotes at issue; none for s0 or p0. Beat j of a V operation names the row d + j unless it writes none back, and its last
beat the latch; the rows of an X operation are written whole.

R139, R182, R183: in its cycle every due result takes its place, those of an earlier cycle first, and those of one cycle in the
order of their slots, each register keeping the last; the flags of a cycle's results join STATUS after its writes, so that one
raised with a WRSR stays 1, and none goes out (R138). The others stay in flight. Errors that a write meets are taken then; there
are none where no word is marked and no register is late or becomes so.

Where the spec leaves a point open the statement rests on the model's reading: logs 164 and 165. -/
def Obligations.ResultsWaitAndLand : Prop :=
  (∀ (s : State) (lat : Nat) (slot : Slot) (d : SReg) (p : PReg) (v : Word) (b : Bool) (c : VCtl) (x : XCtl)
    (f : Nat → RowVal × RowVal × BitVec 5) (g : Nat → RowVal × BitVec 5),
    let k := s.core.ctl
    let adds (l : List Landing) : State := s.mc (fun c => { c with flight := c.flight ++ l })
    let at_ (t ord : Nat) (d : Dest) (fl : BitVec 5) : Landing := ⟨s.pcyc + t, ord, d, fl, k.curPc, k.btag⟩
    let V := match c.unit with
      | .v0 => 1
      | .v1 => 2
    s.landS lat slot d v = (if d = 0 then s else adds [at_ lat (slotNum slot) (.s (rotS s.core.sys d) v) 0]) ∧
    s.landP lat slot p b = (if p = 0 then s else adds [at_ lat (slotNum slot) (.p (rotP s.core.sys p) b) 0]) ∧
    s.vbeats c lat f = adds ((List.range (c.b1.toNat + 1)).flatMap (fun j =>
      at_ (lat + j) V (if c.nowb then .none else .row (rotA s.core.sys (c.d + BitVec.ofNat 8 j)) (f j).1 (f j).2.1) (f j).2.2 ::
        (match c.latch with
          | some l => if j = c.b1.toNat then
              [at_ (lat + j) V (.latch ((if V = 1 then 0#1 else 1#1) ++ l) ((f j).1 &&& (f j).2.1) k.latchEpoch) 0] else []
          | none => []))) ∧
    s.xrows x lat g = adds ((List.range (x.b1.toNat + 1)).map (fun j =>
      at_ (lat + j) 4 (.row (rotA s.core.sys (x.d + BitVec.ofNat 8 j)) (g j).1 (BitVec.allOnes 4096)) (g j).2)) ∧
    List.map slotNum [.s, .v0, .v1, .m, .x, .l, .w, .c, .y] = List.range 9) ∧
  (∀ s : State,
    let due := s.core.flight.filter (fun x => decide (x.cyc ≤ s.pcyc))
    let takes (c d : Core) (xs : List Landing) : Prop := ∃ (l : List Landing) (fl : BitVec 5), l.Perm xs ∧
      l.Pairwise (fun x y => x.cyc < y.cyc ∨ (x.cyc = y.cyc ∧ x.ord ≤ y.ord)) ∧
      (∀ cyc ord, l.filter (fun x => decide (x.cyc = cyc ∧ x.ord = ord)) =
        xs.filter (fun x => decide (x.cyc = cyc ∧ x.ord = ord))) ∧
      (∀ b, fl.getLsbD b = true ↔ ∃ x ∈ xs, x.flags.getLsbD b = true) ∧
      d = (let e := l.foldl Core.applyDest c
        { e with sys := { e.sys with status := e.sys.status ||| fl } })
    ∃ c d : Core,
      takes { s.core with flight := s.core.flight.filter (fun x => decide (s.pcyc < x.cyc)) } c
        (due.filter (fun x => decide (x.cyc < s.pcyc))) ∧
      takes c d (due.filter (fun x => decide (x.cyc = s.pcyc))) ∧
      exec .resultLanding s = .next (State.takeLate { s with core := d }) ∧
      (s.core.marks = [] → s.core.poison = 0 → s.core.ctl.late = [] → (∀ x ∈ due, ∀ r, x.dest ≠ .poison r) →
        exec .resultLanding s = .next { s with core := d }))

/-- R182, R183, R188, R195, R265, R288, R305: what each result changes where it lands, in a core with no marked word, and that
it changes nothing else: a register, the bits of a row, mask or handle that it writes, a latch that has not been emptied since,
an engine's shadow, the deltas and the rotation of a loop-back: a delta adds to a scalar, or to one field of a handle. A late
register that is written is late no more, and a load that missed its deadline makes its register late.

Where the spec leaves a point open the statement rests on the model's reading: log 21, by which a row written in part counts as
written in its phase. -/
def Obligations.LandingEffects : Prop :=
  ∀ (c : Core) (cyc ord : Nat) (fl : BitVec 5) (pc : Word) (btag : Byte), c.marks = [] →
    let lands (d : Dest) : Core := c.applyDest ⟨cyc, ord, d, fl, pc, btag⟩
    let put (r : Regs) : Core := { c with regs := r }
    (∀ r v, c.poison.getLsbD r.toNat = false → lands (.s r v) = put (c.regs.setS r v)) ∧
    (∀ r v, c.poison.getLsbD r.toNat = true → ∃ tr late, lands (.s r v) = { c with
      regs := c.regs.setS r v, poison := c.poison &&& ~~~(1#64 <<< r.toNat), track := tr,
      ctl := { c.ctl with late := late } } ∧
      ∀ n : Fin 16, ∀ t, tr[n.val] = some t → t.reg = r → t.late = true → t.drop = true) ∧
    (∀ r v, lands (.p r v) = put (c.regs.setP r v)) ∧
    (∀ r v m, ∃ x : Handle, lands (.h r v m) = put (c.regs.setH r x) ∧
      ∀ b, x.getLsbD b = if m.getLsbD b then v.getLsbD b else (c.regs.getH r).getLsbD b) ∧
    (∀ r v m, ∃ x : Line, lands (.k r v m) = put (c.regs.setK r x) ∧
      ∀ b, x.getLsbD b = if m.getLsbD b then v.getLsbD b else (c.regs.getK r).getLsbD b) ∧
    (∀ r v m, ∃ x : RowVal, lands (.row r v m) = { put (c.regs.setA r x) with
        phase := c.phase.map (fun p => { p with written := r :: p.written.filter (· ≠ r) }) } ∧
      ∀ b, x.getLsbD b = if m.getLsbD b then v.getLsbD b else (c.regs.getA r).getLsbD b) ∧
    (∀ n v e, lands (.latch n v e) = if e = c.ctl.latchEpoch then put (c.regs.setB n (some v)) else c) ∧
    (∀ n v, lands (.pcw n v) = { c with eng := { c.eng with pcw := c.eng.pcw.set n.toNat v n.isLt } }) ∧
    (∀ n v, (h : n.toNat < 9) → lands (.mn n v) = { c with eng := { c.eng with mn := c.eng.mn.set n.toNat v h } }) ∧
    (∀ n a b, lands (.nest false n a b) = { c with eng := { c.eng with oc4 := n, ds4 := a, dd4 := b } } ∧
      lands (.nest true n a b) = { c with eng := { c.eng with oc5 := n, ds5 := a, dd5 := b } }) ∧
    (∀ r v, r ≠ 0 → c.poison = 0 → lands (.deltaS r v) =
      put (c.regs.setS (rotS c.sys r) (c.regs.getS (rotS c.sys r) + v))) ∧
    (∀ v, lands (.deltaS 0 v) = c) ∧
    (∀ h lo w v, lo + w ≤ 256 → ∃ x : Handle, lands (.deltaH h lo w v) = put (c.regs.setH h x) ∧ ∀ k < 256,
      let old := c.regs.getH h
      x.getLsbD k = if lo ≤ k ∧ k < lo + w then ((old.extractLsb' lo w).toNat + v.toNat).testBit (k - lo) else old.getLsbD k) ∧
    (∀ r : SReg, ∃ p : BitVec 64, lands (.poison r) = { c with poison := p } ∧
      ∀ b, p.getLsbD b = (c.poison.getLsbD b || decide (b = r.toNat))) ∧
    (∀ p8, ∃ x : SysRegs, x = { c.sys with rrbs := c.sys.rrbs - 1, rrba := c.sys.rrba - 1, rrbp := c.sys.rrbp - 1 } ∧
      lands (.rotate p8) = { c with sys := x, regs := c.regs.setP (rotP x 8) p8 }) ∧
    lands .none = c

/-! ### Decoding and stepping -/

/-- R172 to R174, R198 and the entries: words written out from the encoding of one instruction of each slot, and what the
decoder reads from them; unassigned opcodes and reserved bits are refused by name (R452). -/
def Obligations.DecodedWords : Prop :=
  decodeSlot (.s (SRaw.unpack 0x040924C100000000)) = .ok (.add 0 .sat 9 9 12) ∧
  decodeSlot (.s (SRaw.unpack 0x640C1C0000000700)) = .ok (.bext 0 12 7 0 (some 0) (some 7)) ∧
  decodeSlot (.v .v0 (VRaw.unpack 0x0C00110042000009)) =
    .ok (.vmul ⟨.v0, 0, 1, false, some 0, 0, 9⟩ .f32 ⟨.rne, false⟩ (.row 0) .scalar) ∧
  decodeSlot (.v .v1 (VRaw.unpack 0x4860400188800000)) =
    .ok (.vclmul ⟨.v1, 0, 4, false, none, 0, 0⟩ .n32 false (.row 3) (.row 34)) ∧
  decodeSlot (.m (MRaw.unpack 0x102A00000000)) = .ok (.mcfg 0 2 40) ∧
  decodeSlot (.x (XRaw.unpack 0x10783B002003)) = .ok (.xexp ⟨0, 120, .row 118, 0⟩ true .w32 3) ∧
  decodeSlot (.l (LRaw.unpack 0x2001410328000010)) = .ok (.ldm 0 0 20 4 .d false false 16 40) ∧
  decodeSlot (.w (WRaw.unpack 0x8000C2C3000000)) = .ok (.mst 0 0 12 11 .d 0) ∧
  decodeSlot (.w (WRaw.unpack 0x70009528540400)) = .ok (.atm 0 0 .fadd false 9 20 21 1 0) ∧
  decodeSlot (.c (CRaw.unpack 0x1023000020A4)) = .ok (.cpy 0 2 3 4 5 .rne false true false) ∧
  decodeOne 0x104CFFFFFD = some (.brc 0 9 true 0xFFFFFD) ∧ decodeOne 0 = some (.nop .s) ∧
  decodeSlot (.y (YRaw.unpack 0xE000000000)) = .error (.opcode 28) ∧
  decodeSlot (.v .v0 (VRaw.unpack 1)) = .error (.reserved 0) ∧ decodeSlot (.m (MRaw.unpack (9 <<< 44 ||| 1))) = .error (.reserved 0)

/-- R171 to R176, R198: the encoder's word of a well-formed instruction, alone in its bundle, decodes to that instruction, and
every well-formed slot operation has a word: no operand's bit is dropped. -/
def Obligations.DecodeInvertsEncode : Prop :=
  (∀ i : Instr, i.wf = true → (isNop i = true ∨ isVector i = true ∨ guardOf i ≠ none) → ∃ w, encode i = some w) ∧
  ∀ (i : Instr) (w : Line), i.wf = true → encode i = some w →
    decodeOne w = some (if isNop i then .nop .s else i) ∧ decodeTableWord 512 w.toNat = decodeOne w

/-- R169 to R175, R181, R452, R453, R469: a step runs the bundle at the PC. When the agenda is empty, nothing is due at the core
in focus, it is its turn and it runs a task that may issue; when the 64 bytes at its PC hold one instruction and nothing holds
the bundle; when the two check passes and the checks of the bundle find no fault and no late or marked register: then the step
is exec of that instruction in the effect pass, after the bundle has left the buffer as a group mark or not, and then the
bundle is closed: latches, loop ends, the next PC.

Where the spec leaves a point open the statement rests on the model's reading: log 124. -/
def Obligations.StepRunsTheDecodedBundle : Prop :=
  ∀ (s a b : State) (w : Line) (o : Option (BitVec 2 × Dpa)) (i : Instr), s.agenda = [] → s.coreNow = none → s.core.ctl.turn ≤ s.pcyc →
    s.core.mode = .running → s.core.ctl.wait = none → (s.core.ctl.replay = true → s.core.preempt = none) →
    s.core.ctl.ready ≤ s.pcyc → decodeOne w = some i → isNop i = false →
    let turn := s.mc (fun c => { c with ctl := { c.ctl with turn := s.pcyc + 1 } })
    let up := (turn.fetched s.core.ctl.pc.toNat (.line w o)).mc (fun c => { c with ibuf := c.buffered c.ctl.pc w })
    let pass (t : State) (p : Pass) : State := t.mc (fun c => { c with ctl := { c.ctl with pass := p } })
    turn.bundleAt = .line w o → up.breaks w = false → up.heldBack [i] = false →
    exec i (pass (up.mc (fun c => c.comeUp w)) .static) = .next a → a.core.ctl.found = [] → a.core.owedReads = [] →
    a.core.consumed = [] → a.bundleFaults w [i] (a.core.isMark w) = [] →
    exec i (pass a .scalar) = .next b → b.core.ctl.found = [] →
    step s = match exec i (pass (b.mc (fun c => c.begin_ w (b.core.isMark w))) .go) with
      | .next t => .next (t.close (b.core.isMark w)).retireDue
      | o => o

/-- R469, R453: the passes that check an operation change nothing but what reading table entries and a loop's descriptor counts
and finds in memory: they only note what fails and what is read.

R171, R194, R293, R452, R453, R455: how a bundle ends. One that fails a check takes none of its effects: its faults are taken, one
for each failing slot. One that has issued moves the PC to the target that was set, or on by 64, with the next bundle a cycle
later at the earliest; a bundle with no LE bit and no mark changes nothing else, when no pre-emption is asked for.

R22, R72, R78, R171, R192, R464: fetching. Outside a loop body and the buffer, the bundle at the PC is the 64 bytes of memory
that its VA translates to, the first byte lowest, when the page is this module's own and readable, no unit of it is poisoned and
no other node owns its line, and the fetch changes only what the memory-side buffers count; a VA without a leaf or a right is a
fault of the fetch; a line that another node owns is recalled first.

Where the spec leaves a point open the statement rests on the model's reading: logs 8, 14, 17, 26 and 124. -/
def Obligations.BundlesCheckFetchAndEnd : Prop :=
  (∀ (s t : State) (i : Instr), encodeSlot i ≠ none → s.owes i = none → exec i s = .next t →
    (s.core.ctl.pass = .static → ∃ found reads, t = s.mc (fun c => { c with ctl := { c.ctl with
      found := c.ctl.found ++ found, reads := c.ctl.reads ++ reads } })) ∧
    (s.core.ctl.pass = .scalar → (∀ ea va kind, s.translate s.core.sys.xlat va kind ≠ .uncorr ea) →
      (∀ w gr at_, s.descLine true = some (.line w (some (gr, at_))) → Sound s gr at_ 64) →
      ∃ (u : State) (found : List FoundFault), HubReads s u ∧ t = u.mc (fun c =>
        { c with ctl := { c.ctl with found := c.ctl.found ++ found } }))) ∧
  (∀ s : State, s.core.loops.le = 0 →
    s.close false = s.mc (fun c => { c with ctl := { c.ctl with
      pass := .alone, found := [], reads := [], pc := c.ctl.npc.getD (c.ctl.curPc + 64), npc := none,
      ready := max c.ctl.ready (s.pcyc + 1) } }) ∧
    (s.core.preempt = none → s.close true = (s.close false).mc (fun c => { c with
      regs := { c.regs with b := Vector.replicate 8 none }, ctl := { c.ctl with latchEpoch := c.ctl.latchEpoch + 1 } })) ∧
    (∀ l : List FoundFault, s.refuseBundle l = s.takeFaults none ((firstPerSlot l).map (fun f =>
      ⟨f.code, f.detail, f.slot, 0, 0, 0, 0, s.core.eng.cidx, s.core.ctl.curPc, s.core.ctl.btag, false, f.saw⟩))) ∧
    ∀ (l : List FoundFault) (f : FoundFault), f ∈ firstPerSlot l ↔ f ∈ l ∧ f.slot < 9 ∧
      (∀ g ∈ l, g.slot = f.slot → codeRank f.code ≤ codeRank g.code) ∧
      ∃ p q, l = p ++ f :: q ∧ ∀ g ∈ p, g.slot = f.slot → codeRank f.code < codeRank g.code) ∧
  (∀ (s : State) (pa : Dpa) (g : BitVec 2) (rap : Bool), s.core.loops.any = false → s.core.ibuf = [] →
    let pc := s.core.ctl.pc
    (s.translate s.core.sys.xlat pc.toNat .rd = .ok pa g 0 rap → dieCode pa ≤ 12 → nodeOf pa = s.fab.node →
      s.homeRefuses s.core.sys.sec .rd g pa 64 = none → s.lineAway pa 64 = false → Sound s g pa 64 →
      offOf pa + 64 ≤ 2 ^ 39 → ∃ w : Line, s.bundleAt = .line w (some (g, pa)) ∧ ∀ i < 64, ∀ k, dpaKey g (dpaAdd pa i) = some k →
        w.extractLsb' (8 * i) 8 = s.mem.get k) ∧
    (∀ w gr at_ va, Sound s gr at_ 64 → (∀ ea ∈ s.walkReads s.core.sys.xlat va, Sound s 1 ea 8) →
      Reads s (s.fetched va (.line w (some (gr, at_))))) ∧
    (s.translate s.core.sys.xlat pc.toNat .rd = .ok pa g 0 rap → dieCode pa ≤ 12 → nodeOf pa = s.fab.node →
      s.homeRefuses s.core.sys.sec .rd g pa 64 = none → s.lineAway pa 64 = true → s.bundleAt = .away pa) ∧
    (s.translate s.core.sys.xlat pc.toNat .rd = .noLeaf → s.bundleAt = .fail 0x0101 0 none) ∧
    (s.translate s.core.sys.xlat pc.toNat .rd = .perm → s.bundleAt = .fail 0x0102 0 none))

/-! ### Reset and invariants -/

/-- R335, R352, R375 to R377, R344, R347, R385: what a module reset leaves: every memory empty, which reads 0; no task, region,
queue or record; boot stage 0; the registers of the block at their Reset values; p0 and k0 as they are wired.

Where the spec leaves a point open the statement rests on the model's reading: log 1. -/
def Obligations.ResetState : Prop :=
  let s := State.reset
  (∀ a, s.mem.get a = 0) ∧ (∀ a, s.core.spad.get a = 0) ∧ (∀ a, s.core.side.get a = 0) ∧
  (∀ d : Fin 4, ∀ a, s.wstore[d].get a = 0) ∧ s.parked = [] ∧ s.poison = [] ∧ s.tlb = [] ∧ s.pcyc = 0 ∧ s.dsub = 0 ∧
  s.core.mode = .free ∧ s.core.task = none ∧ (∀ i, s.preg i = decide (i = 0)) ∧ s.kreg 0 = BitVec.allOnes 512 ∧
  s.hub.stage = 0 ∧ s.hub.regs = [] ∧ s.hub.tasks = [] ∧ s.hub.queues = [] ∧ s.hub.recs = [] ∧ s.hub.plim = 0x960 ∧
  s.hub.drst = 0 ∧ s.hub.din = 0 ∧ s.fab.cthresh = 0x40 ∧ s.fab.portmap = 0xFF9876543210 ∧ s.fab.ndim = 0 ∧ s.fab.fq = false ∧
  (∀ g, (s.group g).v = false ∧ (s.group g).nextseq = 1) ∧ (∀ i : Fin 256, s.hub.rings[i].cen = false ∧ s.hub.rings[i].ccnt = 1) ∧
  s.host.up = false ∧ MemOk s ∧ CoreMemOk s.core

/-- The canonical form of the module's memory is an invariant: no step of the module, of whatever kind, breaks it. The form is
the model's own (log 2); with it equal memories are equal data. -/
def Obligations.StepKeepsMemoryCanonical : Prop :=
  ∀ s t : State, MemOk s → step s = .next t → MemOk t

/-- What the operations on a memory in canonical form do, and that they keep the form: a byte written, a run of bytes written, a run
read; and that two memories of the form that read alike are equal. The same of the list of the cores that are not in focus. The
forms are the model's own (log 2). -/
def Obligations.MemoryOperationsKeepTheForm : Prop :=
  ∀ m : Memory, m.wf = true →
    (∀ a v, (m.set a v).wf = true ∧ ∀ x, (m.set a v).get x = if x = a then v else m.get x) ∧
    (∀ a bs, (m.write a bs).wf = true ∧ ∀ x, (m.write a bs).get x = if a ≤ x ∧ x < a + bs.length then bs.getD (x - a) 0 else m.get x) ∧
    (∀ a n, (m.read a n).length = n ∧ ∀ i < n, (m.read a n).getD i 0 = m.get (a + i)) ∧
    (∀ m' : Memory, m'.wf = true → (∀ x, m.get x = m'.get x) → m = m') ∧
    ∀ (l : List (Nat × Core)) n c, (l.map Prod.fst).Pairwise (· < ·) → ((parkedSet l n c).map Prod.fst).Pairwise (· < ·) ∧
      ∀ k, parkedGet (parkedSet l n c) k = if k = n then c else parkedGet l k

/-! ### Events of a core -/

/-- R190, R266, R268, R292, R297, R299, R300, R302, R309, R310, R312, R314, R316: WAIT_END at a running core that has no
fault of a register write to take. A wait that has what it names ends: issue resumes at the next cycle at the earliest, with the
effect the operation leaves; a wait that has not stands.

R58, R309: END's task ends when every token is signalled, the tracker is empty and every write has performed: its core
is free and the task Ended.

Where the spec leaves a point open the statement rests on the model's reading: logs 28, 29, 30, 35, 115 and 116.
A SWAPB with a flip is left out. -/
def Obligations.WaitsEnd : Prop :=
  (∀ s : State, s.core.mode = .running → s.core.ctl.late = [] →
    let c := s.core
    let e := c.eng
    let is (w : Wait) : Prop := c.ctl.wait = some w
    let ends (d : Core) : Prop := exec .waitEnd s = .next (s.mc (fun _ =>
      { d with ctl := { c.ctl with wait := none, ready := max c.ctl.ready (s.pcyc + 1) } }))
    let stands : Prop := exec .waitEnd s = .next s
    let clear (m : BitVec 16) : Prop := ∀ t : Fin 16, m.getLsbD t.val = true → e.tokens[t.val] = 0
    let mine (a : Access) : Prop := a.task = c.task
    let sending (a : Access) : Prop := mine a ∧ ∃ bs d k via, a.op = .published bs d k via
    let noStores : Prop := (∀ a ∈ c.pend, mine a → a.op.isWrite = false) ∧
      ∀ x ∈ c.port, x.task = c.task → x.op.isWrite = false
    let noEngine : Prop := e.cq = [] ∧ e.act = none ∧ e.pend = none
    let level (sc : FScope) : Nat := match sc with
      | .core => 0
      | .cluster => 1
      | .die => 2
      | .package => 3
      | .system => 4
    let far (t : Machine.Target) : Nat := match t with
      | .cluster n _ => if n = s.cur then 0 else if n / 64 = s.cur / 64 then 1 else if n / 128 = s.cur / 128 then 2 else 3
      | .mcast _ => 4
      | .va .. => 3
      | .dpa pa _ => if (nodeOf pa ≠ s.fab.node ∧ dieCode pa ≠ 13) ∨ dieCode pa = 13 then 4 else 3
    let named (m : BitVec 16) (a : Access) : Prop := mine a ∧ a.slot ≠ .y ∧ m.getLsbD a.cls.toNat = true
    let paid (n : Fin 16) (x : Track) (v : Word) : Prop := c.track[n] = some x ∧ x.late = true ∧ x.drop = false ∧
      x.reg ≠ 0 ∧ x.reply = some (0, v) ∧ c.poison.getLsbD x.reg.toNat = true ∧ ∀ i : Fin 16, i ≠ n → c.track[i] = none
    let given (n : Fin 16) (x : Track) (v : Word) : Core := { c with
      regs := c.regs.setS x.reg v, marks := c.marks.filter (fun y => decide (y ≠ .s x.reg)),
      poison := c.poison &&& ~~~(1#64 <<< x.reg.toNat), track := c.track.set n none }
    let page (va : Nat) (kind : AKind) : Prop := ∃ pa g ap rap, s.translate c.sys.xlat va kind = .ok pa g ap rap
    let next (va : Nat) : Nat := (va / 2 ^ 18 + 1) * 2 ^ 18
    (∀ m, is (.waite m) → clear m → ends { c with eng := { e with waited := e.waited ++
      ((e.complete.filter (fun d => m.getLsbD d.tok.toNat && !e.waited.contains d.id)).map Done.id) } }) ∧
    (∀ m, is (.waite m) → ¬ clear m → stands) ∧
    (∀ m sc, is (.fence m sc) → noEngine → (∀ a ∈ c.pend, named m a → level sc < far a.tgt) →
      (∀ x ∈ c.port, x.task = c.task → ∀ k, x.cls = some k → m.getLsbD k.toNat = false) → ends c) ∧
    (∀ m sc, is (.fence m sc) → ((∃ a ∈ c.pend, named m a ∧ far a.tgt ≤ level sc) ∨
      ∃ q ∈ e.cq, m.getLsbD q.cls.toNat = true ∧ ∃ i < q.total - q.pos, ∃ l ∈ s.copyLevels q (q.pos + i), l ≤ level sc) →
      stands) ∧
    (∀ m, is (.publish m) → (¬ clear m ∨ ∃ a ∈ c.pend, mine a ∧ a.op.isWrite = true ∧ a.slot ≠ .c) → stands) ∧
    (∀ m h d rs flip, is (.swapb m h d rs flip) →
      (¬ clear m ∨ ∃ a ∈ c.pend, mine a ∧ a.op.isWrite = true ∧ a.slot ≠ .c) → stands) ∧
    (is (.sent none) → (∀ a ∈ c.pend, ¬ sending a) → ends c) ∧
    (∀ x, is (.sent x) → (∃ a ∈ c.pend, sending a) → stands) ∧
    (∀ m h d rs, is (.sent (some (m, h, d, rs, false))) → (∀ a ∈ c.pend, ¬ sending a) → c.flight = [] → ends { c with
      eng := { e with hist := [] },
      phase := some {
        pc := c.ctl.pc, regs := c.regs, pcw := e.pcw, loops := c.loops, rrbs := c.sys.rrbs, rrba := c.sys.rrba,
        rrbp := c.sys.rrbp, trap := c.ctl.trap, trapRet := c.ctl.trapRet, restartable := rs, rolled := false, inputs := [],
        firstCmd := e.nextCmd, firstAcc := c.nextAcc, written := [] } }) ∧
    (∀ va len kind, is (.probe va len kind false) → page va kind → ∃ u : State, HubReads s u ∧
      exec .waitEnd s = .next (u.mc (fun c => { c with ctl := (if va + len ≤ next va
        then { c.ctl with wait := none, ready := max c.ctl.ready (s.pcyc + 1) }
        else { c.ctl with wait := some (.probe (next va) (va + len - next va) kind false) }) }))) ∧
    (∀ va len kind, is (.probe va len kind true) → stands) ∧
    (∀ b, is (.dictld b) → c.curd.load.length = 1024 → noEngine →
      (∀ p ∈ s.parked, ∀ w ∈ p.2.eng.shadow, w.pl.sp ≠ .spad s.cur ∨ w.tile.under b = false) →
      let d : Vector Line 16 := Vector.ofFn (fun (i : Fin 16) =>
        BitVec.ofNat 512 (leNat ((c.curd.load.drop (64 * i.val)).take 64)))
      ends { c with curd := (if b then { c.curd with dict1 := d, load := [] } else { c.curd with dict0 := d, load := [] }) }) ∧
    (∀ b, is (.dictld b) → c.curd.load.length < 1024 → stands) ∧
    (∀ t n kind va asid, is (.inval t n kind va asid) →
      let old (a : Access) : Prop := a.born ≤ t ∨ ∃ bs d k v, a.op = .published bs d k (some v) ∧ v.at_ ≤ n ∧
        v.named kind va asid = true
      ((∀ k ∈ s.core :: s.parked.map Prod.snd, ∀ a ∈ k.pend, ¬ old a) → ends c) ∧
      ((∃ k ∈ s.core :: s.parked.map Prod.snd, ∃ a ∈ k.pend, old a) → stands)) ∧
    (∀ p, is (.qpt p) → c.preempt = none → ends { c with flight := c.flight ++ (if p = 0 then [] else
      [⟨s.pcyc + 1, 8, .p p false, 0, c.ctl.curPc, c.ctl.btag⟩]) }) ∧
    (∀ p, is (.qpt p) → c.preempt ≠ none → stands) ∧
    (is .halt → c.flight = [] → noEngine → (∀ a ∈ c.pend, ¬ mine a) → (∀ x ∈ c.port, x.task ≠ c.task) →
      (∀ i : Fin 16, c.track[i] = none) → (∀ p ∈ s.hub.stops, p.1 ≠ s.cur) → exec .waitEnd s =
      .next (s.mhub (fun h => { h with stops := h.stops ++ [(s.cur, c.ctl.curPc, c.ctl.btag)] }))) ∧
    (∀ n, is (.ldw n) → c.ldwReply ≠ none → ends { c with ldwReply := none }) ∧
    (∀ n, is (.ldw n) → c.ldwReply = none → stands) ∧
    (is .rpl → (∀ i : Fin 16, c.track[i] = none) → ends c) ∧
    (∀ n x v, is .rpl → paid n x v → ends (given n x v)) ∧
    (∀ l n x v, is (.hold l) → paid n x v → x.reg ∈ l → ends (given n x v)) ∧
    (∀ l (n : Fin 16) x, (is .rpl ∨ (is (.hold l) ∧ x.reg ∈ l)) → c.track[n] = some x → x.late = true → x.drop = false →
      x.reg ≠ 0 → x.reply = none → stands) ∧
    (∀ l, is (.rollback l) → c.preempt = none → e.cq = [] → (∀ i : Fin 16, c.track[i] = none) → noStores →
      ends { c with eng := { e with waited := e.waited ++ l } }) ∧
    (∀ l, is (.rollback l) → (∃ q ∈ e.cq, q.id ∈ l ∧ q.hold ≠ .restart) → (∀ q ∈ e.cq, q.id ∈ l → q.hold ≠ .restart) →
      stands) ∧
    (is .endT → ¬ clear (BitVec.allOnes 16) → (∀ i : Fin 16, c.track[i] = none) → stands)) ∧
  (∀ (s : State) (tid : Nat) (k : Task), s.core.mode = .running → s.core.ctl.late = [] → s.core.ctl.wait = some .endT →
    s.core.task = some tid → s.core.preempt = none → s.task? tid = some k → k.core = s.cur →
    (∀ i : Fin 16, s.core.eng.tokens[i] = 0) → (∀ i : Fin 16, s.core.track[i] = none) → s.core.pend = [] → s.core.port = [] →
    s.core.eng.shadow = [] → s.core.eng.complete = [] →
    ∃ t, exec .waitEnd s = .next t ∧ t.core = s.core.stopTask ∧ t.core.mode = .free ∧ t.core.task = none ∧
      (t.task? tid).map Task.st = some .ended ∧ ∀ n, n ≠ tid → (t.task? n).map Task.st = (s.task? n).map Task.st)

/-- R300, R328, R329, R333: publication. When the tokens named are signalled and the task's own stores have performed, the bytes
that complete commands have written become memory's, each at its place, and nothing is left unpublished; then the wait goes on for
nothing but writes to other nodes. Beside memory only the granules of its units and the counts of the buffers move (R86, R389).
While another node owns a line that they reach, the line is asked for and nothing is published (R332, R350). -/
def Obligations.PublicationStores : Prop :=
  ∀ (s : State) (m : BitVec 16) (g : BitVec 2), s.core.mode = .running → s.core.ctl.late = [] →
    s.core.ctl.wait = some (.publish m) →
    (∀ t : Fin 16, m.getLsbD t.val = true → s.core.eng.tokens[t.val] = 0) → s.core.pend = [] → s.core.port = [] →
    s.poison = [] → s.flips = [] → s.host.unpub = [] → s.host.wrote = [] → (∀ i : Fin 64, s.host.windows[i].en = false) →
    (∀ w ∈ s.core.eng.shadow, w.m = 0xFF ∧ w.pl.sp = .mem ∧ w.g = g ∧ w.core = s.cur ∧
      s.ownCode g (unitAt g w.pl.addr) = true ∧ s.keyLost w.pl.addr = false ∧ ∃ d ∈ s.core.eng.complete, d.id = w.cmd) →
    (s.core.eng.shadow.map (fun w => w.pl.addr)).Nodup → MemOk s →
    ((∀ o ∈ s.fab.owned, o.owner = none) → ∃ t, exec .waitEnd s = .next t ∧ MemOk t ∧ t.core.ctl.wait = none ∧
      t.core.eng.shadow = [] ∧ t.core.eng.complete = [] ∧ t.core.regs = s.core.regs ∧ t.core.spad = s.core.spad ∧
      t.core.side = s.core.side ∧ t.hub = { s.hub with msbHit := t.hub.msbHit, msbMiss := t.hub.msbMiss } ∧ t.fab = s.fab ∧
      ∀ a, t.mem.get a = (match s.core.eng.shadow.find? (fun w => decide (w.pl.addr = a)) with
        | some w => w.v
        | none => s.mem.get a)) ∧
    ((∃ o ∈ s.fab.owned, o.owner ≠ none ∧ ∃ w ∈ s.core.eng.shadow, w.pl.addr ∈ keysOf o.g (BitVec.ofNat 53 o.dpa) 64) →
      ∃ asked : List Nat, exec .waitEnd s = .next (s.mfab (fun f => { f with asked := f.asked ++ asked })) ∧
        ∀ a ∈ asked, ∃ o ∈ s.fab.owned, o.owner ≠ none ∧ o.dpa = a)

/-- R60, R298, R316, R330, R381: the other stops of a core. A barrier releases nobody while a participant has not come; when all
have, with nothing left to write or publish, each resumes. A bundle with BRK of the context under debug stops the core before it
issues and is reported; the release lets it issue once. A reported HALT resumes when it is released.

Where the spec leaves a point open the statement rests on the model's reading: log 171. -/
def Obligations.StopsAndReleases : Prop :=
  ∀ (s : State) (sc : BScope) (w : Line) (from_ : Option (BitVec 2 × Dpa)) (n : BitVec 9),
    let k := s.core.ctl
    let go (s' : State) (f : Ctl → Ctl) : State := s'.mc (fun c => { c with ctl := f c.ctl })
    (∀ t p, s.curTask = some t → p ∈ s.bspTasks t sc → s.arrived sc (s.core.bsps.getD (scopeIx sc) 0) p = false →
      exec (.barrierRelease sc) s = .next s) ∧
    (∀ t, s.curTask = some t → s.bspTasks t sc = [t.id] → s.task? t.id = some t → t.core = s.cur → t.st = .running →
      s.core.task = some t.id → s.core.mode = .running → k.wait = some (.bsp sc) → s.core.engineBusy = false →
      s.core.pend = [] → s.core.port = [] → s.core.eng.shadow = [] → s.core.eng.complete = [] → s.poison = [] →
      s.host.unpub = [] → s.host.wrote = [] →
      exec (.barrierRelease sc) s = .next (go s (fun k => { k with wait := none, ready := max k.ready (s.pcyc + 1) }))) ∧
    (s.core.mode = .running → k.wait = none → s.bundleAt = .line w from_ → s.hub.dbgEn = true → s.core.sys.asid = s.hub.dbgAsid →
      k.pc ∉ k.brkDone →
      (w.getLsbD 507 = true → exec .debugBreak s = .next ((go s (fun k => { k with wait := some .brk })).mhub (fun h =>
        { h with stops := h.stops ++ [(s.cur, k.pc, w.extractLsb' 496 8)] }))) ∧
      (w.getLsbD 507 = false → exec .debugBreak s = .next s)) ∧
    (k.wait = some .brk → exec .debugRelease s = .next (go (s.mhub (fun h =>
      { h with stops := h.stops.filter (fun p => decide (p.1 ≠ s.cur)) })) (fun k => { k with wait := none, brkDone := k.pc :: k.brkDone }))) ∧
    (n.toNat = s.cur → k.wait = some .halt → (∃ p ∈ s.hub.stops, p.1 = s.cur) → exec (.haltRelease n) s =
      .next (go (s.mhub (fun h => { h with stops := h.stops.filter (fun p => decide (p.1 ≠ s.cur)) }))
        (fun k => { k with wait := none, ready := max k.ready (s.pcyc + 1) }))) ∧
    (n.toNat = s.cur → k.wait = some .halt → (∀ p ∈ s.hub.stops, p.1 ≠ s.cur) → exec (.haltRelease n) s = .next s)

/-! ### Events of the hub -/

/-- R31, R32, R40, R308, R377, R380, R470: launches. A packet comes by the aperture while the host port is up, from the
management controller, or from a SPAWN that ends its wait. Before boot step 5 it is dropped. The hub reads the tree at its
root, in this module whatever node the packet's address names, once no line of it is another node's, and either refuses the
launch, with the code the check gives and no region started, or takes every node as a region in state 0 under the packet's tag,
deadline and order of arrival. A root that is not 256-byte aligned is BAD_RCB.

Where the spec leaves a point open the statement rests on the model's reading: log 144. -/
def Obligations.LaunchesEnter : Prop :=
  ∀ (s : State) (w : Line),
    let fld (lo n : Nat) : Nat := (w.extractLsb' lo n).toNat
    let g := BitVec.ofNat 2 (fld 152 2)
    let top := (BitVec.ofNat 3 (fld 128 3), decide (fld 132 1 = 1))
    let at_ : RAt := ⟨(s.fab.node ++ BitVec.ofNat 43 (fld 0 43)).toNat, none, some top, 2, 1, none, Force.top, Force.top⟩
    let tree := s.readTree g 8 [at_] s.hub.regs.length
    let keeps (t : State) : Prop := t.core.regs = s.core.regs ∧ t.parked = s.parked ∧ t.hub.tasks = s.hub.tasks ∧
      t.hub.saves = s.hub.saves ∧ t.hub.arrivals = s.hub.arrivals + 1 ∧ t.hub.launches = s.hub.launches + 1
    let same (r : Region) (n : RNode) : Prop := r.id = n.id ∧ r.rcb = n.addr ∧ r.parent = n.parent ∧ r.kind = n.kind ∧
      r.stage = n.stage ∧ r.depth = n.depth ∧ r.together = n.together ∧ r.inq = n.inq ∧ r.outq = n.outq ∧ r.f = n.f ∧
      r.launch = s.hub.launches + 1 ∧ r.arrival = s.hub.arrivals ∧ r.st = 0 ∧ r.next = 0 ∧ r.tstart = 0 ∧ r.tdone = 0 ∧
      r.late = false ∧ r.cancelled = none
    let takes (ap : Bool) (i : Instr) : Prop :=
      (s.launchCheck g ap tree = none → ∃ (t : State) (rs : List Region), exec i s = .next t ∧ keeps t ∧
        t.hub.regs = s.hub.regs ++ rs ∧ rs.length = tree.length ∧ ∀ (k : Nat) n r, tree[k]? = some n → rs[k]? = some r →
          same r n ∧ r.gran = g ∧ r.effdl = fld 64 64 ∧ r.cil = decide (fld 131 1 = 1) ∧ r.tag = BitVec.ofNat 64 (fld 160 64) ∧
          r.spawner = none ∧ (n.parent = none → r.rring = BitVec.ofNat 8 (fld 144 8)) ∧ (n.parent ≠ none → r.rring = n.f.ring)) ∧
      (∀ code, s.launchCheck g ap tree = some code → ∃ (t : State) (r : Region), exec i s = .next t ∧ keeps t ∧
        t.hub.regs = s.hub.regs ++ [r] ∧ r.st = 3 ∧ r.status = 0x84 ∧ r.fcode = code ∧ t.hub.queues = s.hub.queues)
    (s.hub.stage ≠ 5 → exec (.launchPacket w) s = .next s ∧ exec (.mlaunch w) s = .next s) ∧
    (s.host.up = false → exec (.launchPacket w) s = .next s) ∧
    (s.hub.stage = 5 → s.hub.pst = 0 → s.hub.fatal = false → s.treeAway tree = [] →
      (s.host.up = true → takes true (.launchPacket w)) ∧ takes false (.mlaunch w)) ∧
    (∀ ap, fld 0 53 % 256 ≠ 0 → (ap = true → (s.readNode g at_ s.hub.regs.length).f.asid ≠ 0) →
      s.launchCheck g ap tree = some 0x0502) ∧
    (∀ root task r, s.core.mode = .running → s.core.ctl.late = [] → s.core.ctl.wait = some (.spawn root) →
      s.curTask = some task → s.leafOf task = some r → s.spawnedOpen < 4096 →
      let sg := s.core.sys.heapattr.extractLsb' 0 2
      let nodes := s.readTree sg 8 [⟨root, none, none, 2, r.depth + 1, none, r.f, r.f⟩] s.hub.regs.length
      s.treeAway nodes = [] → s.launchCheck sg false nodes = none → ∃ (t : State) (rs : List Region), exec .waitEnd s = .next t ∧ keeps t ∧
        t.core.ctl.wait = none ∧ t.hub.regs = s.hub.regs ++ rs ∧ rs.length = nodes.length ∧
        ∀ (k : Nat) n x, nodes[k]? = some n → rs[k]? = some x → same x n ∧ x.gran = sg ∧ x.effdl = r.effdl ∧ x.cil = r.cil ∧
          x.tag = r.tag ∧ (n.parent = none → x.spawner = some r.id) ∧ x.rring = n.f.ring)

/-- R45, R46, R47, R50, R58: a dispatch decision for an idle core, when the first unit of the order is a leaf that is no stage
and whose next start is one task on that core, and which is not past its deadline: the task runs there from the entry state, and
the leaf has one coordinate less to start. With no work or before boot step 5 nothing changes, and a decision for a core that is
not idle starts nothing: it reserves at most.

Where the spec leaves a point open the statement rests on the model's reading: log 133. -/
def Obligations.DispatchStartsTasks : Prop :=
  ∀ (s : State) (c : BitVec 9) (u : Region),
    let n := c.toNat
    let x := u.next % u.f.ext0
    let y := u.next / u.f.ext0 % u.f.ext1
    let z := u.next / (u.f.ext0 * u.f.ext1)
    let same : Prop := (s.getCore n).lastAsid = some u.f.asid
    ((s.hub.stage ≠ 5 ∨ s.hub.pst ≠ 0 ∨ s.hub.fatal = true ∨ s.order = []) → exec (.dispatchDecision c) s = .next s) ∧
    (s.idle n = false → ∃ l, exec (.dispatchDecision c) s = .next (s.mhub (fun h => { h with reserved := l }))) ∧
    (s.hub.stage = 5 → s.hub.pst = 0 → s.hub.fatal = false → s.idle n = true → s.order.head? = some u → s.region? u.id = some u → u.kind = 0 →
      u.stage = none → u.inq = 0 → u.outq = 0 → u.together = false → u.f.gang = 0 → s.startOf u n = some (u, [n]) →
      s.pastDue u = false → u.id ∉ (s.chain 8 u.id).tail → ∃ t : State, exec (.dispatchDecision c) s = .next t ∧
      (let k := t.getCore n
       let r := k.regs
       k.mode = .running ∧ k.task = some s.hub.tasks.length ∧ k.ctl.pc = u.f.entry ∧ k.ctl.wait = none ∧
       (∀ i : Fin 64, r.s[i.val] = (match i.val with
         | 1 => BitVec.ofNat 64 x
         | 2 => BitVec.ofNat 64 y
         | 3 => BitVec.ofNat 64 z
         | 4 => BitVec.ofNat 64 u.rcb - u.f.hoff
         | 7 => 1
         | 8 => BitVec.ofNat 64 (n % 64)
         | _ => 0)) ∧
       (∀ i : Fin 16, r.p[i.val] = decide (i.val = 0)) ∧ (∀ i : Fin 32, r.h[i.val] = 0) ∧ (∀ i : Fin 8, r.b[i.val] = none) ∧
       (∀ i : Fin 8, r.k[i.val] = if i.val = 0 then BitVec.allOnes 512 else 0) ∧ (∀ i : Fin 256, r.a[i.val] = 0) ∧
       (∀ i : Fin 16, k.eng.pcw[i.val] = 0 ∧ k.eng.tokens[i.val] = 0) ∧ (∀ i : Fin 9, k.eng.mn[i.val] = 0) ∧
       k.eng.standbyLoaded = false ∧ k.eng.act = none ∧ k.eng.pend = none ∧ k.eng.cq = [] ∧ k.loops.any = false ∧
       k.sys.status = 0 ∧ k.sys.asid = u.f.asid ∧ k.sys.sec = u.f.sec ∧ k.sys.rcbptr = BitVec.ofNat 64 u.rcb ∧
       k.sys.heapbase = u.f.hbase &&& 0x0000FFFFFFFC0000 ∧ k.sys.heaplim = u.f.hlim &&& 0x0000FFFFFFFC0000 ∧
       k.sys.heapoff = u.f.hoff &&& 0xFFFFFFFFFFFC0000 ∧ k.sys.heapattr = u.f.hattr &&& 0x3F ∧
       k.sys.ptroot = u.f.ptroot &&& 0x001FFFFFFFFFE000 ∧ k.sys.rpladdr = 0 ∧ k.sys.trapaddr = 0 ∧
       (x < 2 ^ 16 → y < 2 ^ 16 → z < 2 ^ 16 → k.sys.tcoord = BitVec.ofNat 64 (x + 2 ^ 16 * y + 2 ^ 32 * z)) ∧
       (same → k.spad = (s.getCore n).spad ∧ k.side = (s.getCore n).side ∧ k.curd = (s.getCore n).curd) ∧
       (¬ same → CoreMemOk (s.getCore n) → (∀ a, k.spad.get a = if a < u.f.spadb then 0 else (s.getCore n).spad.get a) ∧
         (∀ a, k.side.get a = if a < u.f.sideb then 0 else (s.getCore n).side.get a) ∧
         k.curd.summary = BitVec.allOnes 32 ∧ k.curd.bank = false)) ∧
      ((s.task? s.hub.tasks.length) = none → ∃ k, t.task? s.hub.tasks.length = some k ∧ k.region = u.id ∧ k.core = n ∧
        k.st = .running ∧ k.ord = u.next) ∧
      (t.region? u.id).map Region.next = some (u.next + 1) ∧ (t.region? u.id).map Region.tstart = some (u.tstart + 1))

/-- R42, R43, R51, R52: a unit past its deadline of which nothing has started becomes late: without CIL it moves to the late
class, with CIL it is cancelled (status 2) and nothing of it is started any more. A filled entry whose ENQ and earlier accesses
have performed, on every core and in every saved task, becomes available, and its descriptor's FILLED counts it; one whose
task still has an earlier access to perform, or an unpublished write of an earlier command, does not.

Where the spec leaves a point open the statement rests on the model's reading: log 153. -/
def Obligations.LateUnitsAndEntries : Prop :=
  ∀ (s : State) (id : Nat) (u : Region) (q : Queue) (t up cm n : Nat), s.region? id = some u →
    let due : Prop := u.kind = 0 ∧ u.stage = none ∧ u.effdl < s.ns ∧ u.effdl ≠ 2 ^ 64 - 1 ∧ u.late = false ∧ u.st ≠ 3 ∧ u.tstart = 0
    (due → u.cil = false → exec (.regionBecomesLate id) s = .next (s.mhub (fun h =>
      { h with regs := h.regs.map (fun r => if r.id = id then { r with late := true } else r) }))) ∧
    (due → u.cil = true → ∃ t : State, exec (.regionBecomesLate id) s = .next t ∧ t.core.regs = s.core.regs ∧
      t.hub.tasks = s.hub.tasks ∧ ∃ r, t.region? id = some r ∧ r.cancelled = u.cancelled.or (some 2) ∧
        (u.inq = 0 → u.total ≤ r.next)) ∧
    ((s.ns ≤ u.effdl ∨ u.late = true ∨ u.st = 3 ∨ (u.kind = 0 ∧ u.tstart ≠ 0)) → exec (.regionBecomesLate id) s = .next s) ∧
    (s.hub.queues = [q] → q.slots = [(n, .filled t up cm)] → s.hub.regs.all (fun r => decide (r.inq ≠ q.desc)) = true →
      (∀ k ∈ s.core :: s.parked.map Prod.snd ++ s.hub.saves.map Saved.image, k.doneBefore t up cm = true) →
      let g := ((s.hub.regs.find? (fun r => decide (r.outq = q.desc))).map Region.gran).getD 0
      let d : Dpa := BitVec.ofNat 53 (q.desc + 16)
      nodeOf d = s.fab.node → s.farLost d = false → s.lineAway d 8 = false → s.fab.patches = [] →
      ∃ u : State, exec (.entryAvailable t) s = .next u ∧ HubWrites
        (s.mhub (fun h => { h with queues := [{ q with slots := [(n, .avail)] }] })) g d (leBytes 8 (s.dpaNat g d 8 + 1)) u) ∧
    (s.hub.queues = [q] → q.slots = [(n, .filled t up cm)] → ((∃ a ∈ s.core.pend, a.task = some t ∧ a.id ≤ up) ∨
      (s.core.task = some t ∧ ∃ w ∈ s.core.eng.shadow, w.cmd < cm)) → exec (.entryAvailable t) s = .next s)

/-- R49, R54 to R58, R168, R169, R312: pre-emption. A request to a core that may be pre-empted marks its task Halting, with every
live task of its gang or together region, and each of their cores is asked to halt; nothing else of tasks or cores changes. The
halted core whose results and replies are in, and which holds no error, is saved: its task is Saved with its registers and
what its budgets, or F after a yield, cover of its memories, its engines at a block boundary, and the core is free; outside the
core's save area no byte of memory changes. A saved task that may resume begins to resume, with its partners: Saved to Resuming,
on their own cores. A task resuming whose save area has no uncorrectable unit then runs again, Resuming to Running, with its
registers and its memories as they were saved, and bytes beyond its budgets as the core holds them. A core asked that may not
be, one that cannot be saved yet, and one with no saved task stay as they are.

Where the spec leaves a point open the statement rests on the model's reading: log 72. -/
def Obligations.PreemptionSavesAndResumes : Prop :=
  ∀ (s : State) (tid : Nat) (k : Task) (r : Region) (n : BitVec 9), s.task? tid = some k → s.leafOf k = some r →
    let st (t : State) (i : Nat) : Option TState := (t.task? i).map Task.st
    let whole := s.wholeOf tid
    let moved (t : State) (x : TState) : Prop := (∀ i ∈ whole, st t i = some x) ∧ ∀ i, i ∉ whole → st t i = st s i
    let only (t : State) (x : TState) : Prop := st t tid = some x ∧ ∀ i, i ≠ tid → st t i = st s i
    let area := s.saveArea s.cur (s.freeDepth s.cur)
    let top := match s.core.yieldF with
      | some f => min f r.f.spadb
      | none => r.f.spadb
    (s.mayPreempt n.toNat = false → exec (.preemptionRequest n) s = .next s) ∧
    (s.mayPreempt n.toNat = true → (s.getCore n.toNat).task = some tid →
      ∃ t : State, exec (.preemptionRequest n) s = .next t ∧ moved t .halting ∧ t.mem = s.mem ∧ t.hub.saves = s.hub.saves ∧
        (∀ i ∈ whole, ∀ x, s.task? i = some x → t.getCore x.core = { s.getCore x.core with preempt := some s.ns }) ∧
        ∀ m, (∀ i ∈ whole, ∀ x, s.task? i = some x → x.core ≠ m) → t.getCore m = s.getCore m) ∧
    (s.core.mode ≠ .halted ∨ s.core.flight ≠ [] ∨ s.core.port ≠ [] ∨ s.core.pressIdle = false ∨ s.core.rolling = true ∨
      (∃ a ∈ s.core.pend, a.op.isLoad = true) → exec .stateSave s = .next s) ∧
    (s.core.mode = .halted → s.core.flight = [] → (∀ a ∈ s.core.pend, a.op.isLoad = false) → s.core.port = [] →
      s.core.pressIdle = true → s.core.rolling = false → s.core.marks = [] → s.core.eng.blk.bad = false → s.core.eng.standby.bad = false →
      s.core.task = some tid → CoreMemOk s.core → MemOk s → Sound s 1 area 2621440 →
      ∃ (t : State) (v : Saved), exec .stateSave s = .next t ∧ only t .saved ∧ t.core = s.core.stopTask ∧
        t.hub.saves = s.hub.saves ++ [v] ∧ v.core = s.cur ∧ v.task = tid ∧ v.depth = s.freeDepth s.cur ∧
        v.image.regs = s.core.regs ∧ v.image.sys = s.core.sys ∧ v.image.track = s.core.track ∧
        v.image.phase = s.core.phase ∧ v.image.ctl = s.core.ctl ∧ v.image.poison = s.core.poison ∧
        v.image.eng = s.core.eng.stop ∧ v.image.curd = s.core.curd ∧ v.image.pend = [] ∧
        (∀ a, v.image.spad.get a = if a < top then s.core.spad.get a else 0) ∧
        (∀ a, v.image.side.get a = if a < r.f.sideb then s.core.side.get a else 0) ∧
        ∀ a, (∀ i < 2621440, dpaKey 1 (dpaAdd area i) ≠ some a) → t.mem.get a = s.mem.get a) ∧
    ((∀ v ∈ s.hub.saves, v.core ≠ s.cur) → exec .taskResume s = .next s) ∧
    (∀ v, s.core.mode ≠ .resuming → s.savedOn s.cur = [v] → v.task = tid → s.resumable v = true →
      ∃ t : State, exec .taskResume s = .next t ∧ moved t .resuming ∧ t.hub.saves = s.hub.saves ∧ t.mem = s.mem ∧
        ∀ i ∈ whole, ∀ x, s.hub.saves.find? (fun x => decide (x.task = i)) = some x → (t.getCore x.core).mode = .resuming ∧
          (t.getCore x.core).regs = (s.getCore x.core).regs ∧ ∃ j ∈ whole, (t.getCore x.core).task = some j) ∧
    (∀ v, s.core.mode = .resuming → s.core.task = some tid → s.savedOn s.cur = [v] → v.task = tid →
      s.farLost (s.saveArea s.cur v.depth) = false → s.badIn 1 (s.saveArea s.cur v.depth) 2621440 = none → CoreMemOk s.core → CoreMemOk v.image →
      (∀ a, r.f.spadb ≤ a → v.image.spad.get a = 0) → (∀ a, r.f.sideb ≤ a → v.image.side.get a = 0) →
      ∃ t : State, exec .taskResume s = .next t ∧ only t .running ∧ t.mem = s.mem ∧
        t.hub.saves = s.hub.saves.filter (fun y => decide (y.task ≠ tid)) ∧
        t.core.mode = .running ∧ t.core.task = v.image.task ∧ t.core.regs = v.image.regs ∧ t.core.sys = v.image.sys ∧
        t.core.ctl.pc = v.image.ctl.pc ∧ t.core.track = v.image.track ∧ t.core.phase = v.image.phase ∧
        t.core.poison = v.image.poison ∧ t.core.ctl.ready = s.pcyc + 1 ∧
        (∀ a, t.core.spad.get a = if a < r.f.spadb then v.image.spad.get a else s.core.spad.get a) ∧
        ∀ a, t.core.side.get a = if a < r.f.sideb then v.image.side.get a else s.core.side.get a)

/-- R62, R63, R65 to R69, R433: completion and the rings. A leaf of which all tasks have ended and nothing spawned runs is
complete, with STATE 3. A held record that fits takes the slot at CHEAD, with the PHASE of the pass, and CHEAD and the pending
count go up, under the CTIME, CVEC and CCNT of that moment; the vector is raised when as many are pending as the newest one's
CCNT asks, or by the age and the CTIME of the oldest. CTAIL frees slots. Clearing CEN discards what is held and counts it in
CDROP. Ring 255 does not exist.

Where the spec leaves a point open the statement rests on the model's reading: log 148. -/
def Obligations.CompletionAndRings : Prop :=
  ∀ (s : State) (id : Nat) (r : Region) (i : Byte) (v : BitVec 32) (x : Rec),
    let g := s.hub.rings.getD i.toNat Ring.reset
    let put (h : Hub) (g : Ring) : Hub := { h with rings := h.rings.set i.toNat g i.isLt }
    let now : Govern := ⟨g.ctime, g.cvec, g.ccnt⟩
    let vec := if g.last.cnt.toNat ≤ g.pending then g.last.vec else g.first.vec
    let raises (s : State) : State :=
      if vec.toNat < 2048 then s.mhost (fun h => { h with msix := h.msix ++ [vec] }) else s
    (s.region? id = some r → r.kind = 0 → r.stage = none → r.inq = 0 → r.f.ext0 * r.f.ext1 * r.f.ext2 ≤ r.next → r.st ≠ 3 →
      (∀ t ∈ s.hub.tasks, t.region = id → t.st.live = false) → (∀ y ∈ s.hub.regs, y.spawner = some id → y.st = 3) →
      ∃ t : State, exec (.regionComplete id) s = .next t ∧ t.core.regs = s.core.regs ∧ t.hub.tasks = s.hub.tasks ∧
        ∃ y, t.region? id = some y ∧ y.st = 3 ∧ y.recorded = true ∧ y.status = r.status) ∧
    (s.region? id = some r → (r.st = 3 ∨ (∃ t ∈ s.hub.tasks, t.region = id ∧ t.st.live = true ∧ r.kind = 0) ∨
      ∃ y ∈ s.hub.regs, y.spawner = some id ∧ y.st ≠ 3) → exec (.regionComplete id) s = .next s) ∧
    (s.hub.recs = [x] → x.ring = i → x.wide = false → x.service = none → x.tasks = [] → x.covers = [] → x.bytes.length = 32 →
      1 ≤ 2 ^ g.clog.toNat - (g.chead - g.ctail).toNat → dieCode g.cbase ≠ 13 → g.pending + 1 < g.ccnt.toNat →
      let bs := if g.chead.toNat / 2 ^ g.clog.toNat % 2 = 0 then x.bytes.set 11 (x.bytes.getD 11 0 ||| 0x80) else x.bytes
      let a := dpaAdd g.cbase (32 * (g.chead.toNat % 2 ^ g.clog.toNat))
      let d : Dpa := s.fab.node ++ a.extractLsb' 0 43
      s.farLost d = false → s.lineAway d 32 = false → ∃ t : State, exec .completionRecordWrite s = .next t ∧ HubWrites (s.mhub (fun h =>
        put { h with recs := [] } { g with chead := g.chead + 1, pending := g.pending + 1,
                                           oldest := if g.pending = 0 then s.ns else g.oldest,
                                           first := if g.pending = 0 then now else g.first, last := now })) 1 d bs t) ∧
    (s.hub.recs = [] → exec .completionRecordWrite s = .next s) ∧
    (s.host.up = true → g.cdev = false → 0 < g.pending →
      (g.last.cnt.toNat ≤ g.pending ∨ (g.first.time ≠ 0 ∧ g.oldest + g.first.time.toNat ≤ s.ns)) →
      exec (.coalesceTimerExpiry i) s = .next (raises (s.mhub (fun h => put h { g with pending := 0 })))) ∧
    (g.pending < g.last.cnt.toNat → (g.first.time = 0 ∨ s.ns < g.oldest + g.first.time.toNat) →
      exec (.coalesceTimerExpiry i) s = .next s) ∧
    (s.hub.stage = 5 → i ≠ 255 → (∀ y ∈ s.hub.services, y.ring ≠ i) →
      exec (.ctailWrite i v) s = .next (s.mhub (fun h => put h { g with ctail := v }))) ∧
    (s.hub.stage = 5 → i ≠ 255 → exec (.ringEnableWrite i true) s = .next (s.mhub (fun h => put h { g with cen := true }))) ∧
    (s.hub.stage = 5 → i ≠ 255 → (∀ y ∈ s.hub.recs, y.ring = i → y.service = none) →
      let lost := (s.hub.recs.filter (fun y => decide (y.ring = i))).length
      exec (.ringEnableWrite i false) s = .next (s.mhub (fun h =>
        put { h with recs := h.recs.filter (fun y => decide (y.ring ≠ i)) }
          { g with cen := false, cdrop := BitVec.ofNat 32 (min (g.cdrop.toNat + lost) (2 ^ 32 - 1)) }))) ∧
    (exec (.ctailWrite 255 v) s = .next s ∧ ∀ en, exec (.ringEnableWrite 255 en) s = .next s)

/-! ### Events of the engines -/

/-- R151, R155, R157 to R160, R163, R165, R166, R289: the matrix engine. PASS: a leaf that is due to take a block takes it once it
stands by; a pass starts with its first row due after the fill of the array and Peff cycles a row; an activation row enters every
Peff cycles, from the A FIFO or recirculated from the other tile as it stands in that cycle, and an empty FIFO holds the pass by a
cycle; a row due adds to its accumulator lanes the K-groups of the row that leaves the array and the active block, in order, and
the leaf is done; beyond the last leaf the command is drained; MZERO zeroes its rows. BLOCK_LOAD brings the next block of the FIFO to the standby registers; MSWAP
exchanges the two. PRESS_DRAIN reads a due row, and 24 cycles later writes the destination row. A drained command completes
in a later cycle than its last row, its flags landing with that cycle's results and its token counting one less, and the cycle
after that the pending one follows, with the active block zeroed; an MDRN's rows are then due at the press.

Where the spec leaves a point open the statement rests on the model's reading: logs 39, 42, 43, 46, 161 and 163.
Of a drain it says the first fp32 row. -/
def Obligations.MatrixEngineSteps : Prop :=
  ∀ (s : State) (m : MCmd), s.core.mode = .running → s.core.eng.act = some m → s.core.marks = [] → s.core.phase = none →
    let c := s.core
    let e := c.eng
    let now := s.pcyc
    let upd (i : Instr) (f : Engines → Engines) : Prop := exec i s = .next (s.mc (fun c => { c with eng := f c.eng }))
    let acts (m : MCmd) (e : Engines) : Engines := { e with act := some m }
    let array : Prop := m.kind = .go ∨ m.kind = .had
    let r := m.rowAt (m.xAt 0)
    let peff := planeSteps m.pcw e.blk
    (array → m.stage = .idle → m.inside = false → upd .pass (acts { m with stage := .drained })) ∧
    (array → m.stage = .idle → m.inside = true → m.taken < m.ldws → e.standbyLoaded = false → exec .pass s = .next s) ∧
    (array → m.stage = .idle → m.inside = true → m.taken < m.ldws → e.standbyLoaded = true → m.last < now → e.standbyAt < now →
      upd .pass (fun e => { e with blk := e.standby, standby := { e.standby with cmd := none }, standbyLoaded := false,
                                   blkAt := now, act := some { m with taken := m.taken + 1 } })) ∧
    (array → m.stage = .idle → m.inside = true → m.ldws ≤ m.taken → m.bit 0 34 = true → m.last < now →
      upd .pass (acts { m with stage := .pass m.passLeaves peff (now + 15 + peff * (m.k + m.n - 1)),
                               toEnter := m.passLeaves, enterAt := now, inArray := [] })) ∧
    (∀ left p due, array → m.stage = .pass left p due → 0 < m.toEnter → m.enterAt ≤ now →
      let inside (a : AIn) : MCmd := { m with inArray := m.inArray ++ [a], toEnter := m.toEnter - 1, enterAt := m.enterAt + p }
      let ahead := m.ahead m.inArray.length
      (m.pcw.getLsbD 30 = false → ∀ a rest, e.afifo = a :: rest →
        upd .pass (fun e => { e with afifo := rest, act := some (inside (.fifo a)) })) ∧
      (m.pcw.getLsbD 30 = false → e.afifo = [] →
        upd .pass (acts { m with enterAt := now + 1, stage := .pass left p (due + 1) })) ∧
      (m.pcw.getLsbD 30 = true →
        upd .pass (acts (inside (.recirc (c.regs.getA (ahead.rowAt (ahead.xAt 0) ^^^ 128)) none))))) ∧
    (∀ left p due, array → m.stage = .pass left p due → m.toEnter = 0 ∨ now < m.enterAt → now < due →
      exec .pass s = .next s) ∧
    (∀ left p due as fa, array → m.stage = .pass left p due → m.toEnter = 0 ∨ now < m.enterAt → due ≤ now →
      (∀ q ∈ m.reads, q.1 ≠ r) → s.rowError m r = none → m.leaving = some (as, fa) → e.residue = false → m.drains = [] →
      m.n ≤ 128 → ∃ (v : RowVal) (fl : BitVec 5), exec .pass s = .next (s.mc (fun c => { c with
        regs := c.regs.setA r v
        eng := { c.eng with act := some { m with
          x := m.next, taken := 0, fl := m.fl ||| fl, last := now, inArray := m.inArray.drop 1,
          stage := if left ≤ 1 then .idle else .pass (left - 1) p (now + p) } } })) ∧
        let sum (j : Nat) := laneSum m.pcw as ((List.range as.length).map (fun k => weightAt m.pcw e.blk k j))
          (if m.fresh then 0 else lane (c.regs.getA r) j 32)
        (∀ j < 128, lane v j 32 = if j < m.n then (sum j).1 % 2 ^ 32 else lane (c.regs.getA r) j 32) ∧
        ∀ b, fl.getLsbD b = true ↔ fa.getLsbD b = true ∨ ∃ j < m.n, (sum j).2.getLsbD b = true) ∧
    (∀ q rs, m.kind = .zero → m.rows = q :: rs → m.last < now → exec .pass s = .next (s.mc (fun c => { c with
      regs := c.regs.setA q 0
      eng := acts { m with rows := rs, last := now, stage := if rs.isEmpty then .drained else m.stage } c.eng }))) ∧
    (m.kind = .swap → m.stage = .idle → m.last < now → upd .blockLoad (fun e => { e with
      blk := { e.standby with cmd := none }, standby := { e.blk with cmd := none }, standbyLoaded := true, standbyAt := now,
      blkAt := now, act := some { m with stage := .drained } })) ∧
    (∀ b rest, array → e.loading = none → e.standbyLoaded = false → m.ldwAhead = true → e.bfifo = b :: rest →
      upd .blockLoad (fun e => { e with loading := some (max (e.blkAt + 1) now + 3 + b.size) })) ∧
    (∀ b rest due, array → e.loading = some due → due ≤ now → e.bfifo = b :: rest → b.bad = false → e.standbyLoaded = false → upd .blockLoad (fun e =>
      { e with standby := b, bfifo := rest, standbyLoaded := true, standbyAt := due, loading := none })) ∧
    (∀ due, array → e.loading = some due → now < due → exec .blockLoad s = .next s) ∧
    (∀ q u rest, m.writes = [] → m.reads = (q, u) :: rest → u ≤ now →
      upd .pressDrain (acts { m with reads := rest, writes := [(u + 24, c.regs.getA q)] })) ∧
    (m.writes = [] → (∀ p ∈ m.reads, now < p.2) → exec .pressDrain s = .next s) ∧
    (∀ t v ws, m.writes = (t, v) :: ws → t ≤ now → m.dcur = 0 → hfmt m.hd = some .fp32 → hget m.hd .space = 1 →
      hget m.hd .lay = 0 → hget m.hd .curd = 0 → hget m.hd .off = 0 → hget m.hd .base + 4 * hget m.hd .ex0 ≤ 2 ^ 21 →
      s.dieReply s.cur = none → ∃ (fl : BitVec 5) (l : List Shadow), l.length = 4 * hget m.hd .ex0 ∧
        (∀ i < hget m.hd .ex0, ∀ b < 4, l[4 * i + b]? = some { byteShadow m.id i ⟨.spad s.cur, hget m.hd .base + 4 * i + b⟩
          (BitVec.ofNat 8 ((pressConv m .fp32 (pressVals m v)).1.codes.getD i 0 / 2 ^ (8 * b))) with
            core := s.cur, born := c.cmdBorn m.id }) ∧
        upd .pressDrain (fun e => { e with shadow := e.shadow ++ l, act := some { m with
          dcur := 1, fl := m.fl ||| fl, writes := ws, last := if m.stage = .drained then max m.last now else m.last } })) ∧
    (m.stage = .drained → m.reads = [] → m.writes = [] → m.last < now →
      (∀ w ∈ e.shadow, w.cmd = m.id → w.tile.isCurd = false) →
      exec .matrixCommandComplete s = .next (s.mc (fun c => { c with
        flight := c.flight ++ [⟨now, 9, .none, m.fl, 0, 0⟩]
        eng := { c.eng with
          act := some { m with stage := .done now },
          complete := c.eng.complete ++ [⟨m.id, m.tok, 0, m.info 11 0 0, none, some (hget m.hd .ex0, m.dcur)⟩],
          tokens := c.eng.tokens.set m.tok.toNat (c.eng.tokens[m.tok.toNat]'(m.tok.isLt) - 1) m.tok.isLt } }))) ∧
    ((m.stage ≠ .drained ∨ m.reads ≠ [] ∨ m.writes ≠ [] ∨ now ≤ m.last) → exec .matrixCommandComplete s = .next s) ∧
    (∀ p t, m.stage = .done t → t < now → e.pend = some p → p.kind ≠ .drn → upd .pendingCommandActivates (fun e =>
      { e with act := some { p with last := now }, pend := none, blk := Block.zero, blkAt := now })) ∧
    (∀ p t, m.stage = .done t → t < now → e.pend = some p → p.kind = .drn → upd .pendingCommandActivates (fun e =>
      { e with act := some { p with last := now, stage := .drained, reads := (List.range (p.count 0)).map (fun i =>
          (MCmd.rowAt { p with last := now } i, now + 1 + 2 * i)) }, pend := none, blk := Block.zero, blkAt := now })) ∧
    ((∀ t, m.stage = .done t → now ≤ t) → exec .pendingCommandActivates s = .next s)

/-- R190, R275 to R277, R283, R287, R104, R328: the copy engine. A copy of bytes within the scratchpad moves one line of its
destination, into the task's unpublished writes; a CMIG hands its request to the hub; a CRED starts in its slot's cycle or at
once when that has passed; a command that has moved all completes, its flags landing with that cycle's results, and with one
count less of its token. The refresh windows of the weight store open and close by DTIME alone.

Where the spec leaves a point open the statement rests on the model's reading: log 50. -/
def Obligations.CopyEngineSteps : Prop :=
  ∀ (s : State) (q : CopyCmd), s.core.mode = .running → s.core.eng.cq = [q] →
    let c := s.core
    let upd (i : Instr) (f : Engines → Engines) : Prop := exec i s = .next (s.mc (fun c => { c with eng := f c.eng }))
    let rows (h : Handle) : Prop := hfmt h = some .n8 ∧ hget h .space = 1 ∧ hget h .lay = 0 ∧ hget h .curd = 0 ∧
      hget h .off = 0 ∧ hget h .ex1 = 1 ∧ hget h .ex2 = 1 ∧ hget h .ex3 = 1 ∧ hget h .base + hget h .ex0 ≤ 2 ^ 21
    let n := hget q.hd .ex0
    let b := hget q.hd .base + q.pos
    let k := min (n - q.pos) (64 - b % 64)
    (q.op = .cpy → q.comp = false → q.hold = .run → rows q.hs → rows q.hd → hget q.hs .ex0 = n → q.pos < n →
      c.eng.shadow = [] → c.marks = [] → c.pend = [] → c.port = [] → s.dieReply s.cur = none →
      (∀ i < n, c.curd.plain ((hget q.hs .base + i) / 4096) = true) →
      upd (.copyLine .general) (fun e => { e with
        shadow := (List.range k).map (fun i =>
          { byteShadow q.id (q.pos + i) ⟨.spad s.cur, b + i⟩ (c.spad.get (hget q.hs .base + q.pos + i)) with
            core := s.cur, born := q.born }),
        cq := [{ q with pos := q.pos + k }], got := e.got.filter (fun x => decide (x.cmd ≠ q.id)) })) ∧
    (∀ v a far g, q.op = .cmig v a far g → q.hold = .run → q.pos = 0 → exec (.copyLine .general) s =
      .next ((s.mc (fun c => { c with eng := { c.eng with cq := [{ q with hold := .migrating }] } })).mhub (fun h =>
        { h with migq := h.migq ++ [{ who := .cmd s.cur q.id, ptroot := q.xl.ptroot, va := v.toNat, far := far, gran := g,
                                      relay := false, asid := q.xl.asid, inHeap := inHeap q.xl v.toNat,
                                      quota := (s.curForce.map Force.quota).getD 0 }] }))) ∧
    (q.total ≤ q.pos ∨ q.hold ≠ .run → ∀ l, exec (.copyLine l) s = .next s) ∧
    (q.op = .cpy → q.hold = .run → q.total ≤ q.pos → exec .copyCommandComplete s = .next (s.mc (fun c => { c with
      flight := c.flight ++ [⟨s.pcyc, 9, .none, q.fl, 0, 0⟩]
      eng := { c.eng with
        cq := [], complete := c.eng.complete ++ [⟨q.id, q.tok, q.cls,
          ⟨0, 0, 10, q.tok.toNat, 0, 0, 0, q.cidx, q.pc, q.btag, false, none⟩, some q, none⟩],
        tokens := c.eng.tokens.set q.tok.toNat (c.eng.tokens[q.tok.toNat]'(q.tok.isLt) - 1) q.tok.isLt } }))) ∧
    (q.pos < q.total ∨ q.hold ≠ .run → exec .copyCommandComplete s = .next s) ∧
    (∀ o slot add, q.op = .cred o slot add → q.hold = .slot →
      (slot.toNat ≤ s.pcyc → upd .credTransferStart (fun e => { e with cq := [{ q with hold := .run }] })) ∧
      (s.pcyc < slot.toNat → exec .credTransferStart s = .next s)) ∧
    exec .weightRefreshWindow s = .next s

/-! ### Migration -/

/-- R88 to R91, R287, R382 to R384, R437: the life of a move that the host asks for. A request leaves its register BUSY and is
queued; a frame is appended to a pool at TAIL, one of the reserved die code is not; a request without a leaf is answered 6, and
one for a near page in this module takes a frame of its engine's pool, locks the leaf with MP = 1 and is pending; it copies when
nothing translated with the old leaf is still to perform, and asks until then for the lines of the page that other nodes own;
when the copy is done the leaf names the new frame with MP = 0 and the request completes with 0; after 64 µs the engine is free
for the page again. -/
def Obligations.MigrationMovesPages : Prop :=
  ∀ (s : State) (i : BitVec 2) (pool : BitVec 3) (w : Word) (n : Nat) (r : MigReq) (rest : List MigReq) (m : Mig),
    s.hub.stage = 5 →
    let reg := s.hub.migregs[i.toNat]'(i.isLt)
    let p := s.hub.pools[pool.toNat]'(pool.isLt)
    let setReg (h : Hub) (x : MigReg) : Hub := { h with migregs := h.migregs.set i.toNat x i.isLt }
    let asked : MigReg := { reg with asid := w.extractLsb' 0 13, op := w.getLsbD 13, g := w.extractLsb' 14 2,
                                     tier := w.getLsbD 16, va := w.extractLsb' 18 30 }
    let here (a : Dpa) : Dpa := s.fab.node ++ a.extractLsb' 0 43
    let slot (x : Pool) (k : BitVec 32) : Dpa := dpaAdd x.rbase (8 * (k.toNat % 2 ^ x.log.toNat))
    let ours (a : Dpa) : Prop := nodeOf a = s.fab.node ∧ s.farLost a = false ∧ s.lineAway a 8 = false ∧ Sound s 1 a 8
    (w.getLsbD 17 = true → reg.busy = false → exec (.hostMigrationRequest i w) s = .next (s.mhub (fun h =>
      { setReg h { asked with busy := true } with migq := h.migq ++ [{
          who := .host i, ptroot := (0 : BitVec 11) ++ reg.root ++ (0 : BitVec 13), va := asked.va.toNat * 2 ^ 18,
          far := asked.tier, gran := asked.g, relay := asked.op, asid := asked.asid, inHeap := false, quota := 0 }] }))) ∧
    (w.getLsbD 17 = true → reg.busy = true → exec (.hostMigrationRequest i w) s = .next s) ∧
    (w.getLsbD 17 = false → exec (.hostMigrationRequest i w) s = .next (s.mhub (fun h => setReg h asked))) ∧
    ((p.tail - p.head).toNat < 2 ^ p.log.toNat → dieCode (w.extractLsb' 0 53) ≠ 15 → ours (slot p p.tail) →
      ∃ t : State, exec (.padd pool w) s = .next t ∧ HubWrites (s.mhub (fun h =>
        { h with pools := h.pools.set pool.toNat { p with tail := p.tail + 1 } pool.isLt })) 1 (slot p p.tail)
          (leBytes 8 ((w.extractLsb' 0 53) &&& 0x1FFFFFFFFC0000).toNat) t) ∧
    ((2 ^ p.log.toNat ≤ (p.tail - p.head).toNat ∨ dieCode (w.extractLsb' 0 53) = 15) → exec (.padd pool w) s = .next s) ∧
    (s.hub.migq = [] → exec .migrationRequest s = .next s) ∧
    (s.hub.migq = r :: rest → r.who = .host i → (r.inHeap = true ∨ s.leafAt r.ptroot r.va = none) →
      ∃ t : State, exec .migrationRequest s = .next t ∧ HubReads (s.mhub (fun h =>
        { setReg h { reg with busy := false, code := 6 } with migq := rest })) t) ∧
    (∀ ea e, s.hub.migq = r :: rest → r.who = .host i → r.inHeap = false → r.relay = false → r.far = true →
      s.leafAt r.ptroot r.va = some (ea, e) → (e.extractLsb' 1 2) = 1 → (e.extractLsb' 5 2) = 0 →
      let old := here (leafFrame e)
      let f := offOf old / 2 ^ 18 % 4
      let k : BitVec 3 := BitVec.ofNat 3 (2 * f + 1)
      let x := s.hub.pools[k.toNat]'(k.isLt)
      dieCode old ≤ 8 → s.hub.migs = [] → s.hub.lostFar.getLsbD f = false → x.tail ≠ x.head → s.fab.patches = [] → ours ea →
      nodeOf (slot x x.head) = s.fab.node → s.farLost (slot x x.head) = false →
      let fr : Dpa := BitVec.ofNat 53 (s.dpaNat 1 (slot x x.head) 8)
      ∃ t : State, exec .migrationRequest s = .next t ∧ t.mem = dpaWriteMem s.mem 1 ea (leBytes 8 (e ||| (1#64 <<< 12)).toNat) ∧
        t.hub.migq = rest ∧ t.hub.pools = s.hub.pools.set k.toNat { x with head := x.head + 1 } k.isLt ∧
        t.hub.migs = [{ engine := f, leaf := ea.toNat, old := old, new := here fr, gran := r.gran, oldG := e.extractLsb' 3 2,
                        relay := false, who := r.who, asid := r.asid, st := .pending }] ∧
        t.core = s.core ∧ t.parked = s.parked ∧ t.hub.migregs = s.hub.migregs ∧ ∀ x ∈ t.tlb, x ∈ s.tlb ∧ x.ea ≠ ea) ∧
    (s.hub.migs[n]? = some m → m.st = .pending → s.frameQuiet m.oldG m.old = true → exec (.migrationCopyStart n) s =
      .next (s.mhub (fun h => { h with migs := h.migs.set n { m with st := .copying } }))) ∧
    (s.hub.migs[n]? = some m → m.st ≠ .pending → exec (.migrationCopyStart n) s = .next s) ∧
    (s.hub.migs[n]? = some m → m.st = .pending → s.frameQuiet m.oldG m.old = false →
      ∃ l, exec (.migrationCopyStart n) s = .next (s.mfab (fun f => { f with asked := l }))) ∧
    (s.hub.migs[n]? = some m → m.st = .copying → m.who = .host i → MemOk s → s.fab.patches = [] →
      s.oddUnits m.oldG m.old = [] →
      let mem := copyFrame s.mem m.oldG m.old m.gran m.new
      let ea : Dpa := BitVec.ofNat 53 m.leaf
      let e := BitVec.ofNat 64 (s.dpaNat 1 ea 8)
      let k : BitVec 3 := BitVec.ofNat 3 (2 * m.engine + if 9 ≤ dieCode m.old then 1 else 0)
      let x := s.hub.pools[k.toNat]'(k.isLt)
      let full : Bool := decide (2 ^ x.log.toNat ≤ (x.tail - x.head).toNat)
      let apart (a : Dpa) : Prop := ours a ∧ ∀ i < 8, ∀ k, dpaKey 1 (dpaAdd a i) = some k → frameOff m.gran m.new k = none
      m.new.toNat % 2 ^ 18 = 0 → apart ea → apart (slot x x.tail) →
      ∃ (t : State) (e' : Word), exec (.migrationCopyDone n) s = .next t ∧ MemOk t ∧ t.core = s.core ∧
        (∀ b : Fin 64, e'.getLsbD b.val = (if b.val = 12 then false
          else if 3 ≤ b.val ∧ b.val ≤ 4 then m.gran.getLsbD (b.val - 3)
          else if 18 ≤ b.val ∧ b.val ≤ 52 then m.new.getLsbD b.val else e.getLsbD b.val)) ∧
        t.mem = (let mem := dpaWriteMem mem 1 ea (leBytes 8 e'.toNat)
          if full then mem else dpaWriteMem mem 1 (slot x x.tail) (leBytes 8 m.old.toNat)) ∧
        t.hub.pools = (if full then s.hub.pools else s.hub.pools.set k.toNat { x with tail := x.tail + 1 } k.isLt) ∧
        t.hub.migs = s.hub.migs.set n { m with st := .dwell (s.ns + 64000) } ∧
        t.hub.migregs = s.hub.migregs.set i.toNat { reg with busy := false, code := 0 } i.isLt) ∧
    (s.hub.migs[n]? = some m → m.st ≠ .copying → exec (.migrationCopyDone n) s = .next s) ∧
    (∀ t, s.hub.migs[n]? = some m → m.st = .dwell t →
      (t ≤ s.ns → exec (.dwellExpiry n) s = .next (s.mhub (fun h => { h with migs := h.migs.eraseIdx n }))) ∧
      (s.ns < t → exec (.dwellExpiry n) s = .next s))

/-! ### Events of the fabric -/

/-- R341 to R344, R347, R377, R388, R439, R440: links and time. A port that does not exist or is down takes nothing. A flit with a
wrong CRC changes nothing but the count of retries, and asks the neighbour, once, to replay what follows the last SEQ taken;
until the replay comes what follows is discarded. One taken before, or idle without credits, is acknowledgement only; one in
sequence is taken and counted, and with nothing else waiting its credits are added, its slot returned when it is for this node,
and an idle flit carries the answer. A retry request starts the replay. A link retrains after 8 replays of a flit: with success
it tells its free slots, loads the neighbour's, and replays what is unacknowledged; after three failures within 1 ms it is down
until software relabels it. A port trains when NDIM is set, with 48 credits a channel. Every
16,000 ns the contention counters are halved. DTIME steps forward to the reference once, and then follows it by 1 ns in a µs at
most. In every case the event completes.

Where the spec leaves a point open the statement rests on the model's reading: logs 95, 99, 135 and 173. -/
def Obligations.LinksAndTime : Prop :=
  ∀ (s : State) (port : BitVec 4) (f : Flit) (x : Port) (seq : BitVec 12) (free : List (BitVec 6)) (ref : Word),
    let p := port.toNat
    let is (x : Port) : Prop := p < 12 ∧ s.fab.ports[p]? = some x
    let put (f : Fabric) (x : Port) : Fabric := { f with ports := f.ports.setIfInBounds p x }
    let acked (x : Port) (a : BitVec 12) : Port :=
      let rest := x.retry.filter (fun r => decide (2048 ≤ (a - r.seq).toNat))
      { x with retry := rest, ackSeen := a, tries := x.tries.filter (fun t => rest.any (fun r => decide (r.seq = t.1))) }
    let tries (x : Port) (seq : BitVec 12) : Nat := ((x.tries.find? (fun t => decide (t.1 = seq))).map Prod.snd).getD 0
    let replay (x : Port) : Port := { x with
      tx := x.tx + BitVec.ofNat 64 x.retry.length, last := x.retry.getLast?.or x.last,
      tries := x.retry.map (fun r => (r.seq, tries x r.seq + 1)) }
    let asks (f : Fabric) : Fabric := put f { x with asked := true }
    let retries (h : Hub) : Nat := ((h.mcCount.find? (fun q => decide (q.1 = mcKey 17 4 0 none))).map Prod.snd).getD 0
    let retryMsg : Msg := ⟨s.neighbour p, 7, 0, .retry p x.rxSeq⟩
    let stands (i : Instr) : Prop := exec i s = .next s
    -- nothing waits at any port, or to be sent
    let calm : Prop := s.fab.fq = false ∧ s.fab.out = [] ∧ ∀ y ∈ s.fab.ports.toList, y.rx = [] ∧ ∀ v : Fin 8, y.owe[v] = 0
    let untouched (t : State) : Prop := t.core = s.core ∧ t.parked = s.parked ∧ t.mem = s.mem ∧ t.dsub = s.dsub
    let at_ (t : State) (y : Port) : Prop := t.fab.ports[p]? = some y
    let inTurn : Prop := Machine.Flit.intact f = true ∧ (f.kind ≠ 0 ∨ f.cinc ≠ 0) ∧ f.seq = x.rxSeq + 1
    let credited (y : Port) : Prop := ∀ v : Fin 8, y.credit[v] = x.credit[v] + if v.val = f.cvc.toNat then f.cinc.toNat else 0
    ((12 ≤ p ∨ (is x ∧ x.up = false)) → stands (.flitReceive port f) ∧ stands (.linkRetry port seq) ∧
      ∀ ok, stands (.linkRetrain port ok free)) ∧
    (is x → x.up = true →
      (Machine.Flit.intact f = false → x.asked = true → stands (.flitReceive port f)) ∧
      (Machine.Flit.intact f = false → x.asked = false → ∃ t : State, exec (.flitReceive port f) s = .next t ∧ untouched t ∧
        retries t.hub = retries s.hub + 1 ∧ t.hub = { s.hub with mcCount := t.hub.mcCount } ∧
        (∃ y, at_ t y ∧ y.rxSeq = x.rxSeq ∧ y.rx = x.rx ∧ y.asked = true) ∧
        ((s.fab.fq = true ∨ s.linkFree p 7 = false) → t.fab = { asks s.fab with out := s.fab.out ++ [retryMsg] }) ∧
        (s.fab.fq = false → s.linkFree p 7 = true → t.fab.sent = s.fab.sent ++ [retryMsg] ∧ t.fab.out = s.fab.out)) ∧
      (Machine.Flit.intact f = true →
        let idle : Prop := f.kind = 0 ∧ f.cinc = 0
        let before : Prop := (x.rxSeq - f.seq).toNat < 2048
        ((idle ∧ x.asked = false) ∨ (¬ idle ∧ f.seq ≠ x.rxSeq + 1 ∧ before) →
          exec (.flitReceive port f) s = .next (s.mfab (fun b => put b { acked x f.ack with rxn := x.rxn + 1 }))) ∧
        ((idle ∧ x.asked = true) ∨ (¬ idle ∧ f.seq ≠ x.rxSeq + 1 ∧ ¬ before) → stands (.flitReceive port f))) ∧
      (inTurn → ∃ (t : State) (y : Port), exec (.flitReceive port f) s = .next t ∧ untouched t ∧ t.hub = s.hub ∧ at_ t y ∧
        y.rxSeq = f.seq ∧ y.rxn = x.rxn + 1 ∧ y.up = true ∧ y.asked = false) ∧
      (inTurn → calm → f.kind = 0 → ∃ y : Port, exec (.flitReceive port f) s = .next (s.mfab (fun b => put b y)) ∧
        credited y ∧ y.rxSeq = f.seq ∧ y.tx = x.tx + 1 ∧ y.retry = (acked x f.ack).retry ∧ y.txSeq = x.txSeq) ∧
      (inTurn → calm → f.kind ≠ 0 → f.dst = s.fab.node → ∃ (y : Port) (g : Flit),
        exec (.flitReceive port f) s = .next (s.mfab (fun b => put b y)) ∧ credited y ∧ y.rxSeq = f.seq ∧ y.rxn = x.rxn + 1 ∧
        y.rx = [] ∧ (∀ v : Fin 8, y.owe[v] = 0) ∧ y.retry = (acked x f.ack).retry ++ [g] ∧ g.kind = 0 ∧ g.cvc = f.vc ∧
        g.cinc = 1 ∧ g.ack = f.seq ∧ g.seq = x.txSeq + 1 ∧ Machine.Flit.intact g = true ∧ y.txSeq = x.txSeq + 1 ∧
        y.tx = x.tx + 1) ∧
      (let a := acked x seq
       ∃ t : State, exec (.linkRetry port seq) s = .next t ∧ untouched t ∧ retries t.hub = retries s.hub + 1 ∧
        t.hub = { s.hub with mcCount := t.hub.mcCount } ∧
        t.fab = put s.fab (if a.retry = [] then a else replay a)) ∧
      ((∀ q ∈ x.tries, q.2 < 8) → ∀ ok, stands (.linkRetrain port ok free)) ∧
      ((∃ q ∈ x.tries, 8 ≤ q.2) →
        let m := s.machineCheck 0 17 4 0 p none
        let fails := s.ns :: x.failedTrains.filter (fun t => decide (s.ns < t + 1000000))
        -- flits held that it has not acknowledged come again
        let told := (x.last.map Flit.ack).getD 0
        let kept := x.rx.filter (fun r => decide ((told - r.seq).toNat < 2048))
        let counts : Msg := ⟨s.neighbour p, 7, 0, .counts p ((List.range 8).map (fun v =>
          48 - kept.countP (fun r => decide (r.vc.toNat = v))))⟩
        let again : Port := { replay { x with
          credit := Vector.ofFn (fun (i : Fin 8) => (free.getD i.val 0).toNat), owe := Vector.replicate 8 0, rx := kept,
          rxSeq := told, asked := false } with tries := [] }
        (∃ (t : State) (y : Port), exec (.linkRetrain port true free) s = .next t ∧ at_ t y ∧ y.up = true ∧ y.tries = [] ∧
          x.retry <+: y.retry ∧ t.core = s.core ∧ s.fab.sent ++ [counts] <+: t.fab.sent) ∧
        (calm → exec (.linkRetrain port true free) s = .next (m.mfab (fun b =>
          { put b again with sent := b.sent ++ [counts] }))) ∧
        (fails.length < 3 → exec (.linkRetrain port false free) s = .next (m.mfab (fun b =>
          put b { x with failedTrains := fails }))) ∧
        (3 ≤ fails.length → exec (.linkRetrain port false free) s = .next (State.machineCheck (m.mfab (fun b =>
          put b { x with up := false, down := true, retry := [], tries := [], failedTrains := [] })) 1 17 4 0x0108 p none)))) ∧
    ((12 ≤ p ∨ s.fab.ndim = 0 ∨ (is x ∧ x.down = true)) → stands (.linkTraining port)) ∧
    (s.fab.ndim ≠ 0 → is x → x.down = false →
      let up : Port := { Port.reset with up := true, credit := Vector.replicate 8 48, tx := x.tx, rxn := x.rxn }
      (∃ (t : State) (y : Port), exec (.linkTraining port) s = .next t ∧ untouched t ∧ t.hub = s.hub ∧ at_ t y ∧ y.up = true) ∧
      (calm → exec (.linkTraining port) s = .next (s.mfab (fun b => put b up)))) ∧
    (s.ns / 16000 ≤ s.fab.halved → stands .contentionHalving) ∧
    (s.fab.halved < s.ns / 16000 → exec .contentionHalving s = .next (s.mfab (fun b => { b with
      halved := b.halved + 1,
      counters := (b.counters.map (fun q => (q.1, q.2 / 2))).filter (fun q => decide (q.2 ≠ 0)) }))) ∧
    (s.fab.node = 0 → stands (.timeSync ref)) ∧
    (s.fab.node ≠ 0 → s.fab.trained = false →
      exec (.timeSync ref) s = .next { s with
        fab := { s.fab with trained := true, syncAt := max s.ns ref.toNat }
        dsub := if s.ns < ref.toNat then 189 * ref.toNat else s.dsub }) ∧
    (s.fab.node ≠ 0 → s.fab.trained = true →
      (s.ns < s.fab.syncAt + 1000 → stands (.timeSync ref)) ∧
      (s.fab.syncAt + 1000 ≤ s.ns →
        (s.ns < ref.toNat → exec (.timeSync ref) s = .next { s with
          fab := { s.fab with syncAt := s.ns }, dsub := s.dsub + 189 }) ∧
        (ref.toNat < s.ns → exec (.timeSync ref) s = .next { s with
          fab := { s.fab with syncAt := s.ns, slow := s.fab.slow + 189 } }) ∧
        (ref.toNat = s.ns → exec (.timeSync ref) s = .next { s with fab := { s.fab with syncAt := s.ns } })))

/-- R327, R338, R346, R347, R349, R350, R441 to R443: requests of other nodes at this home. A request that comes too late is
discarded; what the fabric must not reach is refused; one to memory that does not exist stops. Any other waits while the router
is quiesced, or behind an earlier one of its source, class and lane, or for a line that is away, which is then recalled; else a
read is answered with the bytes, and a write stores exactly its bytes. An atomic counts in its frame's counter on its arrival,
answers the old value and stores the new one; under RAP below the threshold it grants the line with its 64 bytes, and at the
threshold it recalls the frame's lines. One whose value is lost on its way back is applied, and answers ATOMIC_APPLIED with no
grant. A node that owns a line gives it back when asked; the home writes the line that
returns, with its bytes or poisoned, and serves what waits for it. An answer leaves on the lane of its request: it waits while
no credit is free, or from FQ on, and is discarded without a port.

Where the spec leaves a point open the statement rests on the model's reading: logs 101, 102, 114, 135, 150, 151, 156 and 172. -/
def Obligations.HomeServesOtherNodes : Prop :=
  ∀ (s : State) (r : RemoteReq) (a : RemoteAtom) (line : Nat) (o : Owned) (bs : List Byte),
    -- an access wakes a module in standby
    let w : State := if s.hub.pst = 1 ∨ s.hub.pst = 2 then s.mhub (fun h => { h with pst := 3 }) else s
    let bytes (g : BitVec 2) (pa : Dpa) (n : Nat) : List Byte := (List.range n).map (fun i => match dpaKey g (dpaAdd pa i) with
      | some k => s.mem.get k
      | none => 0)
    let whole (g : BitVec 2) (pa : Dpa) (n : Nat) : Prop := ∀ i < n, dpaKey g (dpaAdd pa i) ≠ none
    let size (k : RemoteKind) : Nat := match k with
      | .read n => n
      | .write bs => bs.length
    let n := size r.kind
    let lane := laneOf r.dpa
    let away (pa : Dpa) (n : Nat) : Prop := s.lineAway pa n = true
    let first (h : Held) : Prop := s.fab.fq = false ∧ ∀ x ∈ s.fab.held, x.key ≠ h.key
    let shown (keys : List Nat) (s : State) : State := s.mhost (fun p =>
      { p with unpub := p.unpub.filter (fun u => !keys.contains u.key) })
    let held (h : Held) (s : State) : State := s.mfab (fun f => { f with held := f.held ++ [h] })
    let m := if a.eight then 8 else 4
    let frame := a.dpa.toNat / 2 ^ 18
    let near : Bool := decide (dieCode a.dpa ≤ 8)
    let c := min (s.counter frame + 1) 255
    let counted : State := if near then w.setCounter frame c else w
    let old := leNat (bytes a.gran a.dpa m)
    let new := leBytes m (atomNew a.op (8 * m) old (a.v.toNat % 2 ^ (8 * m)) (a.cmp.toNat % 2 ^ (8 * m)))
    let grant : Bool := near && a.rap && decide (c < s.fab.cthresh.toNat) && decide (a.src ≠ s.fab.node)
    let home := a.dpa.toNat / 64 * 64
    let pa : Dpa := BitVec.ofNat 53 line
    let returned (s : State) : State := s.mfab (fun f => { f with owned := f.owned.erase o, asked := f.asked.erase line })
    let meets (x : Owned) (pa : Dpa) (n : Nat) : Prop := x.dpa < pa.toNat + n ∧ pa.toNat < x.dpa + 64
    (r.expiry < s.ns → exec (.remoteRequest r) s = .next w) ∧
    (s.ns ≤ r.expiry → (13 ≤ dieCode r.dpa ∨ 2 ^ s.fab.ndim.toNat ≤ (nodeOf r.dpa).toNat ∨
        s.secureBad false r.gran r.dpa n = true) →
      exec (.remoteRequest r) s = .next (w.answer r.src lane 0x0106 0 0)) ∧
    (s.ns ≤ r.expiry → s.foreignRefused r.gran r.dpa n = false →
      (¬ whole r.gran r.dpa n → exec (.remoteRequest r) s = .fault .noSuchMemory) ∧
      (whole r.gran r.dpa n →
        (¬ first (.req r) → exec (.remoteRequest r) s = .next (held (.req r) w)) ∧
        (first (.req r) → away r.dpa n → exec (.remoteRequest r) s = .next (held (.req r) (w.recallAt r.dpa n))) ∧
        (first (.req r) → ¬ away r.dpa n → s.farLost r.dpa = true →
          exec (.remoteRequest r) s = .next (w.answer r.src lane 0x0103 16 0)) ∧
        (first (.req r) → ¬ away r.dpa n → s.farLost r.dpa = false → Sound s r.gran r.dpa n →
          (∀ k, r.kind = .read k → ∃ after, Reads w after ∧
            exec (.remoteRequest r) s = .next (after.answer r.src lane 0 0 (leNat (bytes r.gran r.dpa k)))) ∧
          (∀ bs, r.kind = .write bs → MemOk s → ∃ after, Stores (shown (keysOf r.gran r.dpa n) w) r.gran r.dpa bs after ∧
            exec (.remoteRequest r) s = .next (after.answer r.src lane 0 0 0))))) ∧
    (a.expiry < s.ns → exec (.remoteAtomic a) s = .next w) ∧
    (s.ns ≤ a.expiry → s.foreignRefused a.gran a.dpa m = true →
      exec (.remoteAtomic a) s = .next (w.answer a.src (laneOf a.dpa) 0x0106 0 0)) ∧
    (s.ns ≤ a.expiry → s.foreignRefused a.gran a.dpa m = false → ¬ whole a.gran a.dpa m →
      exec (.remoteAtomic a) s = .fault .noSuchMemory) ∧
    (s.ns ≤ a.expiry → s.foreignRefused a.gran a.dpa m = false → whole a.gran a.dpa m →
      (¬ first (.atom a c) → exec (.remoteAtomic a) s = .next (held (.atom a c) counted)) ∧
      (first (.atom a c) → away a.dpa m → exec (.remoteAtomic a) s = .next (held (.atom a c) (counted.recallAt a.dpa m))) ∧
      (first (.atom a c) → ¬ away a.dpa m → s.farLost a.dpa = false → Sound s a.gran a.dpa m → MemOk s →
        ∃ after, Stores (shown (keysOf a.gran a.dpa m) counted) a.gran a.dpa new after ∧
          let own : State := if grant then after.mfab (fun f => { f with
            owned := f.owned ++ [⟨home, some a.src, a.gran, [], false⟩] }) else after
          let said := own.answer a.src (laneOf a.dpa) 0 0 old
          let given : State := if s.fab.replyLost then after.replyLost.answer a.src (laneOf a.dpa) 0x0107 0 0
            else if grant then said.emit ⟨a.src, 3, laneOf a.dpa, .grant home
              (said.dpaRead a.gran (BitVec.ofNat 53 home) 64)⟩
            else said
          exec (.remoteAtomic a) s = .next (if near = true ∧ c = s.fab.cthresh.toNat
            then given.recallAt (BitVec.ofNat 53 (frame * 2 ^ 18)) (2 ^ 18) else given)) ∧
      counted.counter frame = (if near then c else s.counter frame) ∧ ∀ k, k ≠ frame → counted.counter k = s.counter k) ∧
    (s.fab.owned.find? (fun x => decide (x.dpa = line)) = some o → o.owner = none → exec (.lineRecall line) s = .next
      ((s.mfab (fun f => { f with owned := f.owned.erase o })).emit ⟨nodeOf pa, 3, laneOf pa, .line line o.bytes⟩)) ∧
    (∀ q, s.fab.owned.find? (fun x => decide (x.dpa = line)) = some o → o.owner = some q →
      exec (.lineRecall line) s = .next (s.recallAt pa 1)) ∧
    ((∀ x ∈ s.fab.owned, x.dpa ≠ line) → exec (.lineRecall line) s = .next s ∧ exec (.lineReturn line bs) s = .next s) ∧
    (∃ t, exec (.lineRecall line) s = .next t) ∧ (∃ t, exec (.lineReturn line bs) s = .next t) ∧
    (s.fab.owned.find? (fun x => decide (x.dpa = line) && x.owner.isSome) = some o →
      (bs.length = 64 → s.farLost pa = false → whole o.g pa 64 → Sound s o.g pa 64 → MemOk s →
        -- the host sees each word that the line changes, whole, and perhaps others of it
        let key (j : Nat) : Nat := (dpaKey o.g (dpaAdd pa j)).getD 0
        ∃ (seen : List Nat) (fresh : Nat) (after : State), (s.host.unpub = [] → fresh = s.fresh) ∧
          (∀ k ∈ seen, ∃ j < 64, k = key j) ∧
          (∀ j < 64, s.mem.get (key j) ≠ bs.getD j 0 → ∀ i < 64, i / 4 = j / 4 → key i ∈ seen) ∧
          Stores (shown seen { s with fresh := fresh }) o.g pa bs after ∧
          exec (.lineReturn line bs) s = .next (returned after).lineBack) ∧
      (bs.length ≠ 64 → exec (.lineReturn line bs) s = .next (returned (s.poisonLine o)).lineBack)) ∧
    (s.fab.patches = [] → s.fab.held = [] → s.host.waiting = [] → s.lineBack = s) ∧
    ((ringOf s.hub 254).cen = false → ∀ u ∈ unitsOf o.g (BitVec.ofNat 53 o.dpa) 64, ∀ k, dpaKey o.g u = some k → s.ownCode o.g k = true →
      (k, granSize o.g) ∈ (s.poisonLine o).poison) ∧
    -- a recall: every line there that another node owns has been asked for, each once
    (∀ pa n, let t := s.recallAt pa n
      t.core = s.core ∧ t.mem = s.mem ∧ t.hub = s.hub ∧ (∀ x ∈ t.fab.owned, meets x pa n → x.owner ≠ none → x.recalled = true) ∧
      ∀ x ∈ s.fab.owned, meets x pa n → x.recalled = false → ∀ q, x.owner = some q →
        let ask : Msg := ⟨q, 3, laneOf (BitVec.ofNat 53 x.dpa), .recall x.dpa⟩
        ask ∈ t.fab.out ∨ ask ∈ t.fab.sent ∨ s.way q = none) ∧
    -- an answer
    (∀ dst lane code detail v, let reply : Msg := ⟨dst, 4, lane, .reply code detail v⟩
      let t := s.answer dst lane code detail v
      (s.fab.fq = true → t = s.mfab (fun f => { f with out := f.out ++ [reply] })) ∧
      (s.fab.fq = false → s.way dst = none → t = s) ∧
      ∀ q, s.fab.fq = false → s.way dst = some q →
        (s.linkFree q 4 = false → t = s.mfab (fun f => { f with out := f.out ++ [reply] })) ∧
        (s.linkFree q 4 = true → t.fab.sent = s.fab.sent ++ [reply] ∧ t.fab.out = s.fab.out ∧
          t = { s with fab := t.fab, fresh := s.fresh + 1 }))

/-- R352 to R357, R444 to R446: multicast. The sequencer stamps the oldest store that waits, when no member is 256 behind, with
NEXTSEQ, sends it to its neighbours in the tree and answers the issuer; where the group is not valid, or this node is not its
sequencer, the store is refused. A member applies what it holds in the order of the numbers, to its window but never to secure
memory nor to a far die that is lost, and reports at every 32nd and after 1 µs. A store past its expiry is discarded before it is
stamped. A store more than 256 ahead, one out of turn for 20 µs, or one that comes after the entry has lost V, is a gap: what is
held is discarded and APPLIED kept. A member silent for 100 µs with stores beyond its last report is given up. An entry is
written whole while V = 0, and with V = 1 only clearing V counts.

Where the spec leaves a point open the statement rests on the model's reading: logs 105, 107, 139, 140, 175 and 179. -/
def Obligations.MulticastOrdersStores : Prop :=
  ∀ (s : State) (g : BitVec 12) (src : BitVec 10) (ex : Nat) (n off applied : BitVec 32) (bs : List Byte) (v : BitVec 256),
    let x := s.group g
    let stamp : Instr := .multicastStamp g ⟨src, ex⟩ off bs
    let me := s.fab.node
    let stands (i : Instr) : Prop := exec i s = .next s
    let only (t : State) (y : Group) : Prop := t.group g = y ∧ (∀ h, h ≠ g → t.group h = s.group h) ∧ t.core = s.core ∧
      t.parked = s.parked
    -- a message is sent, or waits to be, unless no port serves its destination
    let goes (t : State) (m : Msg) : Prop := m ∈ t.fab.out ∨ m ∈ t.fab.sent ∨ s.portOf m = none
    let told (t : State) (n off : BitVec 32) (bs : List Byte) : Prop :=
      ∀ k ∈ Group.kids x me, goes t ⟨k, 2, BitVec.ofNat 4 n.toNat, .stamped g n off bs⟩
    let answered (t : State) (q0 : BitVec 10) (code : BitVec 16) : Prop :=
      goes t ⟨q0, 4, BitVec.ofNat 4 g.toNat, .reply code 0 0⟩
    let same (t : State) : Prop := t.mem = s.mem ∧ t.hub = s.hub ∧ t.host = s.host
    -- a store that comes from the fabric wakes a module in standby
    let woken (t : State) : Prop := t.mem = s.mem ∧ t.host = s.host ∧
      t.hub = if s.hub.pst = 1 ∨ s.hub.pst = 2 then { s.hub with pst := 3 } else s.hub
    let then_ (t : State) : Prop := if src = me then same t else woken t
    let unlogged : Prop := (ringOf s.hub 254).cen = false
    let live : Prop := x.v = true ∧ x.mem = true ∧ x.gap = false
    let last (k : BitVec 10) : Nat := ((x.reports.find? (fun r => decide (r.1 = k))).map (fun r => r.2.2)).getD x.since
    let word (j : Nat) : Nat := (v.extractLsb' (64 * j) 64).toNat
    let queue := x.queue ++ if src = me then [] else [(src, off, bs, ex)]
    (queue = [] → stands stamp) ∧
    (∃ t, exec stamp s = .next t) ∧
    (∀ q0 o b e0 rest, queue = (q0, o, b, e0) :: rest → e0 < s.ns → ∃ t : State, exec stamp s = .next t ∧
      only t { x with queue := rest } ∧ then_ t ∧ t.fab.out = s.fab.out ∧ t.fab.sent = s.fab.sent) ∧
    (∀ q0 o b e0 rest, queue = (q0, o, b, e0) :: rest → s.ns ≤ e0 → q0 ≠ me →
      ((x.v = false ∨ x.seqnode ≠ me) → ∃ t : State, exec stamp s = .next t ∧
        only t { x with queue := rest } ∧ then_ t ∧ answered t q0 0x0106) ∧
      (x.v = true → x.seqnode = me → (∃ k ∈ Group.members x, k ∉ x.lost ∧ 256 ≤ (x.nextseq - Group.reported x me k).toNat) →
        ∃ t : State, exec stamp s = .next t ∧ only t { x with queue := queue } ∧ then_ t ∧
          t.fab.out = s.fab.out ∧ t.fab.sent = s.fab.sent) ∧
      (live → x.seqnode = me → x.held = [] → x.nextseq = x.applied + 1 →
        (∀ k ∈ Group.members x, k ∈ x.lost ∨ (x.nextseq - Group.reported x me k).toNat < 256) →
        ∃ t : State, exec stamp s = .next t ∧
          only t { x with queue := rest, nextseq := x.nextseq + 1, held := [(x.nextseq, o, b)], waitAt := s.ns } ∧ then_ t ∧
          told t x.nextseq o b ∧ answered t q0 0)) ∧
    (live → x.held = [(x.applied + 1, off, bs)] →
      let pa : Dpa := me ++ (dpaAdd x.wbase off.toNat).extractLsb' 0 43
      let k := x.sinceReport
      let done : Group := { x with applied := x.applied + 1, held := [], appliedAt := s.ns, waitAt := s.ns,
                                   sinceReport := if k = 31 then 0 else k + 1 }
      let reports (t : State) : Prop := k = 31 → x.seqnode ≠ me → goes t ⟨x.seqnode, 5, 0, .report g (x.applied + 1)⟩
      (s.lineAway pa bs.length = true → ∃ t : State, exec (.multicastApply g none) s = .next t ∧ only t x ∧ same t) ∧
      (s.lineAway pa bs.length = false → s.secureBad false x.wg pa bs.length = true → ∃ t : State,
        exec (.multicastApply g none) s = .next t ∧ t.group g = done ∧ reports t ∧ (unlogged → t.mem = s.mem)) ∧
      (s.lineAway pa bs.length = false → s.secureBad false x.wg pa bs.length = false → s.farLost pa = true → ∃ t : State,
        exec (.multicastApply g none) s = .next t ∧ only t done ∧ reports t ∧ same t) ∧
      (s.lineAway pa bs.length = false → s.secureBad false x.wg pa bs.length = false → s.farLost pa = false → Sound s x.wg pa bs.length → ∃ t : State,
        exec (.multicastApply g none) s = .next t ∧ only t done ∧ reports t ∧ t.mem = dpaWriteMem s.mem x.wg pa bs ∧
        t.hub = { s.hub with msbHit := t.hub.msbHit, msbMiss := t.hub.msbMiss })) ∧
    ((¬ live ∨ ∀ h ∈ x.held, h.1 ≠ x.applied + 1) → stands (.multicastApply g none)) ∧
    (live → x.seqnode ≠ me → x.held = [] → 2 ≤ (n - x.applied).toNat → (n - x.applied).toNat ≤ 256 → ∃ t : State,
      exec (.multicastApply g (some (n, off, bs))) s = .next t ∧
        only t { x with held := [(n, off, bs)], waitAt := s.ns } ∧ woken t ∧ told t n off bs) ∧
    (x.v = false → x.lostV = true → x.mem = true → x.gap = false → x.seqnode ≠ me → n ≠ x.applied →
      (n - x.applied).toNat < 2 ^ 31 → ∃ t : State, exec (.multicastApply g (some (n, off, bs))) s = .next t ∧
        t.group g = { x with gap := true, held := [] }) ∧
    (live → x.seqnode ≠ me → 256 < (n - x.applied).toNat → (n - x.applied).toNat < 2 ^ 31 → ∃ t : State,
      exec (.multicastApply g (some (n, off, bs))) s = .next t ∧ t.group g = { x with gap := true, held := [] }) ∧
    (x.seqnode = me → src ∈ Group.members x → ∃ t : State, exec (.appliedReport g src applied) s = .next t ∧
      only t { x with reports := (src, applied, s.ns) :: x.reports.filter (fun r => decide (r.1 ≠ src)) } ∧ same t) ∧
    ((x.seqnode ≠ me ∨ src ∉ Group.members x) → stands (.appliedReport g src applied)) ∧
    (x.v = true → x.mem = true → x.appliedAt + 1000 ≤ s.ns → ∃ t : State, exec (.appliedReportTimer g) s = .next t ∧
      only t { x with sinceReport := 0, appliedAt := s.ns } ∧ same t ∧
      (x.seqnode ≠ me → goes t ⟨x.seqnode, 5, 0, .report g x.applied⟩)) ∧
    ((x.v = false ∨ x.mem = false ∨ s.ns < x.appliedAt + 1000) → stands (.appliedReportTimer g)) ∧
    (live → x.held ≠ [] → (∀ h ∈ x.held, h.1 ≠ x.applied + 1) → x.waitAt + 20000 ≤ s.ns → ∃ t : State,
      exec (.mcastGap g) s = .next t ∧ t.group g = { x with gap := true, held := [] } ∧ (unlogged → t.mem = s.mem)) ∧
    ((x.held = [] ∨ x.gap = true ∨ s.ns < x.waitAt + 20000) → stands (.mcastGap g)) ∧
    (x.v = true → x.seqnode = me → src ∈ Group.members x → src ≠ me → src ∉ x.lost → last src + 100000 ≤ s.ns →
      Group.reported x me src ≠ x.nextseq - 1 → ∃ t : State, exec (.memberReportTimeout g src) s = .next t ∧
        only t { x with lost := x.lost ++ [src] } ∧ same t) ∧
    ((s.ns < last src + 100000 ∨ Group.reported x me src = x.nextseq - 1) → stands (.memberReportTimeout g src)) ∧
    (x.v = false → word 3 / 2 ^ 39 % 16 ≤ 12 → ∃ t : State, exec (.groupEntryWrite .mgmt g v) s = .next t ∧ same t ∧
      (∀ h, h ≠ g → t.group h = s.group h) ∧
      (let y := t.group g
       y.v = (v.getLsbD 0) ∧ y.mem = (v.getLsbD 1) ∧ y.wg = v.extractLsb' 2 2 ∧ y.mmask = v.extractLsb' 66 10 ∧
       y.mbase = v.extractLsb' 76 10 ∧ y.seqnode = v.extractLsb' 86 10 ∧ y.nextseq = v.extractLsb' 96 32 ∧
       y.applied = v.extractLsb' 128 32 ∧ y.wlen = v.extractLsb' 160 32 ∧ y.wbase = v.extractLsb' 192 53 ∧
       y.queue = x.queue ∧ (y.v = true → y.held = [] ∧ y.gap = false ∧ y.lostV = false ∧ y.reports = [] ∧ y.lost = []))) ∧
    (x.v = true → v.getLsbD 0 = true → stands (.groupEntryWrite .mgmt g v)) ∧
    (x.v = true → v.getLsbD 0 = false → x.held = [] → ∃ t : State, exec (.groupEntryWrite .mgmt g v) s = .next t ∧
      only t { x with v := false, lostV := true } ∧ same t) ∧
    stands (.groupEntryWrite .userTask g v) ∧ (s.hub.stage ≠ 5 → stands (.groupEntryWrite .host g v))

/-- R5 to R7, R66, R336, R337, R339, R340, R374, R377, R379: the register block and the router's reconfiguration. A router asked
to be quiet is quiesced once nothing of its node is in flight; only then NODE, NDIM and PORTMAP change, and a reserved value
leaves its field as it is. Releasing it clears QREQ and FQ, and what was held goes on: a request of another node is performed as
one that arrives then, and a message of this module is sent. A write reaches the fields of its register that its agent may write:
here SAVEBASE, DBG, PLIM and STBY, CTHRESH, HMBASE, DRST, SECCL, and CBASE and CTIME of a ring; before boot step 5 the host's
writes and the router's events by register are ignored.

Where the spec leaves a point open the statement rests on the model's reading: logs 109, 137, 141 and 173. -/
def Obligations.RegistersAndRouter : Prop :=
  ∀ (s : State) (node : BitVec 10) (ndim : BitVec 4) (pm : BitVec 48) (v : Word) (a : Agent) (off : BitVec 18) (size : Nat)
    (i : Byte),
    let stands (i : Instr) : Prop := exec i s = .next s
    let w64 (off : BitVec 18) : Instr := .registerWrite a off 8 v
    let may : Prop := (a = .mgmt ∨ a = .privTask ∨ (a = .host ∧ s.host.up = true ∧ s.hub.stage = 5))
    let calm : Prop := ∀ y ∈ s.fab.ports.toList, y.rx = [] ∧ ∀ v : Fin 8, y.owe[v] = 0
    let go (l : List Held) (o : List Msg) : State := s.mfab (fun f => { f with qreq := false, fq := false, held := l, out := o })
    let nd := if ndim.toNat ≤ 10 then ndim else s.fab.ndim
    let g := s.hub.rings.getD i.toNat Ring.reset
    let ring (j : Nat) : BitVec 18 := BitVec.ofNat 18 (0x2000 + 32 * i.toNat + 8 * j)
    let put (g : Ring) : State := s.mhub (fun h => { h with rings := h.rings.set i.toNat g i.isLt })
    (s.hub.stage = 5 → exec .quiesceRequest s = .next (s.mfab (fun f => { f with qreq := true }))) ∧
    (s.fab.qreq = true → (∀ c ∈ s.core :: s.parked.map Prod.snd, ∀ x ∈ c.pend, x.sent = false) → s.fab.held = [] →
      (∀ m ∈ s.fab.out, s.msgHeld m = true) → (∀ p : Fin 12, s.fab.ports[p].rx = []) →
      exec .routerQuiesced s = .next (s.mfab (fun f => { f with fq := true }))) ∧
    ((s.fab.qreq = false ∨ (∃ x ∈ s.core.pend, x.sent = true) ∨ s.fab.held ≠ [] ∨ ∃ p : Fin 12, s.fab.ports[p].rx ≠ []) →
      stands .routerQuiesced) ∧
    (s.hub.stage = 5 →
      (∃ t : State, exec .quiesceRelease s = .next t ∧ t.fab.qreq = false ∧ t.fab.fq = false ∧ t.core.regs = s.core.regs) ∧
      (calm → s.fab.held = [] → s.fab.out = [] → exec .quiesceRelease s = .next (go [] [])) ∧
      (∀ m, calm → s.fab.held = [] → s.fab.out = [m] → exec .quiesceRelease s = .next ((go [] []).emit m)) ∧
      (∀ r, calm → s.fab.held = [.req r] → s.fab.out = [] → s.hub.pst = 0 → s.ns ≤ r.expiry →
        s.foreignRefused r.gran r.dpa (RemoteKind.bytes r.kind) = false →
        (∀ i < RemoteKind.bytes r.kind, dpaKey r.gran (dpaAdd r.dpa i) ≠ none) →
        exec .quiesceRelease s = exec (.remoteRequest r) (go [] []))) ∧
    (s.hub.stage ≠ 5 → stands .quiesceRequest ∧ stands .quiesceRelease) ∧
    ((s.fab.fq = false ∨ s.hub.stage ≠ 5) → stands (.fabricRelabel node ndim pm)) ∧
    (s.fab.fq = true → s.hub.stage = 5 → ∃ m : BitVec 48, exec (.fabricRelabel node ndim pm) s = .next (s.mfab (fun f =>
        { f with node := if node.toNat < 2 ^ nd.toNat then node else f.node, ndim := nd, qreq := true, fq := true,
                 portmap := m, ports := f.ports.map (fun p => { p with down := false }) })) ∧
      ∀ p < 12, m.extractLsb' (4 * p) 4 = (let n := pm.extractLsb' (4 * p) 4
        if 10 ≤ n.toNat ∧ n.toNat ≤ 14 then s.fab.portmap.extractLsb' (4 * p) 4 else n)) ∧
    (a = .host → (s.host.up = false ∨ s.hub.stage ≠ 5) → stands (.registerWrite a off size v)) ∧
    ((size ≠ 1 ∧ size ≠ 2 ∧ size ≠ 4 ∧ size ≠ 8) ∨ off.toNat % size ≠ 0 → stands (.registerWrite a off size v)) ∧
    (may →
      (dieCode (v.extractLsb' 0 53) ≠ 15 →
        exec (w64 0x18) s = .next (s.mhub (fun h => { h with savebase := v &&& 0x001FFFFFFFFC0000 }))) ∧
      (dieCode (v.extractLsb' 0 53) = 15 → stands (w64 0x18)) ∧
      exec (w64 0x20) s = .next (s.mhub (fun h => { h with dbgEn := v.getLsbD 63, dbgAsid := v.extractLsb' 0 13 })) ∧
      (∃ hot cool, exec (w64 0x200) s = .next (s.mhub (fun h =>
        { h with plim := v.extractLsb' 4 12, stby := v.getLsbD 0, hotAt := hot, coolAt := cool }))) ∧
      exec (w64 0x4018) s = .next (s.mfab (fun f => { f with cthresh := v.extractLsb' 0 8 })) ∧
      exec (w64 0x4020) s = .next (s.mfab (fun f => { f with hmbase := v.extractLsb' 39 25 })) ∧
      (v.getLsbD 4 = false → exec (w64 0x08) s = .next (s.mhub (fun h =>
        { h with drst := v.extractLsb' 0 4, failedTest := h.failedTest &&& ~~~(v.extractLsb' 0 4) }))) ∧
      (v.getLsbD 4 = true → exec (w64 0x08) s = exec .moduleReset s)) ∧
    ((a = .host → s.host.up = true ∧ s.hub.stage = 5) → i ≠ 255 →
      exec (w64 (ring 0)) s = .next (put { g with
        cbase := if g.cen = true ∨ 14 ≤ dieCode (v.extractLsb' 0 53) then g.cbase else v.extractLsb' 0 53 }) ∧
      exec (w64 (ring 2)) s = .next (put { g with ctime := v.extractLsb' 0 32 })) ∧
    (a = .userTask → stands (w64 0x18) ∧ stands (w64 0x20) ∧ stands (w64 0x200) ∧ stands (w64 0x4018) ∧ stands (w64 0x4000)) ∧
    (a = .bootRoot → exec (w64 0x4028) s = .next (s.mhub (fun h => { h with seccl := v.extractLsb' 0 8 }))) ∧
    (a ≠ .bootRoot → stands (w64 0x4028))

/-! ### Events of the host, of boot and power, and failures -/

/-- R350, R360, R363, R364, R366, R370, R371, R373, R378, R387, R447, R448, R450: the host. A read through an enabled window
answers the published bytes, and a write stores its bytes at the home; one whose line is another node's waits, as do those behind
it; one outside every window, to another node's coordinate, through a secure window without IDE, or through one that is not
secure to secure memory is refused:
a read is answered with ones as bad, with a machine check. A read that meets an uncorrectable unit is answered as bad. The port
going down ends IDE and the session; FINISH of an open session sets up IDE; measurements are answered as they were recorded.

Where the spec leaves a point open the statement rests on the model's reading: logs 87, 111, 114, 129, 138 and 150. -/
def Obligations.HostAccessesWindows : Prop :=
  ∀ (s : State) (hdm : BitVec 40) (n : Nat) (bs : List Byte) (i : Fin 64) (r : SpdmReq),
    let w := s.host.windows[i.val]
    let k : State := if s.hub.pst = 1 ∨ s.hub.pst = 2 then s.mhub (fun h => { h with pst := 3 }) else s
    let at_ := hdm.toNat - w.hdmoff.toNat * 2 ^ 18
    let pa : Dpa := dpaAdd w.dbase at_
    let ours : Prop := nodeOf pa = s.fab.node
    let inside (x : Window) (n : Nat) : Prop := x.en = true ∧ x.hdmoff.toNat * 2 ^ 18 ≤ hdm.toNat ∧
      hdm.toNat + n ≤ (x.hdmoff.toNat + x.len.toNat) * 2 ^ 18
    let hits (n : Nat) : Prop := inside w n ∧ ∀ j < i.val, ∀ x, s.host.windows[j]? = some x → ¬ inside x n
    let exists_ (n : Nat) : Prop := ∀ j < n, dpaKey w.g (dpaAdd pa j) ≠ none
    let allowed (n : Nat) : Prop := (w.sec = true → s.host.ide = true) ∧ s.secureBad w.sec w.g pa n = false
    let here (n : Nat) : Prop := s.host.waiting = [] ∧ s.lineAway pa n = false
    let answer (s : State) (bs : List Byte) (bad : Bool) : State :=
      s.mhost (fun h => { h with answers := h.answers ++ [(bs, bad)] })
    let refused (s : State) : State := s.machineCheck 0 18 4 0x0109 hdm.toNat none
    let ones (s : State) : State := answer (refused s) (List.replicate n 0xFF) true
    let wait (x : HostMem) (s : State) : State := s.mhost (fun p => { p with waiting := p.waiting ++ [x] })
    let seen (k : Nat) : Byte := match s.host.unpub.find? (fun u => decide (u.key = k)) with
      | some u => u.old
      | none => s.mem.get k
    let shown (s : State) : State := s.mhost (fun p =>
      { p with unpub := p.unpub.filter (fun u => !(keysOf w.g pa bs.length).contains u.key) })
    (s.host.up = false → exec (.hostWindowRead hdm n) s = .next s ∧ exec (.hostWindowWrite hdm bs) s = .next s) ∧
    (s.host.up = true → (∀ x : Fin 64, ¬ inside s.host.windows[x.val] n) →
      exec (.hostWindowRead hdm n) s = .next (ones k)) ∧
    (s.host.up = true → (∀ x : Fin 64, ¬ inside s.host.windows[x.val] bs.length) →
      exec (.hostWindowWrite hdm bs) s = .next (refused k)) ∧
    (s.host.up = true → hits n → ¬ ours → exec (.hostWindowRead hdm n) s = .next (ones k)) ∧
    (s.host.up = true → hits bs.length → ¬ ours → exec (.hostWindowWrite hdm bs) s = .next (refused k)) ∧
    (s.host.up = true → hits n → ours → ¬ exists_ n → exec (.hostWindowRead hdm n) s = .fault .noSuchMemory) ∧
    (s.host.up = true → hits bs.length → ours → ¬ exists_ bs.length → exec (.hostWindowWrite hdm bs) s = .fault .noSuchMemory) ∧
    (s.host.up = true → hits n → exists_ n → w.sec = true → s.host.ide = false →
      exec (.hostWindowRead hdm n) s = .next (ones k)) ∧
    (s.host.up = true → hits n → ours → exists_ n → w.sec = false → s.secureBad false w.g pa n = true →
      exec (.hostWindowRead hdm n) s = .next (ones (k.refusalCheck 0x0102 w.g pa))) ∧
    (s.host.up = true → hits n → ours → exists_ n → allowed n →
      (s.host.waiting ≠ [] → exec (.hostWindowRead hdm n) s = .next (wait (.read hdm n) k)) ∧
      (s.host.waiting = [] → s.lineAway pa n = true →
        exec (.hostWindowRead hdm n) s = .next (wait (.read hdm n) (k.recallAt pa n))) ∧
      (here n → Sound s w.g pa n → ∃ (after : State) (out : List Byte), Reads k after ∧
        exec (.hostWindowRead hdm n) s = .next (answer after out false) ∧
        out.length = n ∧ ∀ j < n, ∀ k, dpaKey w.g (dpaAdd pa j) = some k → out.getD j 0 = seen k) ∧
      (∀ u, here n → (unitsOf w.g pa n).find? (s.unitBad w.g) = some u → ∃ (after : State) (out : List Byte),
        exec (.hostWindowRead hdm n) s = .next (answer after out true))) ∧
    (s.host.up = true → hits bs.length → ours → exists_ bs.length → allowed bs.length →
      (s.host.waiting ≠ [] → exec (.hostWindowWrite hdm bs) s = .next (wait (.write hdm bs) k)) ∧
      (s.host.waiting = [] → s.lineAway pa bs.length = true →
        exec (.hostWindowWrite hdm bs) s = .next (wait (.write hdm bs) (k.recallAt pa bs.length))) ∧
      (here bs.length → Sound s w.g pa bs.length → MemOk s → ∃ after, Stores (shown k) w.g pa bs after ∧
        exec (.hostWindowWrite hdm bs) s = .next after)) ∧
    exec .hostPortDown s = .next (s.mhost (fun h => { h with up := false, ide := false, spdm := false })) ∧
    exec .hostPortTraining s = .next (s.mhost (fun h => { h with up := true })) ∧
    ∃ out : List Byte, exec (.spdmRequest r) s = .next { s with fresh := s.fresh + 1, host := { s.host with
        responses := s.host.responses ++ [out]
        spdm := (match r with
          | .keyExchange => true
          | .finish ok => s.host.spdm && ok
          | .endSession => false
          | _ => s.host.spdm)
        ide := (match r with
          | .finish ok => s.host.ide || (s.host.spdm && ok)
          | _ => s.host.ide) } } ∧
      (r = .getMeasurements 8 → leBytes 8 s.hub.wcslds <:+ out) ∧
      ∀ k, r = .getMeasurements k → 1 ≤ k → k ≤ 7 → leBytes 32 (s.hub.measures.getD k 0).toNat <:+ out

/-- R335, R369, R370, R376 to R379, R385 to R387, R419, R451: reset, boot and power. A module reset leaves the reset state; what is
outside the module stays. Boot goes on step by step: it measures what each step verifies, step 3 writes SECCL and the near-die
region tables, and it stops for good when an image fails. From step 5 on a die asked to reset enters reset when no live task is
its and no access of its cores is left, which clears its cores; it leaves reset when released, with its cores reset and the weight
store of another die out of reset, unless its self-test fails after its rind has closed. An idle module enters standby in two
steps, and wakes in two. The clock moves one step at a time between 0 and 3: down while power is above PLIM or a die at 95 °C, at
once and after each further 1 ms, and up after 10 ms below PLIM − 100 W and 90 °C; in standby it stays.

Where the spec leaves a point open the statement rests on the model's reading: logs 88, 90, 92, 93, 94, 133, 141 and 157. -/
def Obligations.ResetBootAndPower : Prop :=
  ∀ (s : State) (d : BitVec 2) (mask : BitVec 4) (ok : Bool) (bad : Option (BitVec 5)),
    let h := s.hub
    let upd (i : Instr) (f : Hub → Hub) : Prop := exec i s = .next (s.mhub f)
    let stands (i : Instr) : Prop := exec i s = .next s
    let n := d.toNat
    let off : BitVec 4 := ~~~(1#4 <<< n)
    let idle : Prop := (∀ r ∈ h.regs, r.st = 3) ∧ h.inbox = []
    let step := if h.rom = true then h.stage.toNat + 1 else 0
    let goes : Prop := h.bootFailed = false ∧ h.fatal = false ∧ step ≤ 5
    let verified : Prop := bad = none ∨ (step ≠ 0 ∧ step ≠ 2 ∧ step ≠ 3)
    let measured (m : Vector (BitVec 256) 8) (is : List Nat) : Prop := ∀ i : Fin 8, i.val ≠ 7 →
      m[i.val] = if i.val ∈ is then digest (Config.image i.val) else h.measures[i.val]
    let busy : Prop := (∃ t ∈ h.tasks, t.st.live = true ∧ dieOf t.core = n) ∨
      ∃ c ∈ s.cur :: s.parked.map Prod.fst, dieOf c = n ∧ ((s.getCore c).pend ≠ [] ∨ (s.getCore c).port ≠ [])
    let cleared (t : State) : Prop := (t.core = if dieOf s.cur = n then s.core.inReset else s.core) ∧
      ((s.parked.map Prod.fst).Pairwise (· < ·) → ∀ c, c ≠ s.cur →
        t.getCore c = if dieOf c = n then (s.getCore c).inReset else s.getCore c)
    let asked : Bool := h.stby || decide (h.stage = 5)
    let due (x : Option Nat) : Prop := ∃ t, x = some t ∧ t ≤ s.ns
    let limit := if 600 ≤ h.plim.toNat ∧ h.plim.toNat ≤ 2400 then h.plim.toNat else 2400
    let mw := (((h.sensed.find? (fun p => decide (p.1 = 0x400))).map Prod.snd).getD 0).toNat
    let hot : Prop := 1000 * limit < mw ∨ ∃ i < 17, 95000 ≤ h.dieTemp i
    let cool : Prop := mw < 1000 * (limit - 100) ∧ ∀ i < 17, h.dieTemp i < 90000
    let kept := h.sensed.filter (fun p => decide (0x410 ≤ p.1))
    exec .moduleReset s = .next { State.reset with
      agenda := s.agenda, fresh := s.fresh,
      hub := { Hub.reset with
        sensed := kept
        hotAt := if (List.range 17).any (fun i => decide (95000 ≤ h.dieTemp i)) then some 0 else none
        coolAt := if (List.range 17).all (fun i => decide (h.dieTemp i < 90000)) then some 10000000 else none },
      host := { HostPort.reset with mem := s.host.mem, written := s.host.written, msix := s.host.msix,
                                    answers := s.host.answers, responses := s.host.responses } } ∧
    (¬ goes → stands (.bootStep bad)) ∧
    (goes → verified →
      (step = 0 → ∃ m, upd (.bootStep bad) (fun h => { h with rom := true, measures := m }) ∧ measured m [1] ∧
        m[7] = h.measures[7]) ∧
      (step = 1 ∨ 4 ≤ step → upd (.bootStep bad) (fun h => { h with stage := h.stage + 1 })) ∧
      (step = 2 → ∃ m, upd (.bootStep bad) (fun h => { h with stage := h.stage + 1, measures := m }) ∧
        measured m [2, 3, 4, 5] ∧ m[7] = h.measures[7]) ∧
      (step = 3 → ∃ m tables, upd (.bootStep bad) (fun h =>
          { h with stage := h.stage + 1, measures := m, seccl := Config.seccl, regions := tables }) ∧
        measured m [6] ∧ (∀ i : Fin 128, tables[i.val] = Config.region i.val &&& 0x8000000FFFFFFFFF) ∧
        m[7] = digest (Config.seccl :: tables.toList.flatMap (fun e => leBytes 8 e.toNat) ++ Config.keyHash))) ∧
    (∀ die, goes → bad = some die → step = 0 → upd (.bootStep bad) (fun h => { h with bootFailed := true })) ∧
    (∀ die, goes → bad = some die → (step = 2 ∨ step = 3) → exec (.bootStep bad) s =
      .next ((s.mhub (fun h => { h with bootFailed := true })).machineCheck 3 13 die.toNat 0 0 none)) ∧
    (h.stage ≠ 5 → stands (.dieResetRequest mask)) ∧
    (h.stage = 5 → upd (.dieResetRequest mask) (fun h =>
      { h with drst := h.drst ||| mask, failedTest := h.failedTest &&& ~~~(h.drst ||| mask) })) ∧
    ((h.drst.getLsbD n = false ∨ h.din.getLsbD n = true ∨ busy) → stands (.dieEntersReset d)) ∧
    (h.drst.getLsbD n = true → h.din.getLsbD n = false → ¬ busy → ∃ t : State, exec (.dieEntersReset d) s = .next t ∧
      cleared t ∧ t.hub = { h with din := h.din ||| (1#4 <<< n) } ∧ t.tlb = s.tlb.filter (fun t => decide (t.die ≠ n)) ∧
      t.mem = s.mem ∧ t.wstore = s.wstore) ∧
    (s.core.inReset.regs = Regs.reset ∧ s.core.inReset.sys = SysRegs.reset ∧ s.core.inReset.mode = .free ∧
      s.core.inReset.task = none ∧ s.core.inReset.spad = [] ∧ s.core.inReset.side = [] ∧ s.core.inReset.curd = Curd.reset ∧
      s.core.inReset.retired = s.core.retired) ∧
    (h.din.getLsbD n = false → upd (.dieRelease d ok) (fun h => { h with drst := h.drst &&& off })) ∧
    (h.din.getLsbD n = true → h.rind.getLsbD n = true → exec (.dieRelease d false) s =
      .next ((s.mhub (fun h => { h with drst := h.drst &&& off, failedTest := h.failedTest ||| (1#4 <<< n) })).machineCheck
        2 19 n 0x0404 0 none)) ∧
    (h.din.getLsbD n = true → (h.rind.getLsbD n = true → ok = true) → ∃ t : State, exec (.dieRelease d ok) s = .next t ∧
      cleared t ∧ t.mem = s.mem ∧
      t.hub = { h with drst := h.drst &&& off, din := h.din &&& off, rind := h.rind &&& off, wLost := h.wLost &&& off } ∧
      ((∀ x < 4, x ≠ n → h.din.getLsbD x = true) →
        t.wstore = if h.wLost.getLsbD n then s.wstore.setIfInBounds n [] else s.wstore) ∧
      ((∃ x < 4, x ≠ n ∧ h.din.getLsbD x = false) → ∃ x < 4, x ≠ n ∧ h.din.getLsbD x = false ∧
        t.wstore = s.wstore.setIfInBounds n (s.wstore.getD x []))) ∧
    (asked = false → stands .standbyRequest) ∧
    (asked = true →
      (h.pst = 0 → idle → upd .standbyRequest (fun h => { h with stby := true, pst := 2 })) ∧
      (h.pst = 2 → idle → upd .standbyRequest (fun h => { h with stby := true, pst := 1, clk := 3 })) ∧
      (h.pst = 2 → ¬ idle → upd .standbyRequest (fun h => { h with stby := true, pst := 0 })) ∧
      ((h.pst = 0 ∧ ¬ idle) ∨ h.pst = 1 ∨ h.pst = 3 → upd .standbyRequest (fun h => { h with stby := true }))) ∧
    (h.pst = 3 → upd .standbyWake (fun h => { h with pst := 0 })) ∧
    ((h.pst = 1 ∨ h.pst = 2) → upd .standbyWake (fun h => { h with pst := 3 })) ∧ (h.pst = 0 → stands .standbyWake) ∧
    (¬ due h.hotAt → stands .clockStepDown) ∧
    (due h.hotAt → upd .clockStepDown (fun h =>
      { h with clk := if h.clk = 3 then 3 else h.clk + 1, hotAt := some (s.ns + 1000000) })) ∧
    ((¬ due h.coolAt ∨ h.pst = 1) → stands .clockStepUp) ∧
    (due h.coolAt → h.pst ≠ 1 → upd .clockStepUp (fun h =>
      { h with clk := if h.clk = 0 then 0 else h.clk - 1, coolAt := some (s.ns + 10000000) })) ∧
    -- when the two conditions hold, from a new reading on
    (hot → h.hotAt = none → s.judge.hub.hotAt = some s.ns) ∧ (¬ hot → s.judge.hub.hotAt = none) ∧
    (cool → h.coolAt = none → s.judge.hub.coolAt = some (s.ns + 10000000)) ∧ (¬ cool → s.judge.hub.coolAt = none)

/-- R57, R398, R399, R409, R411, R417, R418, R424 to R426, R429: failures that are not an operation's own. A patrol of a sound unit
changes nothing; one symbol in error is corrected in place and recorded; a unit found uncorrectable is poisoned and recorded; one
whose errors decode to wrong data is taken for sound; a unit under another granule, or of a lost far die, is not patrolled, and
memory that does not exist stops it. A far die is lost for good, with a machine check. When the rind closes round a die,
or a core has not halted 4 µs after it was asked to, the die is in reset and no task of a context whose domain holds it lives;
a second closing does nothing. A task with a fault that no rollback undoes is killed; a phase that may roll back does.

Where the spec leaves a point open the statement rests on the model's reading: logs 83, 84, 86 and 114. -/
def Obligations.FailuresAreContained : Prop :=
  ∀ (s : State) (die : BitVec 4) (off : BitVec 39) (g f d : BitVec 2) (u : Nat) (tid : Nat) (c : BitVec 9) (e : LateFault),
    let stands (i : Instr) : Prop := exec i s = .next s
    let patrol : Instr := .patrolScrub die off g
    let at_ : Dpa := s.fab.node ++ die ++ off
    let unit : Prop := (dpaKey g at_).map (unitAt g) = some u
    -- a patrol reads the cells, whatever a memory-side buffer holds
    let cells : State := { s with buf := [] }
    let check (s : State) (code : BitVec 16) : State :=
      s.machineCheck 0 (keyUnit u) (keyDie u) code (unitDpa s.fab.node u (granSize g)).toNat none
    let closed (t : State) (n : Nat) : Prop := t.hub.rind.getLsbD n = true ∧ t.hub.din.getLsbD n = true ∧
      t.hub.drst.getLsbD n = true ∧ ((s.hub.tasks.map Task.id).Nodup → ∀ x ∈ t.hub.tasks, ∀ r, t.leafOf x = some r →
        r.f.dies.getLsbD n = true → (s.leafOf x).any (fun r => decide (r.st ≠ 3)) = true → x.st.live = false)
    let taken : FaultInfo := ⟨e.code, e.detail, e.slot, 0, 0, 0, 0, s.core.eng.cidx, e.pc, e.btag, decide (e.code = 0x0107), e.saw⟩
    let cleared := s.mc (fun c => { c with ctl := { c.ctl with late := [] } })
    (dpaKey g at_ = none → exec patrol s = .fault .noSuchMemory) ∧
    (unit → (s.farLost (unitDpa s.fab.node u (granSize g)) = true ∨ s.ownCode g u = false) → stands patrol) ∧
    (unit → s.farLost (unitDpa s.fab.node u (granSize g)) = false → s.ownCode g u = true →
      (s.poison = [] → (∀ e ∈ s.flips, unitAt g e.1 ≠ u) → stands patrol) ∧
      (∀ e, s.poison = [] → s.flips = [e] → unitAt g e.1 = u → e.2 ≠ 0 → (g = 0 → ∃ i : Fin 8, e.2 = 1#8 <<< i.val) →
        exec patrol s = .next (check { s with flips := [], codes := codeUnit g s.codes u } 0)) ∧
      (cells.decodes g u = .failed → exec patrol s = .next (check { s with
          poison := if (u, granSize g) ∈ s.poison then s.poison else (u, granSize g) :: s.poison
          flips := s.flips.filter (fun e => decide (unitAt g e.1 ≠ u)) } 0x0103).draw.2) ∧
      ((u, granSize g) ∈ s.poison → cells.decodes g u = .failed) ∧
      (cells.decodes g u = .wrong → ∃ t : State, exec patrol s = .next t ∧ t.poison = s.poison ∧ t.hub = s.hub ∧
        t.flips = s.flips.filter (fun e => decide (unitAt g e.1 ≠ u)) ∧
        ∀ a, (a < u ∨ u + granSize g ≤ a) → MemOk s → t.mem.get a = s.mem.get a)) ∧
    (s.hub.lostFar.getLsbD f.toNat = true → stands (.farDieLoss f)) ∧
    (s.hub.lostFar.getLsbD f.toNat = false → (∀ m ∈ s.hub.migs, m.engine ≠ f.toNat) → exec (.farDieLoss f) s =
      .next ((s.mhub (fun h => { h with lostFar := h.lostFar ||| (1#4 <<< f.toNat) })).machineCheck 2 18 (13 + f.toNat) 0x0103
        0 none)) ∧
    (s.hub.rind.getLsbD d.toNat = true → stands (.rindClose d)) ∧
    (s.hub.rind.getLsbD d.toNat = false → ∃ t : State, exec (.rindClose d) s = .next t ∧ closed t d.toNat) ∧
    (∀ t0, (s.getCore c.toNat).preempt = some t0 → (s.getCore c.toNat).mode = .running →
      (s.getCore c.toNat).stoppedByHand = false → t0 + 4000 ≤ s.ns → s.hub.rind.getLsbD (dieOf c.toNat) = false →
      ∃ t : State, exec (.preemptHaltTimeout c) s = .next t ∧ closed t (dieOf c.toNat)) ∧
    (((s.getCore c.toNat).preempt = none ∨ ∃ t0, (s.getCore c.toNat).preempt = some t0 ∧ s.ns < t0 + 4000) →
      stands (.preemptHaltTimeout c)) ∧
    (s.core.ctl.late = [e] → rollable e.code = true → s.core.canRoll none = true →
      exec .phaseRollback s = .next (cleared.takeFaults none [taken])) ∧
    ((s.core.ctl.late = [] ∨ s.core.canRoll none = false) → stands .phaseRollback) ∧
    (∀ t, s.task? tid = some t → t.core = s.cur → t.st ≠ .saved → s.core.task = some tid → s.core.ctl.late = [e] →
      rollable e.code = false → ∃ t' : State, exec (.taskKill tid) s = .next t' ∧
        (t'.task? tid).map Task.st = some (if t.st.live then .killed else t.st)) ∧
    (∀ t, s.task? tid = some t → t.core = s.cur → s.core.task ≠ some tid → s.core.retired = false → stands (.taskKill tid)) ∧
    (∀ t, s.task? tid = some t → t.core = s.cur → t.st = .saved → s.core.retired = true → ∃ t' : State,
      exec (.taskKill tid) s = .next t' ∧ (t'.task? tid).map Task.st = some .killed)

/-- R55 to R58, R179, R340, R343, R344, R346, R347, R350, R377, R379, R386 to R388, R439, R440: where the events of the system
registers, of pre-emption, of the links, of a home, of the router, and of reset and power complete, each with its own effect, and
what they then leave alone: the memory of the module, what the host sees, and, but for a die in reset and the module reset, the
registers and memories of every core. The statements of their results say the rest. -/
def Obligations.EventsCompleteWithTheirFrame : Prop :=
  ∀ (s : State) (g : PReg) (d a : SReg) (r : SysReg) (n : BitVec 9) (tid : Nat) (k : Task) (v : Saved) (port : BitVec 4) (f : Flit)
    (x : Port) (seq : BitVec 12) (free : List (BitVec 6)) (ref : Word) (die : BitVec 2) (mask : BitVec 4),
    let still (t : State) : Prop := t.mem = s.mem ∧ t.host = s.host ∧ t.wstore = s.wstore
    let cores (t : State) : Prop := t.core = s.core ∧ t.parked = s.parked
    let at_ (t : State) (p : Nat) (ok : Port → Prop) : Prop := ∃ y, t.fab.ports[p]? = some y ∧ ok y
    let p := port.toNat
    let h := s.hub
    let mine : Prop := s.task? tid = some k ∧ k.peers = [] ∧ s.leafOf k ≠ none
    let st (t : State) : Option TState := (t.task? tid).map Task.st
    (Ready s → s.preg g = true →
      (∃ (t : State) (w : Word), exec (.rdsr g d r) s = .next (State.occupyS 1 (t.landS 1 .s d w)) ∧ cores t ∧ still t) ∧
      exec (.wrsr g r a) s = .next (State.occupyS 1 (s.land 1 .s (.sys r (s.sreg a)) 0))) ∧
    (mine → k.core = n.toNat → (s.getCore n.toNat).task = some tid → s.mayPreempt n.toNat = true →
      ∃ t : State, exec (.preemptionRequest n) s = .next t ∧ still t ∧ st t = some .halting ∧
        (t.getCore n.toNat).preempt = some s.ns ∧ (t.getCore n.toNat).regs = (s.getCore n.toNat).regs) ∧
    (mine → s.core.task = some tid → s.core.saveable = true → s.core.rolling = false → s.core.marks = [] → s.core.eng.blk.bad = false →
      s.core.eng.standby.bad = false → ∃ t : State, exec .stateSave s = .next t ∧ t.host = s.host ∧ st t = some .saved ∧
        t.core.mode = .free ∧ t.parked = s.parked ∧ ∃ y ∈ t.hub.saves, y.task = tid ∧ y.image.regs = s.core.regs) ∧
    (mine → v.task = tid → s.savedOn s.cur = [v] →
      (s.core.mode ≠ .resuming → s.resumable v = true → h.saves.find? (fun y => decide (y.task = tid)) = some v →
        ∃ t : State, exec .taskResume s = .next t ∧ still t ∧ st t = some .resuming ∧ t.core.regs = s.core.regs) ∧
      (s.core.mode = .resuming → s.core.task = some tid → s.farLost (s.saveArea s.cur v.depth) = false → s.badIn 1 (s.saveArea s.cur v.depth) 2621440 = none →
        ∃ t : State, exec .taskResume s = .next t ∧ still t ∧ st t = some .running ∧ t.core.regs = v.image.regs ∧
          t.parked = s.parked)) ∧
    (p < 12 → s.fab.ports[p]? = some x → x.up = true →
      (Machine.Flit.intact f = true → (f.kind ≠ 0 ∨ f.cinc ≠ 0) → f.seq = x.rxSeq + 1 →
        ∃ t : State, exec (.flitReceive port f) s = .next t ∧ still t ∧ cores t ∧ at_ t p (fun y => y.rxSeq = f.seq)) ∧
      (∃ t : State, exec (.linkRetry port seq) s = .next t ∧ still t ∧ cores t ∧ at_ t p (fun y => y.ackSeen = seq)) ∧
      ((∃ q ∈ x.tries, 8 ≤ q.2) → ∀ ok, ∃ t : State, exec (.linkRetrain port ok free) s = .next t ∧ cores t ∧
        at_ t p (fun y => ok = true → y.up = true ∧ y.tries = []))) ∧
    (p < 12 → s.fab.ports[p]? = some x → x.down = false → s.fab.ndim ≠ 0 → ∃ t : State, exec (.linkTraining port) s = .next t ∧ still t ∧ cores t ∧
      at_ t p (fun y => y.up = true)) ∧
    (s.fab.halved < s.ns / 16000 → ∃ t : State, exec .contentionHalving s = .next t ∧ still t ∧ cores t ∧ t.hub = h ∧
      t.fab.halved = s.fab.halved + 1 ∧ ((s.fab.counters.map Prod.fst).Nodup → ∀ c, t.counter c = s.counter c / 2)) ∧
    (s.fab.node ≠ 0 → ∃ t : State, exec (.timeSync ref) s = .next t ∧ still t ∧ cores t ∧ t.hub = h ∧ s.dsub ≤ t.dsub) ∧
    (∀ (q : RemoteReq) (m : Nat), q.kind = .read m → s.ns ≤ q.expiry → s.foreignRefused q.gran q.dpa m = false →
      (∀ i < m, dpaKey q.gran (dpaAdd q.dpa i) ≠ none) →
      ∃ t : State, exec (.remoteRequest q) s = .next t ∧ cores t ∧ ((s.fab.fq = false ∧ s.fab.held = [] ∧
        s.lineAway q.dpa m = false ∧ Sound s q.gran q.dpa m) → t.fab.held = [] ∧ still t)) ∧
    (∀ (q : RemoteAtom), let m := if q.eight then 8 else 4
      s.ns ≤ q.expiry → s.foreignRefused q.gran q.dpa m = false → (∀ i < m, dpaKey q.gran (dpaAdd q.dpa i) ≠ none) →
      ∃ t : State, exec (.remoteAtomic q) s = .next t ∧ cores t ∧
        (dieCode q.dpa ≤ 8 → t.counter (q.dpa.toNat / 2 ^ 18) = min (s.counter (q.dpa.toNat / 2 ^ 18) + 1) 255)) ∧
    (∀ o ∈ s.fab.owned, s.fab.owned = [o] →
      (o.owner = none → ∃ t : State, exec (.lineRecall o.dpa) s = .next t ∧ still t ∧ cores t ∧ t.fab.owned = []) ∧
      (o.owner ≠ none → o.dpa < 2 ^ 53 → ∃ t : State, exec (.lineRecall o.dpa) s = .next t ∧ still t ∧ cores t ∧
        ∀ y ∈ t.fab.owned, y.recalled = true) ∧
      (o.owner ≠ none → ∀ bs, s.fab.patches = [] → s.fab.held = [] → s.host.waiting = [] →
        ∃ t : State, exec (.lineReturn o.dpa bs) s = .next t ∧ cores t ∧ t.fab.owned = [])) ∧
    (h.stage = 5 →
      (∃ t : State, exec .quiesceRequest s = .next t ∧ still t ∧ cores t ∧ t.fab.qreq = true) ∧
      (∃ t : State, exec .quiesceRelease s = .next t ∧ cores t ∧ t.fab.qreq = false ∧ t.fab.fq = false) ∧
      (s.fab.fq = true → ∃ t : State, exec (.fabricRelabel 0 1 0xFFFFFFFFFFFF) s = .next t ∧ still t ∧ cores t ∧ t.hub = h ∧
        t.fab.node = 0 ∧ t.fab.ndim = 1 ∧ t.fab.portmap = 0xFFFFFFFFFFFF) ∧
      (∃ t : State, exec (.dieResetRequest mask) s = .next t ∧ still t ∧ cores t ∧ t.hub.drst = h.drst ||| mask) ∧
      (∃ t : State, exec .standbyRequest s = .next t ∧ still t ∧ cores t ∧ t.hub.stby = true)) ∧
    (s.fab.qreq = true → s.fabricQuiet = true → ∃ t : State, exec .routerQuiesced s = .next t ∧ still t ∧ cores t ∧
      t.fab.fq = true) ∧
    (∀ w, ∃ t : State, exec (.registerWrite .mgmt 0x4018 8 w) s = .next t ∧ still t ∧ cores t ∧ t.hub = h ∧
      t.fab.cthresh = w.extractLsb' 0 8) ∧
    (∃ t : State, exec .moduleReset s = .next t ∧ t.mem = [] ∧ t.core = Core.reset ∧
      t.hub = { Hub.reset with sensed := t.hub.sensed, hotAt := t.hub.hotAt, coolAt := t.hub.coolAt } ∧
      t.host.mem = s.host.mem) ∧
    (h.bootFailed = false → h.fatal = false → h.rom = true → h.stage.toNat < 5 → ∃ t : State, exec (.bootStep none) s = .next t ∧
      still t ∧ cores t ∧ t.hub.stage = h.stage + 1) ∧
    (h.drst.getLsbD die.toNat = true → h.din.getLsbD die.toNat = false → s.dieBusy die.toNat = false →
      ∃ t : State, exec (.dieEntersReset die) s = .next t ∧ still t ∧ t.hub.din.getLsbD die.toNat = true) ∧
    (h.din.getLsbD die.toNat = true → ∃ t : State, exec (.dieRelease die true) s = .next t ∧ t.mem = s.mem ∧ t.host = s.host ∧
      t.hub.din.getLsbD die.toNat = false ∧ t.hub.drst.getLsbD die.toNat = false) ∧
    (h.pst ≠ 0 → ∃ t : State, exec .standbyWake s = .next t ∧ still t ∧ cores t ∧ t.hub.pst = if h.pst = 3 then 0 else 3) ∧
    (∀ t0, t0 ≤ s.ns →
      (h.hotAt = some t0 → h.clk ≠ 3 → ∃ t : State, exec .clockStepDown s = .next t ∧ still t ∧ cores t ∧ t.hub.clk = h.clk + 1) ∧
      (h.coolAt = some t0 → h.pst ≠ 1 → h.clk ≠ 0 → ∃ t : State, exec .clockStepUp s = .next t ∧ still t ∧ cores t ∧
        t.hub.clk = h.clk - 1))
end

