-- ==== Sys2Proof/Laws/Dispatch.lean ====
section
/-! SUPPORT. Each arm of `exec` as a rewriting lemma, so that no proof unfolds the whole dispatch. -/

namespace Sys2Proof.Laws

open Sys2Proof Sys2Proof.Machine

@[simp] theorem exec_nop {slot} {s} : exec (.nop slot) s = execNop slot s := rfl
@[simp] theorem exec_add {g m d a b} {s} : exec (.add g m d a b) s = execAdd g m d a b s := rfl
@[simp] theorem exec_sub {g m d a b} {s} : exec (.sub g m d a b) s = execSub g m d a b s := rfl
@[simp] theorem exec_mul {g m d a b} {s} : exec (.mul g m d a b) s = execMul g m d a b s := rfl
@[simp] theorem exec_mulh {g d a b} {s} : exec (.mulh g d a b) s = execMulh g d a b s := rfl
@[simp] theorem exec_mulhn {g d a b} {s} : exec (.mulhn g d a b) s = execMulhn g d a b s := rfl
@[simp] theorem exec_and {g d a b} {s} : exec (.and g d a b) s = execAnd g d a b s := rfl
@[simp] theorem exec_or {g d a b} {s} : exec (.or g d a b) s = execOr g d a b s := rfl
@[simp] theorem exec_xor {g d a b} {s} : exec (.xor g d a b) s = execXor g d a b s := rfl
@[simp] theorem exec_min {g d a b} {s} : exec (.min g d a b) s = execMin g d a b s := rfl
@[simp] theorem exec_max {g d a b} {s} : exec (.max g d a b) s = execMax g d a b s := rfl
@[simp] theorem exec_minn {g d a b} {s} : exec (.minn g d a b) s = execMinn g d a b s := rfl
@[simp] theorem exec_maxn {g d a b} {s} : exec (.maxn g d a b) s = execMaxn g d a b s := rfl
@[simp] theorem exec_clmuls {g hi d a b} {s} : exec (.clmuls g hi d a b) s = execClmuls g hi d a b s := rfl
@[simp] theorem exec_div {g d a b} {s} : exec (.div g d a b) s = execDiv g d a b s := rfl
@[simp] theorem exec_divn {g d a b} {s} : exec (.divn g d a b) s = execDivn g d a b s := rfl
@[simp] theorem exec_rem {g d a b} {s} : exec (.rem g d a b) s = execRem g d a b s := rfl
@[simp] theorem exec_remn {g d a b} {s} : exec (.remn g d a b) s = execRemn g d a b s := rfl
@[simp] theorem exec_addi {g m d a imm} {s} : exec (.addi g m d a imm) s = execAddi g m d a imm s := rfl
@[simp] theorem exec_andi {g z d a imm} {s} : exec (.andi g z d a imm) s = execAndi g z d a imm s := rfl
@[simp] theorem exec_ori {g z d a imm} {s} : exec (.ori g z d a imm) s = execOri g z d a imm s := rfl
@[simp] theorem exec_xori {g z d a imm} {s} : exec (.xori g z d a imm) s = execXori g z d a imm s := rfl
@[simp] theorem exec_shl {g d a b} {s} : exec (.shl g d a b) s = execShl g d a b s := rfl
@[simp] theorem exec_shr {g d a b} {s} : exec (.shr g d a b) s = execShr g d a b s := rfl
@[simp] theorem exec_sar {g d a b} {s} : exec (.sar g d a b) s = execSar g d a b s := rfl
@[simp] theorem exec_shli {g d a n} {s} : exec (.shli g d a n) s = execShli g d a n s := rfl
@[simp] theorem exec_shri {g d a n} {s} : exec (.shri g d a n) s = execShri g d a n s := rfl
@[simp] theorem exec_sari {g d a n} {s} : exec (.sari g d a n) s = execSari g d a n s := rfl
@[simp] theorem exec_rol {g d a n} {s} : exec (.rol g d a n) s = execRol g d a n s := rfl
@[simp] theorem exec_fshr {g d a b n} {s} : exec (.fshr g d a b n) s = execFshr g d a b n s := rfl
@[simp] theorem exec_bext {g d a b pos len} {s} : exec (.bext g d a b pos len) s = execBext g d a b pos len s := rfl
@[simp] theorem exec_bexts {g d a b pos len} {s} : exec (.bexts g d a b pos len) s = execBexts g d a b pos len s := rfl
@[simp] theorem exec_bins {g d a b pos len} {s} : exec (.bins g d a b pos len) s = execBins g d a b pos len s := rfl
@[simp] theorem exec_clz {g w d a} {s} : exec (.clz g w d a) s = execClz g w d a s := rfl
@[simp] theorem exec_ctz {g w d a} {s} : exec (.ctz g w d a) s = execCtz g w d a s := rfl
@[simp] theorem exec_popc {g w d a} {s} : exec (.popc g w d a) s = execPopc g w d a s := rfl
@[simp] theorem exec_brev {g w d a} {s} : exec (.brev g w d a) s = execBrev g w d a s := rfl
@[simp] theorem exec_cmp {g cc d a b} {s} : exec (.cmp g cc d a b) s = execCmp g cc d a b s := rfl
@[simp] theorem exec_cmpi {g cc d a imm} {s} : exec (.cmpi g cc d a imm) s = execCmpi g cc d a imm s := rfl
@[simp] theorem exec_plog {g d a b tt} {s} : exec (.plog g d a b tt) s = execPlog g d a b tt s := rfl
@[simp] theorem exec_sel {g q d a b} {s} : exec (.sel g q d a b) s = execSel g q d a b s := rfl
@[simp] theorem exec_li {g z d imm} {s} : exec (.li g z d imm) s = execLi g z d imm s := rfl
@[simp] theorem exec_lih {g d imm} {s} : exec (.lih g d imm) s = execLih g d imm s := rfl
@[simp] theorem exec_hset {g f h a} {s} : exec (.hset g f h a) s = execHset g f h a s := rfl
@[simp] theorem exec_hget {g f d h} {s} : exec (.hget g f d h) s = execHget g f d h s := rfl
@[simp] theorem exec_hadd {g f h a} {s} : exec (.hadd g f h a) s = execHadd g f h a s := rfl
@[simp] theorem exec_rdsr {g d r} {s} : exec (.rdsr g d r) s = execRdsr g d r s := rfl
@[simp] theorem exec_wrsr {g r a} {s} : exec (.wrsr g r a) s = execWrsr g r a s := rfl
@[simp] theorem exec_axadd {g d a y} {s} : exec (.axadd g d a y) s = execAxadd g d a y s := rfl
@[simp] theorem exec_axsub {g d a y} {s} : exec (.axsub g d a y) s = execAxsub g d a y s := rfl
@[simp] theorem exec_axlog {g op d a y} {s} : exec (.axlog g op d a y) s = execAxlog g op d a y s := rfl
@[simp] theorem exec_axsh {g op d a y} {s} : exec (.axsh g op d a y) s = execAxsh g op d a y s := rfl
@[simp] theorem exec_wxadd {g sub d a y} {s} : exec (.wxadd g sub d a y) s = execWxadd g sub d a y s := rfl
@[simp] theorem exec_vadd {c ty md a b} {s} : exec (.vadd c ty md a b) s = execVadd c ty md a b s := rfl
@[simp] theorem exec_vsub {c ty md a b} {s} : exec (.vsub c ty md a b) s = execVsub c ty md a b s := rfl
@[simp] theorem exec_vmul {c ty md a b} {s} : exec (.vmul c ty md a b) s = execVmul c ty md a b s := rfl
@[simp] theorem exec_vfma {c ty md a b cc} {s} : exec (.vfma c ty md a b cc) s = execVfma c ty md a b cc s := rfl
@[simp] theorem exec_vmin {c ty md a b} {s} : exec (.vmin c ty md a b) s = execVmin c ty md a b s := rfl
@[simp] theorem exec_vmax {c ty md a b} {s} : exec (.vmax c ty md a b) s = execVmax c ty md a b s := rfl
@[simp] theorem exec_vabs {c ty md a} {s} : exec (.vabs c ty md a) s = execVabs c ty md a s := rfl
@[simp] theorem exec_vmulh {c ty md a b} {s} : exec (.vmulh c ty md a b) s = execVmulh c ty md a b s := rfl
@[simp] theorem exec_vand {c ty a b} {s} : exec (.vand c ty a b) s = execVand c ty a b s := rfl
@[simp] theorem exec_vor {c ty a b} {s} : exec (.vor c ty a b) s = execVor c ty a b s := rfl
@[simp] theorem exec_vxor {c ty a b} {s} : exec (.vxor c ty a b) s = execVxor c ty a b s := rfl
@[simp] theorem exec_vshl {c ty a b} {s} : exec (.vshl c ty a b) s = execVshl c ty a b s := rfl
@[simp] theorem exec_vshr {c ty a b} {s} : exec (.vshr c ty a b) s = execVshr c ty a b s := rfl
@[simp] theorem exec_vsar {c ty a b} {s} : exec (.vsar c ty a b) s = execVsar c ty a b s := rfl
@[simp] theorem exec_vcmp {c ty cc a b} {s} : exec (.vcmp c ty cc a b) s = execVcmp c ty cc a b s := rfl
@[simp] theorem exec_vsel {c ty m a b} {s} : exec (.vsel c ty m a b) s = execVsel c ty m a b s := rfl
@[simp] theorem exec_vbext {c ty sgn a b cc} {s} : exec (.vbext c ty sgn a b cc) s = execVbext c ty sgn a b cc s := rfl
@[simp] theorem exec_vfshr {c ty a b cc} {s} : exec (.vfshr c ty a b cc) s = execVfshr c ty a b cc s := rfl
@[simp] theorem exec_vclmul {c ty hi a b} {s} : exec (.vclmul c ty hi a b) s = execVclmul c ty hi a b s := rfl
@[simp] theorem exec_vpopc {c ty a} {s} : exec (.vpopc c ty a) s = execVpopc c ty a s := rfl
@[simp] theorem exec_vclz {c ty a} {s} : exec (.vclz c ty a) s = execVclz c ty a s := rfl
@[simp] theorem exec_vbcast {c ty a l} {s} : exec (.vbcast c ty a l) s = execVbcast c ty a l s := rfl
@[simp] theorem exec_viota {c ty f} {s} : exec (.viota c ty f) s = execViota c ty f s := rfl
@[simp] theorem exec_vrsum {c ty sat a} {s} : exec (.vrsum c ty sat a) s = execVrsum c ty sat a s := rfl
@[simp] theorem exec_vrmax {c ty a} {s} : exec (.vrmax c ty a) s = execVrmax c ty a s := rfl
@[simp] theorem exec_vrmin {c ty a} {s} : exec (.vrmin c ty a) s = execVrmin c ty a s := rfl
@[simp] theorem exec_vscan {c ty op sat a} {s} : exec (.vscan c ty op sat a) s = execVscan c ty op sat a s := rfl
@[simp] theorem exec_vshuf {c ty a b cc} {s} : exec (.vshuf c ty a b cc) s = execVshuf c ty a b cc s := rfl
@[simp] theorem exec_vslide {c ty up a b q_} {s} : exec (.vslide c ty up a b q_) s = execVslide c ty up a b q_ s := rfl
@[simp] theorem exec_vtopk {c ty n a} {s} : exec (.vtopk c ty n a) s = execVtopk c ty n a s := rfl
@[simp] theorem exec_vcvt {c dt st md part a} {s} : exec (.vcvt c dt st md part a) s = execVcvt c dt st md part a s := rfl
@[simp] theorem exec_vsfu {c ty f a} {s} : exec (.vsfu c ty f a) s = execVsfu c ty f a s := rfl
@[simp] theorem exec_vmov {c ty a} {s} : exec (.vmov c ty a) s = execVmov c ty a s := rfl
@[simp] theorem exec_vmask {c ty md a} {s} : exec (.vmask c ty md a) s = execVmask c ty md a s := rfl
@[simp] theorem exec_vqnt {c ty f gs a} {s} : exec (.vqnt c ty f gs a) s = execVqnt c ty f gs a s := rfl
@[simp] theorem exec_vdqnt {c ty f gs a} {s} : exec (.vdqnt c ty f gs a) s = execVdqnt c ty f gs a s := rfl
@[simp] theorem exec_vsetk {unit dk f} {s} : exec (.vsetk unit dk f) s = execVsetk unit dk f s := rfl
@[simp] theorem exec_vextr {unit ty d a l imm} {s} : exec (.vextr unit ty d a l imm) s = execVextr unit ty d a l imm s := rfl
@[simp] theorem exec_vins {unit ty d nowb n l} {s} : exec (.vins unit ty d nowb n l) s = execVins unit ty d nowb n l s := rfl
@[simp] theorem exec_xexp {c compress w m} {s} : exec (.xexp c compress w m) s = execXexp c compress w m s := rfl
@[simp] theorem exec_xpln {c f} {s} : exec (.xpln c f) s = execXpln c f s := rfl
@[simp] theorem exec_xtrn {c f} {s} : exec (.xtrn c f) s = execXtrn c f s := rfl
@[simp] theorem exec_xcvt {c sf df gs sat} {s} : exec (.xcvt c sf df gs sat) s = execXcvt c sf df gs sat s := rfl
@[simp] theorem exec_xscl {c inv h} {s} : exec (.xscl c inv h) s = execXscl c inv h s := rfl
@[simp] theorem exec_xpack {c w1} {s} : exec (.xpack c w1) s = execXpack c w1 s := rfl
@[simp] theorem exec_xunpk {c sgn w1} {s} : exec (.xunpk c sgn w1) s = execXunpk c sgn w1 s := rfl
@[simp] theorem exec_xbits {c w msb b} {s} : exec (.xbits c w msb b) s = execXbits c w msb b s := rfl
@[simp] theorem exec_xzip {c w} {s} : exec (.xzip c w) s = execXzip c w s := rfl
@[simp] theorem exec_xunzip {c w} {s} : exec (.xunzip c w) s = execXunzip c w s := rfl
@[simp] theorem exec_xswz {c p w} {s} : exec (.xswz c p w) s = execXswz c p w s := rfl
@[simp] theorem exec_lds {g cl d a sz sx side disp} {s} : exec (.lds g cl d a sz sx side disp) s = execLds g cl d a sz sx side disp s := rfl
@[simp] theorem exec_ldm {g cl d a sz sx clus disp lat} {s} : exec (.ldm g cl d a sz sx clus disp lat) s = execLdm g cl d a sz sx clus disp lat s := rfl
@[simp] theorem exec_ldw {g cl d a sz sx clus disp} {s} : exec (.ldw g cl d a sz sx clus disp) s = execLdw g cl d a sz sx clus disp s := rfl
@[simp] theorem exec_ldwRpl {g} {s} : exec (.ldwRpl g) s = execLdwRpl g s := rfl
@[simp] theorem exec_ldq {g d n} {s} : exec (.ldq g d n) s = execLdq g d n s := rfl
@[simp] theorem exec_sts {g cl src a sz sp disp} {s} : exec (.sts g cl src a sz sp disp) s = execSts g cl src a sz sp disp s := rfl
@[simp] theorem exec_stm {g cl src a sz clus disp} {s} : exec (.stm g cl src a sz clus disp) s = execStm g cl src a sz clus disp s := rfl
@[simp] theorem exec_vld {g cl d a b1 w k disp} {s} : exec (.vld g cl d a b1 w k disp) s = execVld g cl d a b1 w k disp s := rfl
@[simp] theorem exec_vst {g cl src a b1 w k disp} {s} : exec (.vst g cl src a b1 w k disp) s = execVst g cl src a b1 w k disp s := rfl
@[simp] theorem exec_vldp {g cl d a sw dw sx k disp} {s} : exec (.vldp g cl d a sw dw sx k disp) s = execVldp g cl d a sw dw sx k disp s := rfl
@[simp] theorem exec_vldg {g cl d a w sh x k disp} {s} : exec (.vldg g cl d a w sh x k disp) s = execVldg g cl d a w sh x k disp s := rfl
@[simp] theorem exec_vsts {g cl src a w sh x k disp} {s} : exec (.vsts g cl src a w sh x k disp) s = execVsts g cl src a w sh x k disp s := rfl
@[simp] theorem exec_ldh {g cl h a mem disp} {s} : exec (.ldh g cl h a mem disp) s = execLdh g cl h a mem disp s := rfl
@[simp] theorem exec_sth {g cl h a mem disp} {s} : exec (.sth g cl h a mem disp) s = execSth g cl h a mem disp s := rfl
@[simp] theorem exec_ldpcw {g cl n a mem disp} {s} : exec (.ldpcw g cl n a mem disp) s = execLdpcw g cl n a mem disp s := rfl
@[simp] theorem exec_ats {g cl op eight src clus a dd lat disp} {s} : exec (.ats g cl op eight src clus a dd lat disp) s = execAts g cl op eight src clus a dd lat disp s := rfl
@[simp] theorem exec_atm {g cl op eight src a dd lat disp} {s} : exec (.atm g cl op eight src a dd lat disp) s = execAtm g cl op eight src a dd lat disp s := rfl
@[simp] theorem exec_mst {g cl src a sz disp} {s} : exec (.mst g cl src a sz disp) s = execMst g cl src a sz disp s := rfl
@[simp] theorem exec_cpy {g cl t hd hs rm sat outer comp} {s} : exec (.cpy g cl t hd hs rm sat outer comp) s = execCpy g cl t hd hs rm sat outer comp s := rfl
@[simp] theorem exec_cpyp {g cl t hd hs rm sat outer comp} {s} : exec (.cpyp g cl t hd hs rm sat outer comp) s = execCpyp g cl t hd hs rm sat outer comp s := rfl
@[simp] theorem exec_chst {g cl t hd hs rm sat outer comp} {s} : exec (.chst g cl t hd hs rm sat outer comp) s = execChst g cl t hd hs rm sat outer comp s := rfl
@[simp] theorem exec_cpya {g cl t f hs gs outer} {s} : exec (.cpya g cl t f hs gs outer) s = execCpya g cl t f hs gs outer s := rfl
@[simp] theorem exec_cpyb {g cl t f hs gs outer} {s} : exec (.cpyb g cl t f hs gs outer) s = execCpyb g cl t f hs gs outer s := rfl
@[simp] theorem exec_cfil {g cl t hd p outer} {s} : exec (.cfil g cl t hd p outer) s = execCfil g cl t hd p outer s := rfl
@[simp] theorem exec_cred {g cl t hd hs peer slot add} {s} : exec (.cred g cl t hd hs peer slot add) s = execCred g cl t hd hs peer slot add s := rfl
@[simp] theorem exec_cres {g cl t hd hs hr hc gs} {s} : exec (.cres g cl t hd hs hr hc gs) s = execCres g cl t hd hs hr hc gs s := rfl
@[simp] theorem exec_cmcs {g cl t hs a} {s} : exec (.cmcs g cl t hs a) s = execCmcs g cl t hs a s := rfl
@[simp] theorem exec_cwld {g cl t hd hs outer} {s} : exec (.cwld g cl t hd hs outer) s = execCwld g cl t hd hs outer s := rfl
@[simp] theorem exec_cmig {g cl t v q_ far gran} {s} : exec (.cmig g cl t v q_ far gran) s = execCmig g cl t v q_ far gran s := rfl
@[simp] theorem exec_crly {g cl t v q_ gran} {s} : exec (.crly g cl t v q_ gran) s = execCrly g cl t v q_ gran s := rfl
@[simp] theorem exec_cnest {g l5 c ds dd} {s} : exec (.cnest g l5 c ds dd) s = execCnest g l5 c ds dd s := rfl
@[simp] theorem exec_mcfg {g n a} {s} : exec (.mcfg g n a) s = execMcfg g n a s := rfl
@[simp] theorem exec_mpcw {g n a} {s} : exec (.mpcw g n a) s = execMpcw g n a s := rfl
@[simp] theorem exec_mgo {g} {s} : exec (.mgo g) s = execMgo g s := rfl
@[simp] theorem exec_mhad {g row0 m1 drn hd t rm psh} {s} : exec (.mhad g row0 m1 drn hd t rm psh) s = execMhad g row0 m1 drn hd t rm psh s := rfl
@[simp] theorem exec_mwld {g pcw k1 n1 t} {s} : exec (.mwld g pcw k1 n1 t) s = execMwld g pcw k1 n1 t s := rfl
@[simp] theorem exec_mdrn {g row0 c1 hd t rm psh i32} {s} : exec (.mdrn g row0 c1 hd t rm psh i32) s = execMdrn g row0 c1 hd t rm psh i32 s := rfl
@[simp] theorem exec_mzero {g row0 c1 t} {s} : exec (.mzero g row0 c1 t) s = execMzero g row0 c1 t s := rfl
@[simp] theorem exec_mstat {g a} {s} : exec (.mstat g a) s = execMstat g a s := rfl
@[simp] theorem exec_mswap {g t} {s} : exec (.mswap g t) s = execMswap g t s := rfl
@[simp] theorem exec_br {g t} {s} : exec (.br g t) s = execBr g t s := rfl
@[simp] theorem exec_brc {g q n disp} {s} : exec (.brc g q n disp) s = execBrc g q n disp s := rfl
@[simp] theorem exec_call {g l t} {s} : exec (.call g l t) s = execCall g l t s := rfl
@[simp] theorem exec_ret {g a} {s} : exec (.ret g a) s = execRet g a s := rfl
@[simp] theorem exec_loop {g lvl desc len1 n} {s} : exec (.loop g lvl desc len1 n) s = execLoop g lvl desc len1 n s := rfl
@[simp] theorem exec_loopr {g lvl desc len1 drain n} {s} : exec (.loopr g lvl desc len1 drain n) s = execLoopr g lvl desc len1 drain n s := rfl
@[simp] theorem exec_waite {g mask} {s} : exec (.waite g mask) s = execWaite g mask s := rfl
@[simp] theorem exec_bsp {g sc} {s} : exec (.bsp g sc) s = execBsp g sc s := rfl
@[simp] theorem exec_fence {g mask sc} {s} : exec (.fence g mask sc) s = execFence g mask sc s := rfl
@[simp] theorem exec_publish {g mask} {s} : exec (.publish g mask) s = execPublish g mask s := rfl
@[simp] theorem exec_swapb {g mask h m rs flip} {s} : exec (.swapb g mask h m rs flip) s = execSwapb g mask h m rs flip s := rfl
@[simp] theorem exec_probe {g a b kind} {s} : exec (.probe g a b kind) s = execProbe g a b kind s := rfl
@[simp] theorem exec_ckts {g a b c three} {s} : exec (.ckts g a b c three) s = execCkts g a b c three s := rfl
@[simp] theorem exec_cktv {g x y b1 k} {s} : exec (.cktv g x y b1 k) s = execCktv g x y b1 k s := rfl
@[simp] theorem exec_trap {g d code} {s} : exec (.trap g d code) s = execTrap g d code s := rfl
@[simp] theorem exec_eret {g} {s} : exec (.eret g) s = execEret g s := rfl
@[simp] theorem exec_setrpl {g t} {s} : exec (.setrpl g t) s = execSetrpl g t s := rfl
@[simp] theorem exec_enq {g a} {s} : exec (.enq g a) s = execEnq g a s := rfl
@[simp] theorem exec_spawn {g a} {s} : exec (.spawn g a) s = execSpawn g a s := rfl
@[simp] theorem exec_endTask {g} {s} : exec (.endTask g) s = execEndTask g s := rfl
@[simp] theorem exec_dictld {g a} {s} : exec (.dictld g a) s = execDictld g a s := rfl
@[simp] theorem exec_dictsw {g} {s} : exec (.dictsw g) s = execDictsw g s := rfl
@[simp] theorem exec_rdtime {g d e} {s} : exec (.rdtime g d e) s = execRdtime g d e s := rfl
@[simp] theorem exec_qpt {g p y} {s} : exec (.qpt g p y) s = execQpt g p y s := rfl
@[simp] theorem exec_inval {g a b kind} {s} : exec (.inval g a b kind) s = execInval g a b kind s := rfl
@[simp] theorem exec_wcsld {g d a b} {s} : exec (.wcsld g d a b) s = execWcsld g d a b s := rfl
@[simp] theorem exec_halt {g} {s} : exec (.halt g) s = execHalt g s := rfl
@[simp] theorem exec_resultLanding {s} : exec (.resultLanding) s = execResultLanding s := rfl
@[simp] theorem exec_waitEnd {s} : exec (.waitEnd) s = execWaitEnd s := rfl
@[simp] theorem exec_barrierRelease {sc} {s} : exec (.barrierRelease sc) s = execBarrierRelease sc s := rfl
@[simp] theorem exec_groupMark {s} : exec (.groupMark) s = execGroupMark s := rfl
@[simp] theorem exec_loopEnd {s} : exec (.loopEnd) s = execLoopEnd s := rfl
@[simp] theorem exec_debugBreak {s} : exec (.debugBreak) s = execDebugBreak s := rfl
@[simp] theorem exec_debugRelease {s} : exec (.debugRelease) s = execDebugRelease s := rfl
@[simp] theorem exec_trackerDeadline {n} {s} : exec (.trackerDeadline n) s = execTrackerDeadline n s := rfl
@[simp] theorem exec_loadReply {n v} {s} : exec (.loadReply n v) s = execLoadReply n v s := rfl
@[simp] theorem exec_enterReplay {s} : exec (.enterReplay) s = execEnterReplay s := rfl
@[simp] theorem exec_launchPacket {w} {s} : exec (.launchPacket w) s = execLaunchPacket w s := rfl
@[simp] theorem exec_mlaunch {w} {s} : exec (.mlaunch w) s = execMlaunch w s := rfl
@[simp] theorem exec_dispatchDecision {core} {s} : exec (.dispatchDecision core) s = execDispatchDecision core s := rfl
@[simp] theorem exec_entryAvailable {task} {s} : exec (.entryAvailable task) s = execEntryAvailable task s := rfl
@[simp] theorem exec_preemptionRequest {core} {s} : exec (.preemptionRequest core) s = execPreemptionRequest core s := rfl
@[simp] theorem exec_stateSave {s} : exec (.stateSave) s = execStateSave s := rfl
@[simp] theorem exec_preemptHaltTimeout {core} {s} : exec (.preemptHaltTimeout core) s = execPreemptHaltTimeout core s := rfl
@[simp] theorem exec_taskResume {s} : exec (.taskResume) s = execTaskResume s := rfl
@[simp] theorem exec_regionComplete {region} {s} : exec (.regionComplete region) s = execRegionComplete region s := rfl
@[simp] theorem exec_completionRecordWrite {s} : exec (.completionRecordWrite) s = execCompletionRecordWrite s := rfl
@[simp] theorem exec_coalesceTimerExpiry {ring} {s} : exec (.coalesceTimerExpiry ring) s = execCoalesceTimerExpiry ring s := rfl
@[simp] theorem exec_ctailWrite {ring v} {s} : exec (.ctailWrite ring v) s = execCtailWrite ring v s := rfl
@[simp] theorem exec_ringEnableWrite {ring en} {s} : exec (.ringEnableWrite ring en) s = execRingEnableWrite ring en s := rfl
@[simp] theorem exec_blockLoad {s} : exec (.blockLoad) s = execBlockLoad s := rfl
@[simp] theorem exec_pendingCommandActivates {s} : exec (.pendingCommandActivates) s = execPendingCommandActivates s := rfl
@[simp] theorem exec_pass {s} : exec (.pass) s = execPass s := rfl
@[simp] theorem exec_pressDrain {s} : exec (.pressDrain) s = execPressDrain s := rfl
@[simp] theorem exec_matrixCommandComplete {s} : exec (.matrixCommandComplete) s = execMatrixCommandComplete s := rfl
@[simp] theorem exec_copyLine {l} {s} : exec (.copyLine l) s = execCopyLine l s := rfl
@[simp] theorem exec_copyCommandComplete {s} : exec (.copyCommandComplete) s = execCopyCommandComplete s := rfl
@[simp] theorem exec_credTransferStart {s} : exec (.credTransferStart) s = execCredTransferStart s := rfl
@[simp] theorem exec_weightRefreshWindow {s} : exec (.weightRefreshWindow) s = execWeightRefreshWindow s := rfl
@[simp] theorem exec_migrationRequest {s} : exec (.migrationRequest) s = execMigrationRequest s := rfl
@[simp] theorem exec_migrationCopyStart {n} {s} : exec (.migrationCopyStart n) s = execMigrationCopyStart n s := rfl
@[simp] theorem exec_migrationCopyDone {n} {s} : exec (.migrationCopyDone n) s = execMigrationCopyDone n s := rfl
@[simp] theorem exec_dwellExpiry {n} {s} : exec (.dwellExpiry n) s = execDwellExpiry n s := rfl
@[simp] theorem exec_hostMigrationRequest {engine w0} {s} : exec (.hostMigrationRequest engine w0) s = execHostMigrationRequest engine w0 s := rfl
@[simp] theorem exec_padd {pool w} {s} : exec (.padd pool w) s = execPadd pool w s := rfl
@[simp] theorem exec_flitReceive {port f} {s} : exec (.flitReceive port f) s = execFlitReceive port f s := rfl
@[simp] theorem exec_linkRetry {port seq} {s} : exec (.linkRetry port seq) s = execLinkRetry port seq s := rfl
@[simp] theorem exec_linkRetrain {port ok free} {s} : exec (.linkRetrain port ok free) s = execLinkRetrain port ok free s := rfl
@[simp] theorem exec_remoteRequest {r} {s} : exec (.remoteRequest r) s = execRemoteRequest r s := rfl
@[simp] theorem exec_requestExpiry {n} {s} : exec (.requestExpiry n) s = execRequestExpiry n s := rfl
@[simp] theorem exec_remoteAtomic {r} {s} : exec (.remoteAtomic r) s = execRemoteAtomic r s := rfl
@[simp] theorem exec_lineRecall {line} {s} : exec (.lineRecall line) s = execLineRecall line s := rfl
@[simp] theorem exec_lineReturn {line bytes} {s} : exec (.lineReturn line bytes) s = execLineReturn line bytes s := rfl
@[simp] theorem exec_multicastStamp {group src off bytes} {s} : exec (.multicastStamp group src off bytes) s = execMulticastStamp group src off bytes s := rfl
@[simp] theorem exec_multicastApply {group arrived} {s} : exec (.multicastApply group arrived) s = execMulticastApply group arrived s := rfl
@[simp] theorem exec_appliedReport {group node applied} {s} : exec (.appliedReport group node applied) s = execAppliedReport group node applied s := rfl
@[simp] theorem exec_appliedReportTimer {group} {s} : exec (.appliedReportTimer group) s = execAppliedReportTimer group s := rfl
@[simp] theorem exec_mcastGap {group} {s} : exec (.mcastGap group) s = execMcastGap group s := rfl
@[simp] theorem exec_memberReportTimeout {group node} {s} : exec (.memberReportTimeout group node) s = execMemberReportTimeout group node s := rfl
@[simp] theorem exec_groupEntryWrite {agent group v} {s} : exec (.groupEntryWrite agent group v) s = execGroupEntryWrite agent group v s := rfl
@[simp] theorem exec_fabricRelabel {node ndim portmap} {s} : exec (.fabricRelabel node ndim portmap) s = execFabricRelabel node ndim portmap s := rfl
@[simp] theorem exec_timeSync {ref} {s} : exec (.timeSync ref) s = execTimeSync ref s := rfl
@[simp] theorem exec_hostWindowRead {hdm n} {s} : exec (.hostWindowRead hdm n) s = execHostWindowRead hdm n s := rfl
@[simp] theorem exec_hostWindowWrite {hdm bytes} {s} : exec (.hostWindowWrite hdm bytes) s = execHostWindowWrite hdm bytes s := rfl
@[simp] theorem exec_hostCompletionTimeout {n} {s} : exec (.hostCompletionTimeout n) s = execHostCompletionTimeout n s := rfl
@[simp] theorem exec_bootStep {ok} {s} : exec (.bootStep ok) s = execBootStep ok s := rfl
@[simp] theorem exec_dieResetRequest {mask} {s} : exec (.dieResetRequest mask) s = execDieResetRequest mask s := rfl
@[simp] theorem exec_dieEntersReset {die} {s} : exec (.dieEntersReset die) s = execDieEntersReset die s := rfl
@[simp] theorem exec_dieRelease {die selfTest} {s} : exec (.dieRelease die selfTest) s = execDieRelease die selfTest s := rfl
@[simp] theorem exec_patrolScrub {die off gran} {s} : exec (.patrolScrub die off gran) s = execPatrolScrub die off gran s := rfl
@[simp] theorem exec_farDieLoss {f} {s} : exec (.farDieLoss f) s = execFarDieLoss f s := rfl
@[simp] theorem exec_taskKill {task} {s} : exec (.taskKill task) s = execTaskKill task s := rfl
@[simp] theorem exec_rindClose {die} {s} : exec (.rindClose die) s = execRindClose die s := rfl
@[simp] theorem exec_registerWrite {agent off size v} {s} : exec (.registerWrite agent off size v) s = execRegisterWrite agent off size v s := rfl
@[simp] theorem exec_regionBecomesLate {region} {s} : exec (.regionBecomesLate region) s = execRegionBecomesLate region s := rfl
@[simp] theorem exec_linkTraining {port} {s} : exec (.linkTraining port) s = execLinkTraining port s := rfl
@[simp] theorem exec_spdmRequest {r} {s} : exec (.spdmRequest r) s = execSpdmRequest r s := rfl
@[simp] theorem exec_writeAcknowledgement {n code v} {s} : exec (.writeAcknowledgement n code v) s = execWriteAcknowledgement n code v s := rfl
@[simp] theorem exec_haltRelease {core} {s} : exec (.haltRelease core) s = execHaltRelease core s := rfl
@[simp] theorem exec_moduleReset {s} : exec (.moduleReset) s = execModuleReset s := rfl
@[simp] theorem exec_standbyRequest {s} : exec (.standbyRequest) s = execStandbyRequest s := rfl
@[simp] theorem exec_standbyWake {s} : exec (.standbyWake) s = execStandbyWake s := rfl
@[simp] theorem exec_clockStepDown {s} : exec (.clockStepDown) s = execClockStepDown s := rfl
@[simp] theorem exec_clockStepUp {s} : exec (.clockStepUp) s = execClockStepUp s := rfl
@[simp] theorem exec_hostPortDown {s} : exec (.hostPortDown) s = execHostPortDown s := rfl
@[simp] theorem exec_hostPortTraining {s} : exec (.hostPortTraining) s = execHostPortTraining s := rfl
@[simp] theorem exec_phaseRollback {s} : exec (.phaseRollback) s = execPhaseRollback s := rfl
@[simp] theorem exec_quiesceRequest {s} : exec (.quiesceRequest) s = execQuiesceRequest s := rfl
@[simp] theorem exec_routerQuiesced {s} : exec (.routerQuiesced) s = execRouterQuiesced s := rfl
@[simp] theorem exec_quiesceRelease {s} : exec (.quiesceRelease) s = execQuiesceRelease s := rfl
@[simp] theorem exec_contentionHalving {s} : exec (.contentionHalving) s = execContentionHalving s := rfl

end Sys2Proof.Laws
end

