-- ==== Sys2Proof/Laws/Issue.lean ====
section
/-! SUPPORT. What issuing one operation can do (R175, R265, R399, R469): the lemmas that stand for `issue`. -/

namespace Sys2Proof.Laws

open Sys2Proof Sys2Proof.Machine Sys2Proof.Safety

@[simp] theorem fcIf_false (c d : BitVec 16) : fcIf false c d = none := rfl
@[simp] theorem fcIf_true (c d : BitVec 16) : fcIf true c d = some ⟨c, d, none⟩ := rfl
@[simp] theorem fcFirst_nil : fcFirst [] = none := rfl
@[simp] theorem fcFirst_none (l : List (Option FC)) : fcFirst (none :: l) = fcFirst l := rfl
@[simp] theorem fcFirst_some (f : FC) (l : List (Option FC)) : fcFirst (some f :: l) = some f := rfl

theorem poisonedIn_clean (c : Core) (l : List Mark) (h : c.poison = 0) : c.poisonedIn l = [] := by
  simp only [Core.poisonedIn, h]
  induction l with
  | nil => rfl
  | cons m l ih =>
    rw [List.filterMap_cons_none]
    · exact ih
    · cases m <;> simp

theorem readsPoison_clean (c : Core) (l : List Mark) (h : c.poison = 0) : c.readsPoison l = false := by
  simp [Core.readsPoison, poisonedIn_clean c l h]

theorem consumes_clean (c : Core) (m : Mark) (h : c.marks = []) : c.consumes m = none := by
  cases m <;> simp [Core.consumes, Core.markRead, Core.hasMark, h]

theorem consumes_all_clean (c : Core) (l : List Mark) (h : c.marks = []) : fcFirst (l.map c.consumes) = none := by
  induction l with
  | nil => rfl
  | cons m l ih => simp [consumes_clean c m h, ih]

/-- The registers that an operation reads, its guard among them. -/
def readsOf (s : State) (g : PReg) (srcs : List Mark) : List Mark :=
  (if g = 0 then [] else [Mark.p (rotP s.core.sys g)]) ++ (if s.preg g then srcs else [])

/-- In the effect pass an operation has its effect when its guard is true, and makes no check. -/
theorem issue_go {s : State} (slot : Slot) (g : PReg) (srcs : List Mark) (static scal : Option FC)
    (occ eff : State → State) (hp : s.core.ctl.pass = .go) :
    issue slot g srcs static scal occ eff s =
      .next (occ (if s.preg g then eff (s.readRows (rowsOf (readsOf s g srcs))) else s)) := by
  simp [issue, readsOf, hp]

/-- A guarded-on operation whose checks pass has its effect. -/
theorem issue_ready {s : State} (slot : Slot) (g : PReg) (srcs : List Mark) (static scal : Option FC)
    (occ eff : State → State) (hr : Ready s) (hg : s.preg g = true) (h1 : Free s → static = none)
    (h2 : Free s → scal = none) :
    issue slot g srcs static scal occ eff s = .next (occ (eff (s.readRows (rowsOf (readsOf s g srcs))))) := by
  rcases hr with hp | ⟨hp, hf⟩
  · simp [issue_go _ _ _ _ _ _ _ hp, hg]
  · simp only [issue, readsOf, hp, h1 hf, h2 hf, readsPoison_clean _ _ hf.noPoison, consumes_all_clean _ _ hf.noMarks]
    simp [hg]

/-- A guarded-off operation occupies its unit and does nothing else. -/
theorem issue_off {s : State} (slot : Slot) (g : PReg) (srcs : List Mark) (static scal : Option FC)
    (occ eff : State → State) (hr : Ready s) (hg : s.preg g = false) :
    issue slot g srcs static scal occ eff s = .next (occ s) := by
  rcases hr with hp | ⟨hp, hf⟩
  · simp [issue_go _ _ _ _ _ _ _ hp, hg]
  · simp only [issue, hp, hg, readsPoison_clean _ _ hf.noPoison, consumes_all_clean _ _ hf.noMarks]
    simp

/-- A failing check that reads no scalar is taken before anything else. -/
theorem issue_static {s : State} (slot : Slot) (g : PReg) (srcs : List Mark) (f : FC) (scal : Option FC)
    (occ eff : State → State) (hp : s.core.ctl.pass = .alone) (hg : s.preg g = true) :
    issue slot g srcs (some f) scal occ eff s = .next (s.takeFault (slotNum slot) f.code f.detail) := by
  simp [issue, hp, hg]

/-- A failing check that reads a scalar is taken when nothing the operation reads is late or marked. -/
theorem issue_scalar {s : State} (slot : Slot) (g : PReg) (srcs : List Mark) (f : FC)
    (occ eff : State → State) (hp : s.core.ctl.pass = .alone) (hf : Free s) (hg : s.preg g = true) :
    issue slot g srcs none (some f) occ eff s =
      .next (s.takeFaults none [{ s.opInfo (slotNum slot) f.code f.detail with saw := f.saw }]) := by
  simp only [issue, hp, readsPoison_clean _ _ hf.noPoison, consumes_all_clean _ _ hf.noMarks]
  simp [hg]

theorem rowsOf_append (a b : List Mark) : rowsOf (a ++ b) = rowsOf a ++ rowsOf b := by
  simp [rowsOf]

/-- Scalars and predicates are no rows. -/
theorem rowsOf_srcS (s : State) (l : List SReg) : rowsOf (s.srcS l) = [] := by
  simp only [State.srcS, rowsOf, List.filterMap_map]
  induction l with
  | nil => rfl
  | cons a l ih => simp

@[simp] theorem rowsOf_nil : rowsOf [] = [] := rfl
@[simp] theorem rowsOf_p (r : PReg) (l : List Mark) : rowsOf (.p r :: l) = rowsOf l := rfl
@[simp] theorem rowsOf_s (r : SReg) (l : List Mark) : rowsOf (.s r :: l) = rowsOf l := rfl
@[simp] theorem rowsOf_h (r : HReg) (l : List Mark) : rowsOf (.h r :: l) = rowsOf l := rfl
@[simp] theorem rowsOf_k (r : KReg) (l : List Mark) : rowsOf (.k r :: l) = rowsOf l := rfl

@[simp] theorem readRows_nil (s : State) : s.readRows [] = s := by
  simp [State.readRows]; split <;> rfl

/-- Outside a phase, reading rows changes nothing (R301). -/
theorem readRows_noPhase (s : State) (l : List Row) (h : s.core.phase = none) : s.readRows l = s := by
  simp [State.readRows, h]

/-- An operation that reads no row has its effect on the state itself. -/
theorem issue_ready_noRows {s : State} (slot : Slot) (g : PReg) (srcs : List Mark) (static scal : Option FC)
    (occ eff : State → State) (hr : Ready s) (hg : s.preg g = true) (h1 : Free s → static = none)
    (h2 : Free s → scal = none) (h3 : rowsOf srcs = []) : issue slot g srcs static scal occ eff s = .next (occ (eff s)) := by
  rw [issue_ready slot g srcs static scal occ eff hr hg h1 h2]
  have : rowsOf (readsOf s g srcs) = [] := by
    simp only [readsOf, hg, rowsOf_append]
    split <;> simp [h3]
  simp [this]

/-- Reading rows changes at most the phase. -/
theorem readRows_eq (s : State) (l : List Row) : ∃ p, s.readRows l = s.mc (fun c => { c with phase := p }) := by
  unfold State.readRows
  split
  · exact ⟨s.core.phase, rfl⟩
  · split
    · exact ⟨s.core.phase, rfl⟩
    · exact ⟨_, rfl⟩

/-- Outside replay mode an operation that replay mode does not admit passes that check (R460). -/
theorem noReplay_free {s : State} (hf : Free s) : s.noReplay = none := by
  simp [State.noReplay, hf.normal]

end Sys2Proof.Laws
end

