-- ==== Sys2Proof/Laws/Lanes.lean ====
section
/-! SUPPORT. Rows as lanes: what lane i, a mask bit and a joined flag of the shared row operations are (R186, R225). -/

namespace Sys2Proof.Laws

open Sys2Proof Sys2Proof.Machine

theorem packGo_lt (w : Nat) (f : Nat → Nat) (n i : Nat) : packGo w f n i < 2 ^ (n * w) := by
  induction n generalizing i with
  | zero => simp [packGo]
  | succ n ih =>
    have h1 := ih (i + 1)
    have h2 : f i % 2 ^ w < 2 ^ w := Nat.mod_lt _ (by positivity)
    rw [packGo, Nat.shiftLeft_eq, Nat.succ_mul, Nat.pow_add]
    calc f i % 2 ^ w + packGo w f n (i + 1) * 2 ^ w
        < 2 ^ w + packGo w f n (i + 1) * 2 ^ w := by omega
      _ = (packGo w f n (i + 1) + 1) * 2 ^ w := by ring
      _ ≤ 2 ^ (n * w) * 2 ^ w := Nat.mul_le_mul_right _ h1

theorem packGo_digit (w : Nat) (f : Nat → Nat) (n i k : Nat) (h : k < n) :
    (packGo w f n i >>> (k * w)) % 2 ^ w = f (i + k) % 2 ^ w := by
  induction n generalizing i k with
  | zero => omega
  | succ n ih =>
    have h2 : f i % 2 ^ w < 2 ^ w := Nat.mod_lt _ (by positivity)
    rw [packGo, Nat.shiftLeft_eq]
    cases k with
    | zero => simp
    | succ k =>
      have h3 := ih (i + 1) k (by omega)
      rw [show i + (k + 1) = i + 1 + k by omega, ← h3, Nat.shiftRight_eq_div_pow, Nat.shiftRight_eq_div_pow, Nat.succ_mul,
        Nat.pow_add, Nat.mul_comm (2 ^ (k * w)), ← Nat.div_div_eq_div_mul, Nat.add_mul_div_right _ _ (by positivity),
        Nat.div_eq_of_lt h2, Nat.zero_add]

/-- Lane i of a row built lane by lane. -/
theorem lane_mkRow (n w : Nat) (f : Nat → Nat) (i : Nat) (hi : i < n) (hn : n * w ≤ 4096) :
    lane (mkRow n w f) i w = f i % 2 ^ w := by
  have h := packGo_lt w f n 0
  have : packGo w f n 0 < 2 ^ 4096 := lt_of_lt_of_le h (Nat.pow_le_pow_right (by decide) hn)
  rw [lane, mkRow, BitVec.toNat_ofNat, Nat.mod_eq_of_lt this, packGo_digit _ _ _ _ _ hi, Nat.zero_add]

theorem packList_eq (w : Nat) (l : List Nat) (i : Nat) :
    packList w l = packGo w (fun k => l.getD (k - i) 0) l.length i := by
  induction l generalizing i with
  | nil => rfl
  | cons x l ih =>
    simp only [packList, List.foldr_cons, List.length_cons, packGo, Nat.sub_self, List.getD_cons_zero]
    have := ih (i + 1)
    rw [packList] at this
    rw [this]
    congr 2
    have : ∀ (n j : Nat), i < j → packGo w (fun k => l.getD (k - (i + 1)) 0) n j =
        packGo w (fun k => (x :: l).getD (k - i) 0) n j := by
      intro n
      induction n with
      | zero => intros; rfl
      | succ n ihn =>
        intro j hj
        rw [packGo, packGo, ihn (j + 1) (by omega)]
        obtain ⟨m, rfl⟩ : ∃ m, j = i + 1 + m := ⟨j - (i + 1), by omega⟩
        rw [show i + 1 + m - i = m + 1 by omega, show i + 1 + m - (i + 1) = m by omega, List.getD_cons_succ]
    exact this _ _ (by omega)

/-- Lane i of a row packed from a list. -/
theorem lane_packList (w : Nat) (l : List Nat) (i : Nat) (hi : i < l.length) (hn : l.length * w ≤ 4096) :
    lane (BitVec.ofNat 4096 (packList w l)) i w = l.getD i 0 % 2 ^ w := by
  rw [packList_eq w l 0]
  exact lane_mkRow _ _ _ _ hi hn

/-- A lane is below 2^w. -/
theorem lane_lt (v : RowVal) (i w : Nat) : lane v i w < 2 ^ w := Nat.mod_lt _ (by positivity)

/-- Bit b of a row is bit b mod w of lane b / w. -/
theorem getLsbD_lane (v : RowVal) (b w : Nat) (hw : 0 < w) : v.getLsbD b = (lane v (b / w) w).testBit (b % w) := by
  rw [lane, Nat.testBit_mod_two_pow, Nat.testBit_shiftRight, BitVec.testBit_toNat]
  simp [Nat.mod_lt b hw, Nat.mul_comm (b / w) w, Nat.div_add_mod b w]

/-- A lane mask enables bit b of a row when it enables its lane. -/
theorem laneMask_bit (k : Line) (w b : Nat) (hw : 0 < w) (hd : w ∣ 4096) (hb : b < 4096) :
    (laneMask k w).getLsbD b = k.getLsbD (b / w) := by
  have h1 : b / w < 4096 / w := by
    rw [Nat.div_lt_iff_lt_mul hw, Nat.div_mul_cancel hd]; exact hb
  rw [getLsbD_lane _ _ w hw, laneMask, lane_mkRow _ _ _ _ h1 (by rw [Nat.div_mul_cancel hd])]
  have h2 := Nat.mod_lt b hw
  cases k.getLsbD (b / w) with
  | false => simp
  | true =>
    have hp : 2 ^ w - 1 < 2 ^ w := Nat.sub_lt (by positivity) (by decide)
    simp only [if_true]
    rw [Nat.mod_eq_of_lt hp, Nat.testBit_two_pow_sub_one]
    simp [h2]

/-- A merged row takes a bit from the new value where the mask has it. -/
theorem mergeRow_bit (old v m : RowVal) (b : Nat) :
    (mergeRow old v m).getLsbD b = if m.getLsbD b then v.getLsbD b else old.getLsbD b := by
  simp only [mergeRow, BitVec.getLsbD_or, BitVec.getLsbD_and, BitVec.getLsbD_not]
  by_cases hb : b < 4096
  · cases m.getLsbD b <;> simp [hb]
  · simp [BitVec.getLsbD_of_ge _ _ (Nat.not_lt.mp hb)]

theorem foldl_or_bit (l : List (BitVec 5)) (a : BitVec 5) (b : Nat) :
    (l.foldl (· ||| ·) a).getLsbD b = (a.getLsbD b || l.any (fun x => x.getLsbD b)) := by
  induction l generalizing a with
  | nil => simp
  | cons x l ih => simp [ih, Bool.or_assoc]

/-- A joined flag is set when one of its parts sets it. -/
theorem joinFlags_bit (l : List (BitVec 5)) (b : Nat) : (joinFlags l).getLsbD b = l.any (fun x => x.getLsbD b) := by
  rw [joinFlags, foldl_or_bit]; simp

theorem leBytes_length (n v : Nat) : (leBytes n v).length = n := by
  induction n generalizing v with
  | zero => rfl
  | succ n ih => simp [leBytes, ih]

/-- The little-endian bytes of a number give back the number (R2). -/
theorem leNat_leBytes (n v : Nat) : leNat (leBytes n v) = v % 2 ^ (8 * n) := by
  induction n generalizing v with
  | zero => simp [leNat, leBytes, packList, Nat.mod_one]
  | succ n ih =>
    have h := ih (v >>> 8)
    simp only [leNat, leBytes, packList, List.map_cons, List.foldr_cons] at h ⊢
    rw [h, BitVec.toNat_ofNat, Nat.shiftRight_eq_div_pow, Nat.shiftLeft_eq]
    have e : 2 ^ (8 * (n + 1)) = 2 ^ 8 * 2 ^ (8 * n) := by rw [← Nat.pow_add]; ring_nf
    rw [e, Nat.mod_mul, Nat.mod_mod, Nat.mul_comm]

end Sys2Proof.Laws
end

