-- ==== Sys2Proof/Laws/Memory.lean ====
section
/-! SUPPORT. Memories: reading after writing, and that every memory operation keeps the canonical form (R376). -/

namespace Sys2Proof.Laws

open Sys2Proof Sys2Proof.Machine

theorem wfFrom_mono {m : Memory} {a b : Nat} (h : a ≤ b) (hw : m.wfFrom b = true) : m.wfFrom a = true := by
  cases m with
  | nil => rfl
  | cons p m =>
    obtain ⟨k, v⟩ := p
    simp only [Memory.wfFrom, Bool.and_eq_true, decide_eq_true_eq] at hw ⊢
    exact ⟨⟨by omega, hw.1.2⟩, hw.2⟩

/-- A byte below the first listed address reads 0. -/
theorem get_below {m : Memory} {lo a : Nat} (hw : m.wfFrom lo = true) (h : a < lo) : m.get a = 0 := by
  cases m with
  | nil => rfl
  | cons p m =>
    obtain ⟨k, v⟩ := p
    simp only [Memory.wfFrom, Bool.and_eq_true, decide_eq_true_eq] at hw
    rw [Memory.get, if_neg (by omega), if_pos (by omega)]

theorem wfFrom_cons (lo k : Nat) (v : Byte) (m : Memory) :
    Memory.wfFrom lo ((k, v) :: m) = true ↔ lo ≤ k ∧ v ≠ 0 ∧ Memory.wfFrom (k + 1) m = true := by
  simp only [Memory.wfFrom, Bool.and_eq_true, decide_eq_true_eq, and_assoc]

theorem wfFrom_set {m : Memory} {lo a : Nat} (v : Byte) (hw : m.wfFrom lo = true) (h : lo ≤ a) :
    (m.set a v).wfFrom lo = true := by
  induction m generalizing lo with
  | nil =>
    unfold Memory.set
    split
    · rfl
    · rename_i hv; exact (wfFrom_cons _ _ _ _).2 ⟨h, hv, rfl⟩
  | cons p m ih =>
    obtain ⟨k, w⟩ := p
    have hw' := hw
    rw [wfFrom_cons] at hw
    obtain ⟨h1, h2, h3⟩ := hw
    unfold Memory.set
    split
    · rename_i hk
      subst hk
      split
      · exact wfFrom_mono (by omega) h3
      · rename_i hv; exact (wfFrom_cons _ _ _ _).2 ⟨h1, hv, h3⟩
    · split
      · split
        · exact hw'
        · rename_i hak hv
          exact (wfFrom_cons _ _ _ _).2 ⟨h, hv, (wfFrom_cons _ _ _ _).2 ⟨by omega, h2, h3⟩⟩
      · exact (wfFrom_cons _ _ _ _).2 ⟨h1, h2, ih h3 (by omega)⟩

theorem get_set_from {m : Memory} {lo a : Nat} (v : Byte) (b : Nat) (hw : m.wfFrom lo = true) :
    (m.set a v).get b = if b = a then v else m.get b := by
  induction m generalizing lo with
  | nil =>
    unfold Memory.set
    split
    · simp_all [Memory.get]
    · simp only [Memory.get]
      by_cases h : a = b
      · simp [h]
      · simp [h, Ne.symm h]
  | cons p m ih =>
    obtain ⟨k, w⟩ := p
    simp only [Memory.wfFrom, Bool.and_eq_true, decide_eq_true_eq] at hw
    obtain ⟨⟨h1, h2⟩, h3⟩ := hw
    unfold Memory.set
    split
    · rename_i hk
      subst hk
      split
      · rename_i hv
        subst hv
        by_cases hb : b = k
        · rw [if_pos hb, hb, get_below h3 (by omega)]
        · rw [if_neg hb]
          rw [Memory.get, if_neg (Ne.symm hb)]
          split
          · exact get_below h3 (by omega)
          · rfl
      · by_cases hb : b = k
        · simp [Memory.get, hb]
        · simp [Memory.get, hb, Ne.symm hb]
    · rename_i hk
      split
      · rename_i hak
        split
        · rename_i hv
          subst hv
          by_cases hb : b = a
          · simp [Memory.get, hb, hk, hak]
          · simp [hb]
        · by_cases hb : b = a
          · simp [Memory.get, hb]
          · simp only [hb, if_false]
            rw [Memory.get, if_neg (Ne.symm hb)]
            split
            · rw [Memory.get, if_neg (by omega), if_pos (by omega)]
            · rfl
      · rename_i hak
        rw [Memory.get]
        by_cases hb : b = a
        · subst hb
          rw [if_neg hk, if_neg hak, ih h3, if_pos rfl, if_pos rfl]
        · rw [ih h3]
          simp only [hb, if_false]
          rfl

/-- Reading after a write: the value written there, and every other byte as before. -/
theorem get_set {m : Memory} (hw : m.wf = true) (a : Nat) (v : Byte) (b : Nat) :
    (m.set a v).get b = if b = a then v else m.get b := get_set_from v b hw

theorem wf_set {m : Memory} (hw : m.wf = true) (a : Nat) (v : Byte) : (m.set a v).wf = true :=
  wfFrom_set v hw (Nat.zero_le a)

theorem wf_write {m : Memory} (hw : m.wf = true) (a : Nat) (bs : List Byte) : (m.write a bs).wf = true := by
  induction bs generalizing m a with
  | nil => exact hw
  | cons b bs ih => exact ih (wf_set hw a b) (a + 1)

/-- Reading after a store of bytes. -/
theorem get_write {m : Memory} (hw : m.wf = true) (a : Nat) (bs : List Byte) (x : Nat) :
    (m.write a bs).get x = if a ≤ x ∧ x < a + bs.length then bs.getD (x - a) 0 else m.get x := by
  induction bs generalizing m a with
  | nil => simp [Memory.write]
  | cons b bs ih =>
    rw [Memory.write, ih (wf_set hw a b), get_set hw]
    simp only [List.length_cons]
    by_cases hx : x = a
    · subst hx
      rw [if_neg (by omega), if_pos rfl, if_pos (by omega)]; simp
    · rw [if_neg hx]
      by_cases h : a + 1 ≤ x ∧ x < a + 1 + bs.length
      · rw [if_pos h, if_pos (by omega), show x - a = (x - (a + 1)) + 1 by omega, List.getD_cons_succ]
      · rw [if_neg h, if_neg (by omega)]

theorem wf_setAll {m : Memory} (hw : m.wf = true) (l : List (Nat × Byte)) : (m.setAll l).wf = true := by
  unfold Memory.setAll
  induction l generalizing m with
  | nil => exact hw
  | cons p l ih => exact ih (wf_set hw p.1 p.2)

/-- Reading after a list of bytes has been stored: the last of them at the address, else as before. -/
theorem get_setAll {m : Memory} (hw : m.wf = true) (l : List (Nat × Byte)) (x : Nat) :
    (m.setAll l).get x = match l.reverse.find? (fun p => decide (p.1 = x)) with
      | some p => p.2
      | none => m.get x := by
  unfold Memory.setAll
  induction l using List.reverseRecOn generalizing m with
  | nil => rfl
  | append_singleton l p ih =>
    rw [List.foldl_append]
    have hwl : (l.foldl (fun (m : Memory) p => m.set p.1 p.2) m).wf = true := wf_setAll hw l
    simp only [List.foldl_cons, List.foldl_nil, List.reverse_append, List.reverse_cons, List.reverse_nil, List.nil_append,
      List.singleton_append, List.find?_cons]
    rw [get_set hwl, ih hw]
    by_cases hx : x = p.1
    · simp [hx]
    · simp [hx, Ne.symm hx]

theorem wf_overAll {m : Memory} (hw : m.wf = true) (l : List Shadow) : (overAll m l).wf = true := by
  unfold overAll
  induction l generalizing m with
  | nil => exact hw
  | cons w l ih => exact ih (wf_set hw w.pl.addr _)

theorem wf_dpaWriteMem {m : Memory} (hw : m.wf = true) (g : BitVec 2) (pa : Dpa) (bs : List Byte) :
    (dpaWriteMem m g pa bs).wf = true := by
  induction bs generalizing m pa with
  | nil => exact hw
  | cons b bs ih =>
    rw [dpaWriteMem]
    split
    · exact ih (wf_set hw _ b) _
    · exact ih hw _

/-- The empty memory has the canonical form. -/
theorem wf_nil : Memory.wf [] = true := rfl

end Sys2Proof.Laws
end

