-- ==== Sys2Proof/Laws/Access.lean ====
section
/-! SUPPORT. What the L and W slots do when the core is ready (R263 to R274). -/

namespace Sys2Proof.Laws

open Sys2Proof Sys2Proof.Machine Sys2Proof.Safety

/-- A fold whose every step keeps something keeps it. -/
theorem foldl_keeps {α β : Type} (f : State → α → State) (p : State → β) (h : ∀ s a, p (f s a) = p s) (l : List α) (s : State) :
    p (l.foldl f s) = p s := by
  induction l generalizing s with
  | nil => rfl
  | cons a l ih => rw [List.foldl_cons, ih, h]

theorem note_keeps (s : State) (g : BitVec 2) (ds : List (Nat × Decoded)) :
    (s.note g ds).core = s.core ∧ (s.note g ds).pcyc = s.pcyc := by
  unfold State.note; split <;> exact ⟨rfl, rfl⟩

theorem bufferLines_keeps (s : State) (wr : Bool) (ls : List Nat) :
    (s.bufferLines wr ls).core = s.core ∧ (s.bufferLines wr ls).pcyc = s.pcyc := by
  unfold State.bufferLines
  constructor
  · exact foldl_keeps _ State.core (fun s a => by dsimp only; split <;> rfl) _ _
  · exact foldl_keeps _ State.pcyc (fun s a => by dsimp only; split <;> rfl) _ _

/-- Walking the tables changes no core. -/
theorem walked_keeps (s : State) (x : XlatRegs) (va : Nat) :
    (s.walked x va).core = s.core ∧ (s.walked x va).pcyc = s.pcyc := by
  unfold State.walked State.sawEntries
  constructor
  · exact foldl_keeps _ State.core (fun s a => by rw [State.buffers, (bufferLines_keeps _ _ _).1, (note_keeps _ _ _).1]) _ _
  · exact foldl_keeps _ State.pcyc (fun s a => by rw [State.buffers, (bufferLines_keeps _ _ _).2, (note_keeps _ _ _).2]) _ _

/-- An operation on a memory address whose translation gives no fault has its effect: on the state as it is when its bundle's
check pass lies behind it, and after the reads of the walk when it stands alone. -/
theorem memIssue_ready {s : State} (slot : Slot) (g : PReg) (srcs : List Mark) (scal : Option FC) (va : Nat) (kind : AKind)
    (eff : Xl → State → State) (hr : Ready s) (hg : s.preg g = true) (h1 : Free s → scal = none)
    (hx : (∃ pa gr ap rap, s.translate s.core.sys.xlat va kind = .ok pa gr ap rap) ∨
      s.translate s.core.sys.xlat va kind = .moving ∨ ∃ ea, s.translate s.core.sys.xlat va kind = .away ea)
    (hq : rowsOf srcs = []) :
    memIssue slot g srcs scal va kind eff s = .next (eff (s.translate s.core.sys.xlat va kind)
      (if s.core.ctl.pass = .go then s else s.walked s.core.sys.xlat va)) := by
  have hf : xlCheckFC (s.translate s.core.sys.xlat va kind) kind = none := by
    rcases hx with ⟨pa, gr, ap, rap, h⟩ | h | ⟨ea, h⟩ <;> rw [h] <;> rfl
  have hi (t : State) (ht : Ready t) (hp : t.preg g = true) (h : Free t → scal = none) :
      issue slot g srcs none (fcFirst [scal, xlCheckFC (s.translate s.core.sys.xlat va kind) kind]) id
        (eff (s.translate s.core.sys.xlat va kind)) t = .next (eff (s.translate s.core.sys.xlat va kind) t) :=
    issue_ready_noRows _ _ _ _ _ _ _ ht hp (fun _ => rfl) (fun hfree => by rw [h hfree, hf]; rfl) hq
  unfold memIssue State.checksHere
  rcases hr with hr | ⟨hr, hfree⟩
  · simp only [hr, Bool.and_false, if_true]
    exact hi s (Or.inl hr) hg h1
  · obtain ⟨hc, hn⟩ := walked_keeps s s.core.sys.xlat va
    have hp := readsPoison_clean s.core srcs hfree.noPoison
    have hfree' : Free (s.walked s.core.sys.xlat va) := by
      constructor <;> simp only [hc, hn] <;> first
        | exact hfree.normal | exact hfree.noPoison | exact hfree.noMarks
        | exact hfree.idleS | exact hfree.idleV0 | exact hfree.idleV1 | exact hfree.idleX
    have hgo := hi (s.walked s.core.sys.xlat va) (Or.inr ⟨by rw [hc]; exact hr, hfree'⟩)
      (by unfold State.preg at hg ⊢; rw [hc]; exact hg) (fun _ => h1 hfree)
    have h0 := h1 hfree
    subst h0
    simp only [hr, hg, hp, Option.isNone_none, Bool.true_and, Bool.not_false, if_true]
    rcases hx with ⟨pa, gr, ap, rap, h⟩ | h | ⟨ea, h⟩ <;> simp only [h] at hgo ⊢ <;> exact hgo

theorem misaligned_ok {e n : Nat} (h : e % n = 0) : misaligned e n = none := by simp [misaligned, h]

theorem outSpad_ok {s : State} {e n : Nat} (h : e < 2 ^ 21) (h2 : e + n ≤ s.spadb) : s.outSpad e n = none := by
  unfold State.outSpad
  rw [show (decide _ || decide _) = false by rw [Bool.or_eq_false_iff]; constructor <;> (apply decide_eq_false; omega)]
  rfl

theorem outSide_ok {s : State} {e n : Nat} (h : e < 2 ^ 18) (h2 : e + n ≤ s.sideb) : s.outSide e n = none := by
  unfold State.outSide
  rw [show (decide _ || decide _) = false by rw [Bool.or_eq_false_iff]; constructor <;> (apply decide_eq_false; omega)]
  rfl

theorem outCluster_ok {e : Nat} (h : e < 2 ^ 27) : outCluster e = none := by
  unfold outCluster
  rw [show decide _ = false by apply decide_eq_false; omega]
  rfl

end Sys2Proof.Laws
end

