-- ==== Sys2Proof/Laws/Scalar.lean ====
section
/-! SUPPORT. What the S slot and the address ALU forms do when the core is ready (R202, R222). -/

namespace Sys2Proof.Laws

open Sys2Proof Sys2Proof.Machine Sys2Proof.Safety

theorem sBusy_free {s : State} (hf : Free s) : s.sBusy = none := by
  have := hf.idleS
  simp [State.sBusy, fcIf]; omega

theorem sIssue_ready {s : State} (g : PReg) (srcs : List SReg) (n : Nat) (eff : State → State) (hr : Ready s)
    (hg : s.preg g = true) : sIssue g srcs n eff s = .next (State.occupyS n (eff s)) := by
  unfold sIssue
  exact issue_ready_noRows _ _ _ _ _ _ _ hr hg sBusy_free (fun _ => rfl) (rowsOf_srcS _ _)

theorem sOne_ready {s : State} (g : PReg) (srcs : List SReg) (d : SReg) (f : State → Word) (hr : Ready s)
    (hg : s.preg g = true) : sOne g srcs d f s = .next (State.occupyS 1 (s.landS 1 .s d (f s))) :=
  sIssue_ready g srcs 1 _ hr hg

theorem sTwo_ready {s : State} (g : PReg) (lat : Nat) (d a b : SReg) (f : Word → Word → Word) (hr : Ready s)
    (hg : s.preg g = true) :
    sTwo g lat d a b f s = .next (State.occupyS 1 (s.landS lat .s d (f (s.sreg a) (s.sreg b)))) :=
  sIssue_ready g [a, b] 1 _ hr hg

theorem sUn_ready {s : State} (g : PReg) (d a : SReg) (f : Word → Word) (hr : Ready s) (hg : s.preg g = true) :
    sUn g d a f s = .next (State.occupyS 1 (s.landS 1 .s d (f (s.sreg a)))) :=
  sOne_ready g [a] d _ hr hg

theorem sPred_ready {s : State} (g : PReg) (srcs : List Mark) (d : PReg) (f : State → Bool) (hr : Ready s)
    (hg : s.preg g = true) (h : rowsOf srcs = []) :
    sPred g srcs d f s = .next (State.occupyS 1 (s.landP 1 .s d (f s))) := by
  unfold sPred
  exact issue_ready_noRows _ _ _ _ _ _ _ hr hg sBusy_free (fun _ => rfl) h

theorem axOp_ready {s : State} (slot : Slot) (g : PReg) (srcs : List SReg) (d : SReg) (f : State → Word) (hr : Ready s)
    (hg : s.preg g = true) : axOp slot g srcs d f s = .next (s.landS 1 slot d (f s)) := by
  unfold axOp
  rw [issue_ready_noRows _ _ _ _ _ _ _ hr hg (fun _ => rfl) noReplay_free (rowsOf_srcS _ _)]
  rfl

theorem clamp_eq (lo hi x : Int) (h : lo ≤ hi) : clamp lo hi x = max lo (min hi x) := by
  unfold clamp; split <;> [skip; split] <;> omega

end Sys2Proof.Laws
end

