-- ==== Sys2Proof/Laws/CopySync.lean ====
section
/-! SUPPORT. What issuing a copy command or an operation of the synchronisation slot can do, and how a bundle's operations are told
from its words. -/

namespace Sys2Proof.Laws

open Sys2Proof Sys2Proof.Machine Sys2Proof.Safety

theorem rowsOf_copy (srcs : List Mark) (hs : List HReg) (h : rowsOf srcs = []) : rowsOf (srcs ++ hs.map Mark.h) = [] := by
  rw [rowsOf_append, h]
  induction hs with
  | nil => rfl
  | cons a l ih => simpa using ih

theorem fcFirst_all {l : List (Option FC)} (h : ∀ x ∈ l, x = none) : fcFirst l = none := by
  induction l with
  | nil => rfl
  | cons a l ih => rw [h a (by simp)]; exact ih (fun x hx => h x (by simp [hx]))

/-- A guarded-on copy command whose token has room, whose handles are sound and whose further checks pass has its effect. -/
theorem copyIssue_ready {s : State} (g : PReg) (t : Tok) (hs : List HReg) (srcs : List Mark) (more : List (Option FC))
    (eff : State → State) (hr : Ready s) (hg : s.preg g = true)
    (ht : s.core.eng.tokens[t.toNat]'(t.isLt) ≠ 255) (hh : ∀ h ∈ hs, handleFault (s.hreg h) = none)
    (hm : ∀ x ∈ more, x = none) (hw : rowsOf srcs = []) : copyIssue g t hs srcs more eff s = .next (eff s) := by
  unfold copyIssue
  refine issue_ready_noRows _ _ _ _ _ _ _ hr hg (fun _ => ?_) (fun hf => ?_) (rowsOf_copy _ _ hw)
  · apply fcFirst_all
    intro x hx
    simp only [List.mem_cons, List.mem_map] at hx
    rcases hx with rfl | ⟨h, hh', rfl⟩
    · simp [State.tokFull, fcIf]; exact ht
    · simp [State.handleFC, hh h hh']
  · rw [noReplay_free hf, fcFirst_none]; exact fcFirst_all hm

theorem copyFull_false {c : Core} (h : (c.eng.cq.filter CopyCmd.queued).length < 16) : c.copyFull = false := by
  simp [Core.copyFull]; omega

/-- A guarded-on operation of the synchronisation slot whose checks pass has its effect. -/
theorem yIssue_ready {s : State} (g : PReg) (srcs : List Mark) (static : Option FC) (scal : List (Option FC))
    (eff : State → State) (hr : Ready s) (hg : s.preg g = true) (h1 : static = none) (h2 : ∀ x ∈ scal, x = none)
    (h3 : rowsOf srcs = []) : yIssue g srcs static scal eff s = .next (eff s) := by
  unfold yIssue
  refine issue_ready_noRows _ _ _ _ _ _ _ hr hg (fun _ => h1) (fun hf => ?_) h3
  rw [noReplay_free hf, fcFirst_none]
  exact fcFirst_all h2

/-- A guarded-off access of memory does nothing. -/
theorem memIssue_off {s : State} (slot : Slot) (g : PReg) (srcs : List Mark) (scal : Option FC) (va : Nat) (kind : AKind)
    (eff : Xl → State → State) (hr : Ready s) (hg : s.preg g = false) :
    memIssue slot g srcs scal va kind eff s = .next s := by
  unfold memIssue State.checksHere
  simp only [hg, Bool.false_and, Bool.and_false]
  exact issue_off _ _ _ _ _ _ _ hr hg

/-- The operations of a bundle every slot of which decodes, and none of its slots at fault. -/
theorem opsOf_one : ∀ (l : List (Slot × Except Reject Instr)) (ops : List Instr), opsOf l = some ops →
    slotOps l = ops ∧ slotFaults l = [] := by
  intro l
  induction l with
  | nil => intro ops h; simp [opsOf] at h; subst h; exact ⟨rfl, rfl⟩
  | cons x l ih =>
    intro ops h
    obtain ⟨sl, e⟩ := x
    cases e with
    | error r => simp [opsOf] at h
    | ok i =>
      simp only [opsOf] at h
      split at h
      · rename_i l' hl
        obtain ⟨h1, h2⟩ := ih l' hl
        simp only [Option.some.injEq] at h
        constructor
        · simp only [slotOps, List.filterMap_cons] at *
          by_cases hi : isNop i <;> simp [hi] at h ⊢ <;> simp [← h, h1]
        · simpa [slotFaults] using h2
      · simp at h

/-- No fault taken leaves the state. -/
theorem takeFaults_nil (s : State) : s.takeFaults none [] = s := by
  unfold State.takeFaults; cases s.core.task <;> rfl

theorem takeLate_nil (s : State) (h : s.core.ctl.late = []) : s.takeLate = s := by
  simp [State.takeLate, h]

end Sys2Proof.Laws
end

