-- ==== Sys2Proof/Laws/PerInstr.lean ====
section
/-! SUPPORT. Every instruction keeps its operands through its slot word (R171 to R176, R198): one lemma per constructor. -/

namespace Sys2Proof.Laws

open Sys2Proof

set_option Elab.async false
set_option linter.unusedSimpArgs false
set_option linter.unnecessarySeqFocus false

/-! ### Fields of a joined word -/

@[simp] theorem ext_hi {v w start len : Nat} {x : BitVec v} {y : BitVec w} (h : w ≤ start) :
    BitVec.extractLsb' (n := no_index (v + w)) start len (no_index (x ++ y)) = BitVec.extractLsb' (start - w) len x :=
  BitVec.extractLsb'_append_eq_of_le h

@[simp] theorem ext_lo {v w start len : Nat} {x : BitVec v} {y : BitVec w} (h : start + len ≤ w) :
    BitVec.extractLsb' (n := no_index (v + w)) start len (no_index (x ++ y)) = BitVec.extractLsb' start len y :=
  BitVec.extractLsb'_append_eq_of_add_le h

@[simp] theorem guardBy_nil (i : Instr) : guardBy [] i = .ok i := rfl
@[simp] theorem guardBy_false (n : Nat) (b : Bool) (l : List (Nat × Bool)) (i : Instr) (h : b = false) :
    guardBy ((n, b) :: l) i = guardBy l i := by subst h; rfl
@[simp] theorem bz_zero (n : Nat) : bz (0#n) = false := by simp [bz]

@[simp] theorem b1_zero : b1 0#1 = false := rfl
@[simp] theorem b1_one : b1 1#1 = true := rfl

/-! ### Field codes and their decoders -/

@[simp] theorem b1_ofB (b : Bool) : b1 (ofB b) = b := by cases b <;> rfl
@[simp] theorem bz_ofB (b : Bool) : bz (ofB b) = b := by cases b <;> rfl
@[simp] theorem amodeOf_code (x : AMode) : amodeOf (amodeCode x) = x := by cases x <;> rfl
@[simp] theorem rmOf_code (x : RMode) : rmOf (rmCode x) = x := by cases x <;> rfl
@[simp] theorem bitwOf_code (x : BitW) : bitwOf (bitwCode x) = x := by cases x <;> rfl
@[simp] theorem lanewOf_code (x : LaneW) : lanewOf (lanewCode x) = x := by cases x <;> rfl
@[simp] theorem ccOf_code (x : CCond) : ccOf (ccCode x) = x := by cases x <;> rfl
@[simp] theorem vcOf_code (x : VCond) : vcOf (vcCode x) = x := by cases x <;> rfl
@[simp] theorem tyOf_code (x : VType) : tyOf (tyCode x) = x := by cases x <;> rfl
@[simp] theorem gsOf_code (x : GSize) : gsOf (gsCode x) = x := by cases x <;> rfl
@[simp] theorem szOf_code (x : MSize) : szOf (szCode x) = x := by cases x <;> rfl
@[simp] theorem atomOf_code (x : AtomOp) : atomOf (atomCode x) = x := by cases x <;> rfl
@[simp] theorem hfOf_code (x : HField) : hfOf (hfCode x) = x := by cases x <;> rfl
@[simp] theorem srOf_code (x : SysReg) : srOf (srCode x) = x := by cases x <;> rfl
@[simp] theorem fscOf_code (x : FScope) : fscOf (fscCode x) = x := by cases x <;> rfl
@[simp] theorem bscOf_code (x : BScope) : bscOf (bscCode x) = x := by cases x <;> rfl
@[simp] theorem akOf_code (x : AKind) : akOf (akCode x) = x := by cases x <;> rfl
@[simp] theorem ivOf_code (x : InvKind) : ivOf (ivCode x) = x := by cases x <;> rfl
@[simp] theorem amodeCode_ne (x : AMode) : (amodeCode x = 3#2) = False := by cases x <;> decide
@[simp] theorem gsCode_ne (x : GSize) : (gsCode x = 3#2) = False := by cases x <;> decide
@[simp] theorem akCode_ne (x : AKind) : (akCode x = 3#2) = False := by cases x <;> decide
@[simp] theorem ivCode_ne (x : InvKind) : (ivCode x = 3#2) = False := by cases x <;> decide
@[simp] theorem hfCode_ne (x : HField) : (hfCode x = 15#4) = False := by cases x <;> decide
@[simp] theorem ccCode_le (x : CCond) : decide (11 < (ccCode x).toNat) = false := by cases x <;> rfl
@[simp] theorem vcCode_le (x : VCond) : decide (5 < (vcCode x).toNat) = false := by cases x <;> rfl
@[simp] theorem srCode_le (x : SysReg) : decide (16 < (srCode x).toNat) = false := by cases x <;> rfl
@[simp] theorem fscCode_le (x : FScope) : decide (4 < (fscCode x).toNat) = false := by cases x <;> rfl
@[simp] theorem atomCode_le (x : AtomOp) : decide (11 < (atomCode x).toNat) = false := by cases x <;> rfl

@[simp] theorem latchOf_code (o : Option (BitVec 2)) : latchOf (latchCode o) = o := by
  cases o with
  | none => rfl
  | some n => revert n; decide

@[simp] theorem latchCode_le (o : Option (BitVec 2)) : decide (4 < (latchCode o).toNat) = false := by
  cases o with
  | none => rfl
  | some n => revert n; decide

@[simp] theorem rmCode_rne : rmCode .rne = 0#2 := rfl
@[simp] theorem rmOf_zero : rmOf 0#2 = .rne := rfl
@[simp] theorem gsOf_zero : gsOf 0#2 = .g32 := rfl
@[simp] theorem gsCode_g32 : gsCode .g32 = 0#2 := rfl
theorem fmtPx_mx (f : Fmt) (h : fmtMx f = true) : fmtPx f = false := by cases f <;> simp_all [fmtMx, fmtPx]

@[simp] theorem lanewCode_w64 (w : LaneW) : (lanewCode w = 3#2) = (w = .w64) := by cases w <;> simp [lanewCode]

@[simp] theorem hselCode_ok (f : HSel) :
    (if (hselCode f).2 = true then decide (3 < (hselCode f).1.toNat) else decide ((hselCode f).1 = 15#4)) = false := by
  cases f with
  | field f => cases f <;> rfl
  | word q => revert q; decide

@[simp] theorem hselCode_of (f : HSel) :
    (if (hselCode f).2 = true then HSel.word ((hselCode f).1.extractLsb' 0 2) else HSel.field (hfOf (hselCode f).1)) = f := by
  cases f with
  | field f => cases f <;> rfl
  | word q => revert q; decide

theorem topk_ok (n : BitVec 5) (h : 1 ≤ n.toNat) (h2 : n.toNat ≤ 16) :
    (decide ((0#1 ++ n : BitVec 6) = 0#6) || decide (16 < (0#1 ++ n : BitVec 6).toNat)) = false := by
  revert n; decide

@[simp] theorem vselOf_code (x : VSel) : vselOf (vselCode x) = x := by
  cases x with
  | row r => revert r; decide +kernel
  | latch n => revert n; decide
  | scalar => rfl
  | zero => rfl

@[simp] theorem vselBad_code (x : VSel) : vselBad (vselCode x) = false := by
  cases x with
  | row r => revert r; decide +kernel
  | latch n => revert n; decide
  | scalar => rfl
  | zero => rfl

theorem vselCode_scalar (x : VSel) : (264#9 = vselCode x) = (.scalar = x) := by
  cases x with
  | row r => revert r; decide +kernel
  | latch n => revert n; decide
  | scalar => simp [vselCode]
  | zero => simp [vselCode]

@[simp] theorem xselOf_code (x : XSel) : xselOf (xselCode x) = x := by
  cases x with
  | row r => revert r; decide +kernel
  | latch n => revert n; decide
  | zero => rfl

@[simp] theorem xselBad_code (x : XSel) : xselBad (xselCode x) = false := by
  cases x with
  | row r => revert r; decide +kernel
  | latch n => revert n; decide
  | zero => rfl

theorem contains_code (l : List VSel) : (l.map vselCode).contains 264#9 = l.contains .scalar := by
  induction l with
  | nil => rfl
  | cons x l ih =>
    have e : (264#9 == vselCode x) = (VSel.scalar == x) := by
      rw [Bool.eq_iff_iff]; simp [vselCode_scalar]
    simp only [List.map_cons, List.contains_cons, e, ih]

/-- The scalar field is reserved only when no selector reads it. -/
theorem immOk_bad (imm : SReg) (l : List VSel) (h : WF.immOk imm l = true) : (bz imm && !(l.map vselCode).contains 264#9) = false := by
  rw [contains_code]
  simp only [WF.immOk, Bool.or_eq_true, decide_eq_true_eq] at h
  rcases h with h | h
  · simp [h, bz]
  · rw [h]; simp

@[simp] theorem immBad_ok1 (r : VRaw) (a : VSel) (h : WF.immOk r.imm [a] = true) : immBad r [vselCode a] = (0, false) :=
  congrArg (Prod.mk 0) (immOk_bad r.imm [a] h)

@[simp] theorem immBad_ok2 (r : VRaw) (a b : VSel) (h : WF.immOk r.imm [a, b] = true) :
    immBad r [vselCode a, vselCode b] = (0, false) := congrArg (Prod.mk 0) (immOk_bad r.imm [a, b] h)

@[simp] theorem immBad_ok3 (r : VRaw) (a b c : VSel) (h : WF.immOk r.imm [a, b, c] = true) :
    immBad r [vselCode a, vselCode b, vselCode c] = (0, false) := congrArg (Prod.mk 0) (immOk_bad r.imm [a, b, c] h)

@[simp] theorem immBad_imm (r : VRaw) (l : List (BitVec 9)) (h : r.imm = 0#6) : immBad r l = (0, false) := by
  simp [immBad, bz, h]

@[simp] theorem fmtSel_code (f : Fmt) (p : Fmt → Bool) : fmtSel (fmtCode f) p = (f, !p f) := by cases f <;> rfl

namespace RoundTrip

/-- A well-formed instruction is what its slot word decodes to. -/
def Statement (i : Instr) : Prop := i.wf = true → ∀ w, encodeSlot i = some w → decodeSlot w = .ok i

theorem nop (slot : Slot) : Statement (.nop slot) := by
  intro _ w h
  cases slot <;> cases h <;> rfl

theorem add (g : PReg) (m : AMode) (d a b : SReg) : Statement (.add g m d a b) := by
  intro hw w h; cases h
  simp_all [Instr.wf, decodeSlot, decodeS, decArith, dec3, decLogI, decShI, decField, decCount, encS3, encSI, encField, fnM, fnB, p2s, imm6, himm, srImm]

theorem sub (g : PReg) (m : AMode) (d a b : SReg) : Statement (.sub g m d a b) := by
  intro hw w h; cases h
  simp_all [Instr.wf, decodeSlot, decodeS, decArith, dec3, decLogI, decShI, decField, decCount, encS3, encSI, encField, fnM, fnB, p2s, imm6, himm, srImm]

theorem mul (g : PReg) (m : AMode) (d a b : SReg) : Statement (.mul g m d a b) := by
  intro hw w h; cases h
  simp_all [Instr.wf, decodeSlot, decodeS, decArith, dec3, decLogI, decShI, decField, decCount, encS3, encSI, encField, fnM, fnB, p2s, imm6, himm, srImm]

theorem mulh (g : PReg) (d a b : SReg) : Statement (.mulh g d a b) := by
  intro hw w h; cases h
  simp_all [Instr.wf, decodeSlot, decodeS, decArith, dec3, decLogI, decShI, decField, decCount, encS3, encSI, encField, fnM, fnB, p2s, imm6, himm, srImm]

theorem mulhn (g : PReg) (d a b : SReg) : Statement (.mulhn g d a b) := by
  intro hw w h; cases h
  simp_all [Instr.wf, decodeSlot, decodeS, decArith, dec3, decLogI, decShI, decField, decCount, encS3, encSI, encField, fnM, fnB, p2s, imm6, himm, srImm]

theorem and (g : PReg) (d a b : SReg) : Statement (.and g d a b) := by
  intro hw w h; cases h
  simp_all [Instr.wf, decodeSlot, decodeS, decArith, dec3, decLogI, decShI, decField, decCount, encS3, encSI, encField, fnM, fnB, p2s, imm6, himm, srImm]

theorem or (g : PReg) (d a b : SReg) : Statement (.or g d a b) := by
  intro hw w h; cases h
  simp_all [Instr.wf, decodeSlot, decodeS, decArith, dec3, decLogI, decShI, decField, decCount, encS3, encSI, encField, fnM, fnB, p2s, imm6, himm, srImm]

theorem xor (g : PReg) (d a b : SReg) : Statement (.xor g d a b) := by
  intro hw w h; cases h
  simp_all [Instr.wf, decodeSlot, decodeS, decArith, dec3, decLogI, decShI, decField, decCount, encS3, encSI, encField, fnM, fnB, p2s, imm6, himm, srImm]

theorem min (g : PReg) (d a b : SReg) : Statement (.min g d a b) := by
  intro hw w h; cases h
  simp_all [Instr.wf, decodeSlot, decodeS, decArith, dec3, decLogI, decShI, decField, decCount, encS3, encSI, encField, fnM, fnB, p2s, imm6, himm, srImm]

theorem max (g : PReg) (d a b : SReg) : Statement (.max g d a b) := by
  intro hw w h; cases h
  simp_all [Instr.wf, decodeSlot, decodeS, decArith, dec3, decLogI, decShI, decField, decCount, encS3, encSI, encField, fnM, fnB, p2s, imm6, himm, srImm]

theorem minn (g : PReg) (d a b : SReg) : Statement (.minn g d a b) := by
  intro hw w h; cases h
  simp_all [Instr.wf, decodeSlot, decodeS, decArith, dec3, decLogI, decShI, decField, decCount, encS3, encSI, encField, fnM, fnB, p2s, imm6, himm, srImm]

theorem maxn (g : PReg) (d a b : SReg) : Statement (.maxn g d a b) := by
  intro hw w h; cases h
  simp_all [Instr.wf, decodeSlot, decodeS, decArith, dec3, decLogI, decShI, decField, decCount, encS3, encSI, encField, fnM, fnB, p2s, imm6, himm, srImm]

theorem clmuls (g : PReg) (hi : Bool) (d a b : SReg) : Statement (.clmuls g hi d a b) := by
  intro hw w h; cases h
  simp_all [Instr.wf, decodeSlot, decodeS, decArith, dec3, decLogI, decShI, decField, decCount, encS3, encSI, encField, fnM, fnB, p2s, imm6, himm, srImm]

theorem div (g : PReg) (d a b : SReg) : Statement (.div g d a b) := by
  intro hw w h; cases h
  simp_all [Instr.wf, decodeSlot, decodeS, decArith, dec3, decLogI, decShI, decField, decCount, encS3, encSI, encField, fnM, fnB, p2s, imm6, himm, srImm]

theorem divn (g : PReg) (d a b : SReg) : Statement (.divn g d a b) := by
  intro hw w h; cases h
  simp_all [Instr.wf, decodeSlot, decodeS, decArith, dec3, decLogI, decShI, decField, decCount, encS3, encSI, encField, fnM, fnB, p2s, imm6, himm, srImm]

theorem rem (g : PReg) (d a b : SReg) : Statement (.rem g d a b) := by
  intro hw w h; cases h
  simp_all [Instr.wf, decodeSlot, decodeS, decArith, dec3, decLogI, decShI, decField, decCount, encS3, encSI, encField, fnM, fnB, p2s, imm6, himm, srImm]

theorem remn (g : PReg) (d a b : SReg) : Statement (.remn g d a b) := by
  intro hw w h; cases h
  simp_all [Instr.wf, decodeSlot, decodeS, decArith, dec3, decLogI, decShI, decField, decCount, encS3, encSI, encField, fnM, fnB, p2s, imm6, himm, srImm]

theorem addi (g : PReg) (m : AMode) (d a : SReg) (imm : BitVec 32) : Statement (.addi g m d a imm) := by
  intro hw w h; cases h
  simp_all [Instr.wf, decodeSlot, decodeS, decArith, dec3, decLogI, decShI, decField, decCount, encS3, encSI, encField, fnM, fnB, p2s, imm6, himm, srImm]

theorem andi (g : PReg) (z : Bool) (d a : SReg) (imm : BitVec 32) : Statement (.andi g z d a imm) := by
  intro hw w h; cases h
  simp_all [Instr.wf, decodeSlot, decodeS, decArith, dec3, decLogI, decShI, decField, decCount, encS3, encSI, encField, fnM, fnB, p2s, imm6, himm, srImm]

theorem ori (g : PReg) (z : Bool) (d a : SReg) (imm : BitVec 32) : Statement (.ori g z d a imm) := by
  intro hw w h; cases h
  simp_all [Instr.wf, decodeSlot, decodeS, decArith, dec3, decLogI, decShI, decField, decCount, encS3, encSI, encField, fnM, fnB, p2s, imm6, himm, srImm]

theorem xori (g : PReg) (z : Bool) (d a : SReg) (imm : BitVec 32) : Statement (.xori g z d a imm) := by
  intro hw w h; cases h
  simp_all [Instr.wf, decodeSlot, decodeS, decArith, dec3, decLogI, decShI, decField, decCount, encS3, encSI, encField, fnM, fnB, p2s, imm6, himm, srImm]

theorem shl (g : PReg) (d a b : SReg) : Statement (.shl g d a b) := by
  intro hw w h; cases h
  simp_all [Instr.wf, decodeSlot, decodeS, decArith, dec3, decLogI, decShI, decField, decCount, encS3, encSI, encField, fnM, fnB, p2s, imm6, himm, srImm]

theorem shr (g : PReg) (d a b : SReg) : Statement (.shr g d a b) := by
  intro hw w h; cases h
  simp_all [Instr.wf, decodeSlot, decodeS, decArith, dec3, decLogI, decShI, decField, decCount, encS3, encSI, encField, fnM, fnB, p2s, imm6, himm, srImm]

theorem sar (g : PReg) (d a b : SReg) : Statement (.sar g d a b) := by
  intro hw w h; cases h
  simp_all [Instr.wf, decodeSlot, decodeS, decArith, dec3, decLogI, decShI, decField, decCount, encS3, encSI, encField, fnM, fnB, p2s, imm6, himm, srImm]

theorem shli (g : PReg) (d a : SReg) (n : BitVec 6) : Statement (.shli g d a n) := by
  intro hw w h; cases h
  simp_all [Instr.wf, decodeSlot, decodeS, decArith, dec3, decLogI, decShI, decField, decCount, encS3, encSI, encField, fnM, fnB, p2s, imm6, himm, srImm]

theorem shri (g : PReg) (d a : SReg) (n : BitVec 6) : Statement (.shri g d a n) := by
  intro hw w h; cases h
  simp_all [Instr.wf, decodeSlot, decodeS, decArith, dec3, decLogI, decShI, decField, decCount, encS3, encSI, encField, fnM, fnB, p2s, imm6, himm, srImm]

theorem sari (g : PReg) (d a : SReg) (n : BitVec 6) : Statement (.sari g d a n) := by
  intro hw w h; cases h
  simp_all [Instr.wf, decodeSlot, decodeS, decArith, dec3, decLogI, decShI, decField, decCount, encS3, encSI, encField, fnM, fnB, p2s, imm6, himm, srImm]

theorem rol (g : PReg) (d a : SReg) (n : RegImm 6) : Statement (.rol g d a n) := by
  intro hw w h; cases n <;> cases h <;>
  simp_all [Instr.wf, decodeSlot, decodeS, decArith, dec3, decLogI, decShI, decField, decCount, encS3, encSI, encField, fnM, fnB, p2s, imm6, himm, srImm]

theorem fshr (g : PReg) (d a b : SReg) (n : Option (BitVec 7)) : Statement (.fshr g d a b n) := by
  intro hw w h; cases n <;> cases h <;>
  simp_all [Instr.wf, decodeSlot, decodeS, decArith, dec3, decLogI, decShI, decField, decCount, encS3, encSI, encField, fnM, fnB, p2s, imm6, himm, srImm]

theorem bext (g : PReg) (d a b : SReg) (pos : Option (BitVec 6)) (len : Option (BitVec 7)) : Statement (.bext g d a b pos len) := by
  intro hw w h; cases pos <;> cases len <;> cases h <;>
  simp_all [Instr.wf, decodeSlot, decodeS, decArith, dec3, decLogI, decShI, decField, decCount, encS3, encSI, encField, fnM, fnB, p2s, imm6, himm, srImm, WF.fieldOk, WF.lenOk]

theorem bexts (g : PReg) (d a b : SReg) (pos : Option (BitVec 6)) (len : Option (BitVec 7)) : Statement (.bexts g d a b pos len) := by
  intro hw w h; cases pos <;> cases len <;> cases h <;>
  simp_all [Instr.wf, decodeSlot, decodeS, decArith, dec3, decLogI, decShI, decField, decCount, encS3, encSI, encField, fnM, fnB, p2s, imm6, himm, srImm, WF.fieldOk, WF.lenOk]

theorem bins (g : PReg) (d a b : SReg) (pos : Option (BitVec 6)) (len : Option (BitVec 7)) : Statement (.bins g d a b pos len) := by
  intro hw w h; cases pos <;> cases len <;> cases h <;>
  simp_all [Instr.wf, decodeSlot, decodeS, decArith, dec3, decLogI, decShI, decField, decCount, encS3, encSI, encField, fnM, fnB, p2s, imm6, himm, srImm, WF.fieldOk, WF.lenOk]

theorem clz (g : PReg) (w : BitW) (d a : SReg) : Statement (.clz g w d a) := by
  intro hw w h; cases h
  simp_all [Instr.wf, decodeSlot, decodeS, decArith, dec3, decLogI, decShI, decField, decCount, encS3, encSI, encField, fnM, fnB, p2s, imm6, himm, srImm]

theorem ctz (g : PReg) (w : BitW) (d a : SReg) : Statement (.ctz g w d a) := by
  intro hw w h; cases h
  simp_all [Instr.wf, decodeSlot, decodeS, decArith, dec3, decLogI, decShI, decField, decCount, encS3, encSI, encField, fnM, fnB, p2s, imm6, himm, srImm]

theorem popc (g : PReg) (w : BitW) (d a : SReg) : Statement (.popc g w d a) := by
  intro hw w h; cases h
  simp_all [Instr.wf, decodeSlot, decodeS, decArith, dec3, decLogI, decShI, decField, decCount, encS3, encSI, encField, fnM, fnB, p2s, imm6, himm, srImm]

theorem brev (g : PReg) (w : BitW) (d a : SReg) : Statement (.brev g w d a) := by
  intro hw w h; cases h
  simp_all [Instr.wf, decodeSlot, decodeS, decArith, dec3, decLogI, decShI, decField, decCount, encS3, encSI, encField, fnM, fnB, p2s, imm6, himm, srImm]

theorem cmp (g : PReg) (cc : CCond) (d : PReg) (a b : SReg) : Statement (.cmp g cc d a b) := by
  intro hw w h; cases h
  simp_all [Instr.wf, decodeSlot, decodeS, decArith, dec3, decLogI, decShI, decField, decCount, encS3, encSI, encField, fnM, fnB, p2s, imm6, himm, srImm]

theorem cmpi (g : PReg) (cc : CCond) (d : PReg) (a : SReg) (imm : BitVec 32) : Statement (.cmpi g cc d a imm) := by
  intro hw w h; cases h
  simp_all [Instr.wf, decodeSlot, decodeS, decArith, dec3, decLogI, decShI, decField, decCount, encS3, encSI, encField, fnM, fnB, p2s, imm6, himm, srImm]

theorem plog (g : PReg) (d a b : PReg) (tt : BitVec 4) : Statement (.plog g d a b tt) := by
  intro hw w h; cases h
  simp_all [Instr.wf, decodeSlot, decodeS, decArith, dec3, decLogI, decShI, decField, decCount, encS3, encSI, encField, fnM, fnB, p2s, imm6, himm, srImm]

theorem sel (g : PReg) (q : PReg) (d a b : SReg) : Statement (.sel g q d a b) := by
  intro hw w h; cases h
  simp_all [Instr.wf, decodeSlot, decodeS, decArith, dec3, decLogI, decShI, decField, decCount, encS3, encSI, encField, fnM, fnB, p2s, imm6, himm, srImm]

theorem li (g : PReg) (z : Bool) (d : SReg) (imm : BitVec 32) : Statement (.li g z d imm) := by
  intro hw w h; cases h
  simp_all [Instr.wf, decodeSlot, decodeS, decArith, dec3, decLogI, decShI, decField, decCount, encS3, encSI, encField, fnM, fnB, p2s, imm6, himm, srImm]

theorem lih (g : PReg) (d : SReg) (imm : BitVec 32) : Statement (.lih g d imm) := by
  intro hw w h; cases h
  simp_all [Instr.wf, decodeSlot, decodeS, decArith, dec3, decLogI, decShI, decField, decCount, encS3, encSI, encField, fnM, fnB, p2s, imm6, himm, srImm]

theorem hset (g : PReg) (f : HSel) (h : HReg) (a : SReg) : Statement (.hset g f h a) := by
  intro hw w h; cases h
  simp_all [Instr.wf, decodeSlot, decodeS, decArith, dec3, decLogI, decShI, decField, decCount, encS3, encSI, encField, fnM, fnB, p2s, imm6, himm, srImm]

theorem hget (g : PReg) (f : HSel) (d : SReg) (h : HReg) : Statement (.hget g f d h) := by
  intro hw w h; cases h
  simp_all [Instr.wf, decodeSlot, decodeS, decArith, dec3, decLogI, decShI, decField, decCount, encS3, encSI, encField, fnM, fnB, p2s, imm6, himm, srImm]

theorem hadd (g : PReg) (f : HField) (h : HReg) (a : SReg) : Statement (.hadd g f h a) := by
  intro hw w h; cases h
  simp_all [Instr.wf, decodeSlot, decodeS, decArith, dec3, decLogI, decShI, decField, decCount, encS3, encSI, encField, fnM, fnB, p2s, imm6, himm, srImm]

theorem rdsr (g : PReg) (d : SReg) (r : SysReg) : Statement (.rdsr g d r) := by
  intro hw w h; cases h
  simp_all [Instr.wf, decodeSlot, decodeS, decArith, dec3, decLogI, decShI, decField, decCount, encS3, encSI, encField, fnM, fnB, p2s, imm6, himm, srImm]

theorem wrsr (g : PReg) (r : SysReg) (a : SReg) : Statement (.wrsr g r a) := by
  intro hw w h; cases h
  simp_all [Instr.wf, decodeSlot, decodeS, decArith, dec3, decLogI, decShI, decField, decCount, encS3, encSI, encField, fnM, fnB, p2s, imm6, himm, srImm]

theorem axadd (g : PReg) (d a : SReg) (y : RegImm 32) : Statement (.axadd g d a y) := by
  intro hw w h; cases y <;> cases h <;>
  simp_all [Instr.wf, decodeSlot, decodeL, decAx, encL, d8, imm6, riDisp]

theorem axsub (g : PReg) (d a : SReg) (y : RegImm 32) : Statement (.axsub g d a y) := by
  intro hw w h; cases y <;> cases h <;>
  simp_all [Instr.wf, decodeSlot, decodeL, decAx, encL, d8, imm6, riDisp]

theorem axlog (g : PReg) (op : AxLogOp) (d a : SReg) (y : RegImm 32) : Statement (.axlog g op d a y) := by
  intro hw w h; cases op <;> cases y <;> cases h <;>
  simp_all [Instr.wf, decodeSlot, decodeL, decAx, encL, d8, imm6, riDisp, axlogCode]

theorem axsh (g : PReg) (op : AxShOp) (d a : SReg) (y : RegImm 6) : Statement (.axsh g op d a y) := by
  intro hw w h; cases op <;> cases y <;> cases h <;>
  simp_all [Instr.wf, decodeSlot, decodeL, decAx, encL, d8, imm6, axshCode]

theorem wxadd (g : PReg) (sub : Bool) (d a : SReg) (y : RegImm 24) : Statement (.wxadd g sub d a y) := by
  intro hw w h; cases y <;> cases h <;>
  simp_all [Instr.wf, decodeSlot, decodeW, encW, d8]

theorem vadd (c : VCtl) (ty : VType) (md : VMode) (a b : VSel) : Statement (.vadd c ty md a b) := by
  intro hw w h; cases md <;> cases h <;>
  cases hf : ty.float <;> simp_all [Instr.wf, decodeSlot, decodeV, decV1, decV2, decV3, decVB, vctlOf, latchBad, immZero, modeBad, modeOf, intOnly, floatOnly, maskBad, quantBad, encV, encVM, mdFn, v3, k9, WF.modeOk]

theorem vsub (c : VCtl) (ty : VType) (md : VMode) (a b : VSel) : Statement (.vsub c ty md a b) := by
  intro hw w h; cases md <;> cases h <;>
  cases hf : ty.float <;> simp_all [Instr.wf, decodeSlot, decodeV, decV1, decV2, decV3, decVB, vctlOf, latchBad, immZero, modeBad, modeOf, intOnly, floatOnly, maskBad, quantBad, encV, encVM, mdFn, v3, k9, WF.modeOk]

theorem vmul (c : VCtl) (ty : VType) (md : VMode) (a b : VSel) : Statement (.vmul c ty md a b) := by
  intro hw w h; cases md <;> cases h <;>
  cases hf : ty.float <;> simp_all [Instr.wf, decodeSlot, decodeV, decV1, decV2, decV3, decVB, vctlOf, latchBad, immZero, modeBad, modeOf, intOnly, floatOnly, maskBad, quantBad, encV, encVM, mdFn, v3, k9, WF.modeOk]

theorem vfma (c : VCtl) (ty : VType) (md : VMode) (a b cc : VSel) : Statement (.vfma c ty md a b cc) := by
  intro hw w h; cases md <;> cases h <;>
  cases hf : ty.float <;> simp_all [Instr.wf, decodeSlot, decodeV, decV1, decV2, decV3, decVB, vctlOf, latchBad, immZero, modeBad, modeOf, intOnly, floatOnly, maskBad, quantBad, encV, encVM, mdFn, v3, k9, WF.modeOk]

theorem vmin (c : VCtl) (ty : VType) (md : VMode) (a b : VSel) : Statement (.vmin c ty md a b) := by
  intro hw w h; cases md <;> cases h <;>
  cases hf : ty.float <;> simp_all [Instr.wf, decodeSlot, decodeV, decV1, decV2, decV3, decVB, vctlOf, latchBad, immZero, modeBad, modeOf, intOnly, floatOnly, maskBad, quantBad, encV, encVM, mdFn, v3, k9, WF.modeOk]

theorem vmax (c : VCtl) (ty : VType) (md : VMode) (a b : VSel) : Statement (.vmax c ty md a b) := by
  intro hw w h; cases md <;> cases h <;>
  cases hf : ty.float <;> simp_all [Instr.wf, decodeSlot, decodeV, decV1, decV2, decV3, decVB, vctlOf, latchBad, immZero, modeBad, modeOf, intOnly, floatOnly, maskBad, quantBad, encV, encVM, mdFn, v3, k9, WF.modeOk]

theorem vabs (c : VCtl) (ty : VType) (md : VMode) (a : VSel) : Statement (.vabs c ty md a) := by
  intro hw w h; cases md <;> cases h <;>
  cases hf : ty.float <;> simp_all [Instr.wf, decodeSlot, decodeV, decV1, decV2, decV3, decVB, vctlOf, latchBad, immZero, modeBad, modeOf, intOnly, floatOnly, maskBad, quantBad, encV, encVM, mdFn, v3, k9, WF.modeOk]

theorem vmulh (c : VCtl) (ty : VType) (md : VMode) (a b : VSel) : Statement (.vmulh c ty md a b) := by
  intro hw w h; cases md <;> cases h <;>
  cases hf : ty.float <;> simp_all [Instr.wf, decodeSlot, decodeV, decV1, decV2, decV3, decVB, vctlOf, latchBad, immZero, modeBad, modeOf, intOnly, floatOnly, maskBad, quantBad, encV, encVM, mdFn, v3, k9, WF.modeOk]

theorem vand (c : VCtl) (ty : VType) (a b : VSel) : Statement (.vand c ty a b) := by
  intro hw w h; cases c <;> cases h <;>
  simp_all [Instr.wf, decodeSlot, decodeV, decV1, decV2, decV3, decVB, vctlOf, latchBad, immZero, modeBad, modeOf, intOnly, floatOnly, maskBad, quantBad, encV, encVM, mdFn, v3, k9, WF.modeOk]

theorem vor (c : VCtl) (ty : VType) (a b : VSel) : Statement (.vor c ty a b) := by
  intro hw w h; cases c <;> cases h <;>
  simp_all [Instr.wf, decodeSlot, decodeV, decV1, decV2, decV3, decVB, vctlOf, latchBad, immZero, modeBad, modeOf, intOnly, floatOnly, maskBad, quantBad, encV, encVM, mdFn, v3, k9, WF.modeOk]

theorem vxor (c : VCtl) (ty : VType) (a b : VSel) : Statement (.vxor c ty a b) := by
  intro hw w h; cases c <;> cases h <;>
  simp_all [Instr.wf, decodeSlot, decodeV, decV1, decV2, decV3, decVB, vctlOf, latchBad, immZero, modeBad, modeOf, intOnly, floatOnly, maskBad, quantBad, encV, encVM, mdFn, v3, k9, WF.modeOk]

theorem vshl (c : VCtl) (ty : VType) (a b : VSel) : Statement (.vshl c ty a b) := by
  intro hw w h; cases c <;> cases h <;>
  simp_all [Instr.wf, decodeSlot, decodeV, decV1, decV2, decV3, decVB, vctlOf, latchBad, immZero, modeBad, modeOf, intOnly, floatOnly, maskBad, quantBad, encV, encVM, mdFn, v3, k9, WF.modeOk]

theorem vshr (c : VCtl) (ty : VType) (a b : VSel) : Statement (.vshr c ty a b) := by
  intro hw w h; cases c <;> cases h <;>
  simp_all [Instr.wf, decodeSlot, decodeV, decV1, decV2, decV3, decVB, vctlOf, latchBad, immZero, modeBad, modeOf, intOnly, floatOnly, maskBad, quantBad, encV, encVM, mdFn, v3, k9, WF.modeOk]

theorem vsar (c : VCtl) (ty : VType) (a b : VSel) : Statement (.vsar c ty a b) := by
  intro hw w h; cases c <;> cases h <;>
  simp_all [Instr.wf, decodeSlot, decodeV, decV1, decV2, decV3, decVB, vctlOf, latchBad, immZero, modeBad, modeOf, intOnly, floatOnly, maskBad, quantBad, encV, encVM, mdFn, v3, k9, WF.modeOk]

theorem vcmp (c : VMaskCtl) (ty : VType) (cc : VCond) (a b : VSel) : Statement (.vcmp c ty cc a b) := by
  intro hw w h; cases c <;> cases h <;>
  simp_all [Instr.wf, decodeSlot, decodeV, decV1, decV2, decV3, decVB, vctlOf, latchBad, immZero, modeBad, modeOf, intOnly, floatOnly, maskBad, quantBad, encV, encVM, mdFn, v3, k9, WF.modeOk]

theorem vsel (c : VCtl) (ty : VType) (m : KReg) (a b : VSel) : Statement (.vsel c ty m a b) := by
  intro hw w h; cases c <;> cases h <;>
  simp_all [Instr.wf, decodeSlot, decodeV, decV1, decV2, decV3, decVB, vctlOf, latchBad, immZero, modeBad, modeOf, intOnly, floatOnly, maskBad, quantBad, encV, encVM, mdFn, v3, k9, WF.modeOk]

theorem vbext (c : VCtl) (ty : VType) (sgn : Bool) (a b cc : VSel) : Statement (.vbext c ty sgn a b cc) := by
  intro hw w h; cases h
  simp_all [Instr.wf, decodeSlot, decodeV, decV1, decV2, decV3, decVB, vctlOf, latchBad, immZero, modeBad, modeOf, intOnly, floatOnly, maskBad, quantBad, encV, encVM, mdFn, v3, k9, WF.modeOk]

theorem vfshr (c : VCtl) (ty : VType) (a b cc : VSel) : Statement (.vfshr c ty a b cc) := by
  intro hw w h; cases h
  simp_all [Instr.wf, decodeSlot, decodeV, decV1, decV2, decV3, decVB, vctlOf, latchBad, immZero, modeBad, modeOf, intOnly, floatOnly, maskBad, quantBad, encV, encVM, mdFn, v3, k9, WF.modeOk]

theorem vclmul (c : VCtl) (ty : VType) (hi : Bool) (a b : VSel) : Statement (.vclmul c ty hi a b) := by
  intro hw w h; cases h
  simp_all [Instr.wf, decodeSlot, decodeV, decV1, decV2, decV3, decVB, vctlOf, latchBad, immZero, modeBad, modeOf, intOnly, floatOnly, maskBad, quantBad, encV, encVM, mdFn, v3, k9, WF.modeOk]

theorem vpopc (c : VCtl) (ty : VType) (a : VSel) : Statement (.vpopc c ty a) := by
  intro hw w h; cases c <;> cases h <;>
  simp_all [Instr.wf, decodeSlot, decodeV, decV1, decV2, decV3, decVB, vctlOf, latchBad, immZero, modeBad, modeOf, intOnly, floatOnly, maskBad, quantBad, encV, encVM, mdFn, v3, k9, WF.modeOk]

theorem vclz (c : VCtl) (ty : VType) (a : VSel) : Statement (.vclz c ty a) := by
  intro hw w h; cases c <;> cases h <;>
  simp_all [Instr.wf, decodeSlot, decodeV, decV1, decV2, decV3, decVB, vctlOf, latchBad, immZero, modeBad, modeOf, intOnly, floatOnly, maskBad, quantBad, encV, encVM, mdFn, v3, k9, WF.modeOk]

theorem vbcast (c : VCtl) (ty : VType) (a : VSel) (l : LaneIdx) : Statement (.vbcast c ty a l) := by
  intro hw w h; cases c <;> cases l <;> cases h <;>
  simp_all [Instr.wf, decodeSlot, decodeV, decV1, decV2, decV3, decVB, vctlOf, latchBad, immZero, modeBad, modeOf, intOnly, floatOnly, maskBad, quantBad, encV, encVM, mdFn, v3, k9, WF.modeOk]

theorem viota (c : VCtl) (ty : VType) (f : IotaForm) : Statement (.viota c ty f) := by
  intro hw w h; cases c <;> cases f <;> cases h <;>
  simp_all [Instr.wf, decodeSlot, decodeV, decV1, decV2, decV3, decVB, vctlOf, latchBad, immZero, modeBad, modeOf, intOnly, floatOnly, maskBad, quantBad, encV, encVM, mdFn, v3, k9, WF.modeOk]

theorem vrsum (c : VCtl) (ty : VType) (sat : Bool) (a : VSel) : Statement (.vrsum c ty sat a) := by
  intro hw w h; cases c <;> cases h <;>
  cases hf : ty.float <;> simp_all [Instr.wf, decodeSlot, decodeV, decV1, decV2, decV3, decVB, vctlOf, latchBad, immZero, modeBad, modeOf, intOnly, floatOnly, maskBad, quantBad, encV, encVM, mdFn, v3, k9, WF.modeOk]

theorem vrmax (c : VCtl) (ty : VType) (a : VSel) : Statement (.vrmax c ty a) := by
  intro hw w h; cases c <;> cases h <;>
  simp_all [Instr.wf, decodeSlot, decodeV, decV1, decV2, decV3, decVB, vctlOf, latchBad, immZero, modeBad, modeOf, intOnly, floatOnly, maskBad, quantBad, encV, encVM, mdFn, v3, k9, WF.modeOk]

theorem vrmin (c : VCtl) (ty : VType) (a : VSel) : Statement (.vrmin c ty a) := by
  intro hw w h; cases c <;> cases h <;>
  simp_all [Instr.wf, decodeSlot, decodeV, decV1, decV2, decV3, decVB, vctlOf, latchBad, immZero, modeBad, modeOf, intOnly, floatOnly, maskBad, quantBad, encV, encVM, mdFn, v3, k9, WF.modeOk]

theorem vscan (c : VCtl) (ty : VType) (op : ScanOp) (sat : Bool) (a : VSel) : Statement (.vscan c ty op sat a) := by
  intro hw w h; cases c <;> cases h <;>
  cases op <;> cases hf : ty.float <;> simp_all [Instr.wf, decodeSlot, decodeV, decV1, decV2, decV3, decVB, vctlOf, latchBad, immZero, modeBad, modeOf, intOnly, floatOnly, maskBad, quantBad, encV, encVM, mdFn, v3, k9, WF.modeOk, scanCode]

theorem vshuf (c : VCtl) (ty : VType) (a b cc : VSel) : Statement (.vshuf c ty a b cc) := by
  intro hw w h; cases c <;> cases h <;>
  simp_all [Instr.wf, decodeSlot, decodeV, decV1, decV2, decV3, decVB, vctlOf, latchBad, immZero, modeBad, modeOf, intOnly, floatOnly, maskBad, quantBad, encV, encVM, mdFn, v3, k9, WF.modeOk]

theorem vslide (c : VCtl) (ty : VType) (up : Bool) (a b : VSel) (s : SlideAmt) : Statement (.vslide c ty up a b s) := by
  intro hw w h; cases c <;> cases s <;> cases h <;>
  simp_all [Instr.wf, decodeSlot, decodeV, decV1, decV2, decV3, decVB, vctlOf, latchBad, immZero, modeBad, modeOf, intOnly, floatOnly, maskBad, quantBad, encV, encVM, mdFn, v3, k9, WF.modeOk]

theorem vtopk (c : VCtl) (ty : VType) (n : BitVec 5) (a : VSel) : Statement (.vtopk c ty n a) := by
  intro hw w h; cases c <;> cases h <;>
  simp_all [Instr.wf, decodeSlot, decodeV, decV1, decV2, decV3, decVB, vctlOf, latchBad, immZero, modeBad, modeOf, intOnly, floatOnly, maskBad, quantBad, encV, encVM, mdFn, v3, k9, WF.modeOk, topk_ok]

theorem vcvt (c : VCtl) (dt st : VType) (md : VMode) (part : BitVec 3) (a : VSel) : Statement (.vcvt c dt st md part a) := by
  intro hw w h; cases c <;> cases md <;> cases h <;>
  cases hf : dt.float <;> simp_all [Instr.wf, decodeSlot, decodeV, decV1, decV2, decV3, decVB, vctlOf, latchBad, immZero, modeBad, modeOf, intOnly, floatOnly, maskBad, quantBad, encV, encVM, mdFn, v3, k9, WF.modeOk]

theorem vsfu (c : VCtl) (ty : VType) (f : SfuFn) (a : VSel) : Statement (.vsfu c ty f a) := by
  intro hw w h; cases c <;> cases f <;> cases h <;>
  simp_all [Instr.wf, decodeSlot, decodeV, decV1, decV2, decV3, decVB, vctlOf, latchBad, immZero, modeBad, modeOf, intOnly, floatOnly, maskBad, quantBad, encV, encVM, mdFn, v3, k9, WF.modeOk, sfuCode]

theorem vmov (c : VCtl) (ty : VType) (a : VSel) : Statement (.vmov c ty a) := by
  intro hw w h; cases c <;> cases h <;>
  simp_all [Instr.wf, decodeSlot, decodeV, decV1, decV2, decV3, decVB, vctlOf, latchBad, immZero, modeBad, modeOf, intOnly, floatOnly, maskBad, quantBad, encV, encVM, mdFn, v3, k9, WF.modeOk]

theorem vmask (c : VMaskCtl) (ty : VType) (md : VMaskMode) (a : VSel) : Statement (.vmask c ty md a) := by
  intro hw w h; cases c <;> cases md <;> cases h <;>
  simp_all [Instr.wf, decodeSlot, decodeV, decV1, decV2, decV3, decVB, vctlOf, latchBad, immZero, modeBad, modeOf, intOnly, floatOnly, maskBad, quantBad, encV, encVM, mdFn, v3, k9, WF.modeOk, vmaskCode]

theorem vqnt (c : VCtl) (ty : VType) (f : Fmt) (gs : GSize) (a : VSel) : Statement (.vqnt c ty f gs a) := by
  intro hw w h; cases c <;> cases h <;>
  cases hm : fmtMx f <;> simp_all [Instr.wf, decodeSlot, decodeV, decV1, decV2, decV3, decVB, vctlOf, latchBad, immZero, modeBad, modeOf, intOnly, floatOnly, maskBad, quantBad, encV, encVM, mdFn, v3, k9, WF.modeOk, fmtPx_mx]

theorem vdqnt (c : VCtl) (ty : VType) (f : Fmt) (gs : GSize) (a : VSel) : Statement (.vdqnt c ty f gs a) := by
  intro hw w h; cases c <;> cases h <;>
  cases hm : fmtMx f <;> simp_all [Instr.wf, decodeSlot, decodeV, decV1, decV2, decV3, decVB, vctlOf, latchBad, immZero, modeBad, modeOf, intOnly, floatOnly, maskBad, quantBad, encV, encVM, mdFn, v3, k9, WF.modeOk, fmtPx_mx]

theorem vsetk (unit : VUnit) (dk : KReg) (f : SetkForm) : Statement (.vsetk unit dk f) := by
  intro hw w h; cases f <;> cases h <;>
  simp_all [Instr.wf, decodeSlot, decodeV, decV1, decV2, decV3, decVB, vctlOf, latchBad, immZero, modeBad, modeOf, intOnly, floatOnly, maskBad, quantBad, encV, encVM, mdFn, v3, k9, WF.modeOk]

theorem vextr (unit : VUnit) (ty : VType) (d : SReg) (a : VSel) (l : LaneIdx) (imm : SReg) : Statement (.vextr unit ty d a l imm) := by
  intro hw w h; cases l <;> cases h <;>
  simp_all [Instr.wf, decodeSlot, decodeV, decV1, decV2, decV3, decVB, vctlOf, latchBad, immZero, modeBad, modeOf, intOnly, floatOnly, maskBad, quantBad, encV, encVM, mdFn, v3, k9, WF.modeOk, d8, laneSb, laneSc, laneV]

theorem vins (unit : VUnit) (ty : VType) (d : Row) (nowb : Bool) (n : SReg) (l : LaneIdx) : Statement (.vins unit ty d nowb n l) := by
  intro hw w h; cases l <;> cases h <;>
  simp_all [Instr.wf, decodeSlot, decodeV, decV1, decV2, decV3, decVB, vctlOf, latchBad, immZero, modeBad, modeOf, intOnly, floatOnly, maskBad, quantBad, encV, encVM, mdFn, v3, k9, WF.modeOk, laneSb, laneSc, laneV]

theorem xexp (c : XCtl) (compress : Bool) (w : LaneW) (m : KReg) : Statement (.xexp c compress w m) := by
  intro hw w h; cases c <;> cases h <;>
  simp_all [Instr.wf, decodeSlot, decodeX, encX, srcBad, xctlOf]

theorem xpln (c : XCtl) (f : Fmt) : Statement (.xpln c f) := by
  intro hw w h; cases c <;> cases h <;>
  simp_all [Instr.wf, decodeSlot, decodeX, encX, srcBad, xctlOf]

theorem xtrn (c : XCtl) (f : Fmt) : Statement (.xtrn c f) := by
  intro hw w h; cases c <;> cases h <;>
  simp_all [Instr.wf, decodeSlot, decodeX, encX, srcBad, xctlOf]

theorem xcvt (c : XCtl) (sf df : Fmt) (gs : GSize) (sat : Bool) : Statement (.xcvt c sf df gs sat) := by
  intro hw w h; cases c <;> cases h <;>
  simp_all [Instr.wf, decodeSlot, decodeX, encX, srcBad, xctlOf]

theorem xscl (c : XCtl) (inv : Bool) (h : HReg) : Statement (.xscl c inv h) := by
  intro hw w h; cases c <;> cases h <;>
  simp_all [Instr.wf, decodeSlot, decodeX, encX, srcBad, xctlOf]

theorem xpack (c : XCtl) (w1 : BitVec 3) : Statement (.xpack c w1) := by
  intro hw w h; cases c <;> cases h <;>
  simp_all [Instr.wf, decodeSlot, decodeX, encX, srcBad, xctlOf]

theorem xunpk (c : XCtl) (sgn : Bool) (w1 : BitVec 3) : Statement (.xunpk c sgn w1) := by
  intro hw w h; cases c <;> cases h <;>
  simp_all [Instr.wf, decodeSlot, decodeX, encX, srcBad, xctlOf]

theorem xbits (c : XCtl) (w : LaneW) (msb : Bool) (b : BitVec 6) : Statement (.xbits c w msb b) := by
  intro hw w h; cases c <;> cases h <;>
  simp_all [Instr.wf, decodeSlot, decodeX, encX, srcBad, xctlOf]

theorem xzip (c : XCtl) (w : LaneW) : Statement (.xzip c w) := by
  intro hw w h; cases c <;> cases h <;>
  simp_all [Instr.wf, decodeSlot, decodeX, encX, srcBad, xctlOf]

theorem xunzip (c : XCtl) (w : LaneW) : Statement (.xunzip c w) := by
  intro hw w h; cases c <;> cases h <;>
  simp_all [Instr.wf, decodeSlot, decodeX, encX, srcBad, xctlOf]

theorem xswz (c : XCtl) (p : SwzPat) (w : LaneW) : Statement (.xswz c p w) := by
  intro hw w h; cases c <;> cases p <;> cases h <;>
  simp_all [Instr.wf, decodeSlot, decodeX, encX, srcBad, xctlOf]

theorem lds (g : PReg) (cl : Cls) (d a : SReg) (sz : MSize) (sx : Bool) (side : Bool) (disp : BitVec 32) : Statement (.lds g cl d a sz sx side disp) := by
  intro hw w h; cases h
  simp_all [Instr.wf, decodeSlot, decodeL, decAx, encL, d8, imm6]

theorem ldm (g : PReg) (cl : Cls) (d a : SReg) (sz : MSize) (sx : Bool) (clus : Bool) (disp : BitVec 24) (lat : BitVec 8) : Statement (.ldm g cl d a sz sx clus disp lat) := by
  intro hw w h; cases h
  simp_all [Instr.wf, decodeSlot, decodeL, decAx, encL, d8, imm6]

theorem ldw (g : PReg) (cl : Cls) (d a : SReg) (sz : MSize) (sx : Bool) (clus : Bool) (disp : BitVec 32) : Statement (.ldw g cl d a sz sx clus disp) := by
  intro hw w h; cases h
  simp_all [Instr.wf, decodeSlot, decodeL, decAx, encL, d8, imm6]

theorem ldwRpl (g : PReg) : Statement (.ldwRpl g) := by
  intro hw w h; cases h
  simp_all [Instr.wf, decodeSlot, decodeL, decAx, encL, d8, imm6]

theorem ldq (g : PReg) (d : SReg) (n : Option (BitVec 4)) : Statement (.ldq g d n) := by
  intro hw w h; cases n <;> cases h <;>
  simp_all [Instr.wf, decodeSlot, decodeL, decAx, encL, d8, imm6]

theorem sts (g : PReg) (cl : Cls) (src a : SReg) (sz : MSize) (sp : SpSpace) (disp : BitVec 24) : Statement (.sts g cl src a sz sp disp) := by
  intro hw w h; cases sp <;> cases h <;>
  simp_all [Instr.wf, decodeSlot, decodeW, encW, d8]

theorem stm (g : PReg) (cl : Cls) (src a : SReg) (sz : MSize) (clus : Bool) (disp : BitVec 24) : Statement (.stm g cl src a sz clus disp) := by
  intro hw w h; cases h
  simp_all [Instr.wf, decodeSlot, decodeW, encW, d8]

theorem vld (g : PReg) (cl : Cls) (d : Row) (a : SReg) (b1 : BitVec 4) (w : LaneW) (k : KReg) (disp : BitVec 29) : Statement (.vld g cl d a b1 w k disp) := by
  intro hw w h; cases h
  simp_all [Instr.wf, decodeSlot, decodeL, decAx, encL, d8, imm6]

theorem vst (g : PReg) (cl : Cls) (src : Row) (a : SReg) (b1 : BitVec 4) (w : LaneW) (k : KReg) (disp : BitVec 21) : Statement (.vst g cl src a b1 w k disp) := by
  intro hw w h; cases h
  simp_all [Instr.wf, decodeSlot, decodeW, encW, d8]

theorem vldp (g : PReg) (cl : Cls) (d : Row) (a : SReg) (sw : LaneW) (dw : LaneW) (sx : Bool) (k : KReg) (disp : BitVec 29) : Statement (.vldp g cl d a sw dw sx k disp) := by
  intro hw w h; cases sw <;> cases dw <;> cases h <;>
  simp_all [Instr.wf, decodeSlot, decodeL, decAx, encL, d8, imm6, WF.vldpOk]

theorem vldg (g : PReg) (cl : Cls) (d : Row) (a : SReg) (w : LaneW) (sh : BitVec 2) (x : Row) (k : KReg) (disp : BitVec 21) : Statement (.vldg g cl d a w sh x k disp) := by
  intro hw w h; cases h
  simp_all [Instr.wf, decodeSlot, decodeL, decAx, encL, d8, imm6, WF.wide]

theorem vsts (g : PReg) (cl : Cls) (src : Row) (a : SReg) (w : LaneW) (sh : BitVec 2) (x : Row) (k : KReg) (disp : BitVec 13) : Statement (.vsts g cl src a w sh x k disp) := by
  intro hw w h; cases h
  simp_all [Instr.wf, decodeSlot, decodeW, encW, d8, WF.wide]

theorem ldh (g : PReg) (cl : Cls) (h : HReg) (a : SReg) (mem : Bool) (disp : BitVec 32) : Statement (.ldh g cl h a mem disp) := by
  intro hw w h; cases h
  simp_all [Instr.wf, decodeSlot, decodeL, decAx, encL, d8, imm6]

theorem sth (g : PReg) (cl : Cls) (h : HReg) (a : SReg) (mem : Bool) (disp : BitVec 24) : Statement (.sth g cl h a mem disp) := by
  intro hw w h; cases h
  simp_all [Instr.wf, decodeSlot, decodeW, encW, d8]

theorem ldpcw (g : PReg) (cl : Cls) (n : BitVec 4) (a : SReg) (mem : Bool) (disp : BitVec 32) : Statement (.ldpcw g cl n a mem disp) := by
  intro hw w h; cases h
  simp_all [Instr.wf, decodeSlot, decodeL, decAx, encL, d8, imm6]

theorem ats (g : PReg) (cl : Cls) (op : AtomOp) (eight : Bool) (src : SReg) (clus : Bool) (a dd : SReg) (lat : BitVec 8) (disp : BitVec 10) : Statement (.ats g cl op eight src clus a dd lat disp) := by
  intro hw w h; by_cases hl : lat = 0 <;> cases h <;>
  simp_all [Instr.wf, decodeSlot, decodeW, encW, d8]

theorem atm (g : PReg) (cl : Cls) (op : AtomOp) (eight : Bool) (src a dd : SReg) (lat : BitVec 8) (disp : BitVec 10) : Statement (.atm g cl op eight src a dd lat disp) := by
  intro hw w h; by_cases hl : lat = 0 <;> cases h <;>
  simp_all [Instr.wf, decodeSlot, decodeW, encW, d8]

theorem mst (g : PReg) (cl : Cls) (src a : SReg) (sz : MSize) (disp : BitVec 24) : Statement (.mst g cl src a sz disp) := by
  intro hw w h; cases h
  simp_all [Instr.wf, decodeSlot, decodeW, encW, d8]

theorem cpy (g : PReg) (cl : Cls) (t : Tok) (hd hs : HReg) (rm : RMode) (sat outer comp : Bool) : Statement (.cpy g cl t hd hs rm sat outer comp) := by
  intro hw w h; cases h
  simp_all [Instr.wf, decodeSlot, decodeC, decCopy, decFifo, encC, copyPay, fifoPay]

theorem cpyp (g : PReg) (cl : Cls) (t : Tok) (hd hs : HReg) (rm : RMode) (sat outer comp : Bool) : Statement (.cpyp g cl t hd hs rm sat outer comp) := by
  intro hw w h; cases h
  simp_all [Instr.wf, decodeSlot, decodeC, decCopy, decFifo, encC, copyPay, fifoPay]

theorem chst (g : PReg) (cl : Cls) (t : Tok) (hd hs : HReg) (rm : RMode) (sat outer comp : Bool) : Statement (.chst g cl t hd hs rm sat outer comp) := by
  intro hw w h; cases h
  simp_all [Instr.wf, decodeSlot, decodeC, decCopy, decFifo, encC, copyPay, fifoPay]

theorem cpya (g : PReg) (cl : Cls) (t : Tok) (f : Fmt) (hs : HReg) (gs : GSize) (outer : Bool) : Statement (.cpya g cl t f hs gs outer) := by
  intro hw w h; cases h
  simp_all [Instr.wf, decodeSlot, decodeC, decCopy, decFifo, encC, copyPay, fifoPay]

theorem cpyb (g : PReg) (cl : Cls) (t : Tok) (f : Fmt) (hs : HReg) (gs : GSize) (outer : Bool) : Statement (.cpyb g cl t f hs gs outer) := by
  intro hw w h; cases h
  simp_all [Instr.wf, decodeSlot, decodeC, decCopy, decFifo, encC, copyPay, fifoPay]

theorem cfil (g : PReg) (cl : Cls) (t : Tok) (hd : HReg) (p : SReg) (outer : Bool) : Statement (.cfil g cl t hd p outer) := by
  intro hw w h; cases h
  simp_all [Instr.wf, decodeSlot, decodeC, decCopy, decFifo, encC, copyPay, fifoPay]

theorem cred (g : PReg) (cl : Cls) (t : Tok) (hd hs : HReg) (peer slot : SReg) (add : Bool) : Statement (.cred g cl t hd hs peer slot add) := by
  intro hw w h; cases h
  simp_all [Instr.wf, decodeSlot, decodeC, decCopy, decFifo, encC, copyPay, fifoPay]

theorem cres (g : PReg) (cl : Cls) (t : Tok) (hd hs hr hc : HReg) (gs : GSize) : Statement (.cres g cl t hd hs hr hc gs) := by
  intro hw w h; cases h
  simp_all [Instr.wf, decodeSlot, decodeC, decCopy, decFifo, encC, copyPay, fifoPay]

theorem cmcs (g : PReg) (cl : Cls) (t : Tok) (hs : HReg) (a : SReg) : Statement (.cmcs g cl t hs a) := by
  intro hw w h; cases h
  simp_all [Instr.wf, decodeSlot, decodeC, decCopy, decFifo, encC, copyPay, fifoPay]

theorem cwld (g : PReg) (cl : Cls) (t : Tok) (hd hs : HReg) (outer : Bool) : Statement (.cwld g cl t hd hs outer) := by
  intro hw w h; cases h
  simp_all [Instr.wf, decodeSlot, decodeC, decCopy, decFifo, encC, copyPay, fifoPay]

theorem cmig (g : PReg) (cl : Cls) (t : Tok) (v s : SReg) (far : Bool) (gran : BitVec 2) : Statement (.cmig g cl t v s far gran) := by
  intro hw w h; cases h
  simp_all [Instr.wf, decodeSlot, decodeC, decCopy, decFifo, encC, copyPay, fifoPay]

theorem crly (g : PReg) (cl : Cls) (t : Tok) (v s : SReg) (gran : BitVec 2) : Statement (.crly g cl t v s gran) := by
  intro hw w h; cases h
  simp_all [Instr.wf, decodeSlot, decodeC, decCopy, decFifo, encC, copyPay, fifoPay]

theorem cnest (g : PReg) (l5 : Bool) (c ds dd : SReg) : Statement (.cnest g l5 c ds dd) := by
  intro hw w h; cases h
  simp_all [Instr.wf, decodeSlot, decodeC, decCopy, decFifo, encC, copyPay, fifoPay]

theorem mcfg (g : PReg) (n : BitVec 4) (a : SReg) : Statement (.mcfg g n a) := by
  intro hw w h; cases h
  simp_all [Instr.wf, decodeSlot, decodeM, encM]

theorem mpcw (g : PReg) (n : BitVec 4) (a : SReg) : Statement (.mpcw g n a) := by
  intro hw w h; cases h
  simp_all [Instr.wf, decodeSlot, decodeM, encM]

theorem mgo (g : PReg) : Statement (.mgo g) := by
  intro hw w h; cases h
  simp_all [Instr.wf, decodeSlot, decodeM, encM]

theorem mhad (g : PReg) (row0 : Row) (m1 : BitVec 7) (drn : Bool) (hd : HReg) (t : Tok) (rm : RMode) (psh : BitVec 8) : Statement (.mhad g row0 m1 drn hd t rm psh) := by
  intro hw w h; cases h
  simp_all [Instr.wf, decodeSlot, decodeM, encM]

theorem mwld (g : PReg) (pcw : BitVec 4) (k1 n1 : BitVec 7) (t : Tok) : Statement (.mwld g pcw k1 n1 t) := by
  intro hw w h; cases h
  simp_all [Instr.wf, decodeSlot, decodeM, encM]

theorem mdrn (g : PReg) (row0 : Row) (c1 : BitVec 7) (hd : HReg) (t : Tok) (rm : RMode) (psh : BitVec 8) (i32 : Bool) : Statement (.mdrn g row0 c1 hd t rm psh i32) := by
  intro hw w h; cases h
  simp_all [Instr.wf, decodeSlot, decodeM, encM]

theorem mzero (g : PReg) (row0 : Row) (c1 : BitVec 8) (t : Tok) : Statement (.mzero g row0 c1 t) := by
  intro hw w h; cases h
  simp_all [Instr.wf, decodeSlot, decodeM, encM]

theorem mstat (g : PReg) (a : SReg) : Statement (.mstat g a) := by
  intro hw w h; cases h
  simp_all [Instr.wf, decodeSlot, decodeM, encM]

theorem mswap (g : PReg) (t : Tok) : Statement (.mswap g t) := by
  intro hw w h; cases h
  simp_all [Instr.wf, decodeSlot, decodeM, encM]

theorem br (g : PReg) (t : Target) : Statement (.br g t) := by
  intro hw w h; cases t <;> cases h <;>
  simp_all [Instr.wf, decodeSlot, decodeY, encY, yMask, yOne, decLoopCount, loopPay]

theorem brc (g : PReg) (q : PReg) (n : Bool) (disp : BitVec 24) : Statement (.brc g q n disp) := by
  intro hw w h; cases h
  simp_all [Instr.wf, decodeSlot, decodeY, encY, yMask, yOne, decLoopCount, loopPay]

theorem call (g : PReg) (l : SReg) (t : Target) : Statement (.call g l t) := by
  intro hw w h; cases t <;> cases h <;>
  simp_all [Instr.wf, decodeSlot, decodeY, encY, yMask, yOne, decLoopCount, loopPay]

theorem ret (g : PReg) (a : SReg) : Statement (.ret g a) := by
  intro hw w h; cases h
  simp_all [Instr.wf, decodeSlot, decodeY, encY, yMask, yOne, decLoopCount, loopPay]

theorem loop (g : PReg) (lvl : BitVec 2) (desc : Bool) (len1 : BitVec 8) (n : LoopCount) : Statement (.loop g lvl desc len1 n) := by
  intro hw w h; cases n <;> cases h <;>
  simp_all [Instr.wf, decodeSlot, decodeY, encY, yMask, yOne, decLoopCount, loopPay]

theorem loopr (g : PReg) (lvl : BitVec 2) (desc : Bool) (len1 : BitVec 8) (drain : BitVec 3) (n : LoopCount) : Statement (.loopr g lvl desc len1 drain n) := by
  intro hw w h; cases n <;> cases h <;>
  simp_all [Instr.wf, decodeSlot, decodeY, encY, yMask, yOne, decLoopCount, loopPay]

theorem waite (g : PReg) (mask : BitVec 16) : Statement (.waite g mask) := by
  intro hw w h; cases h
  simp_all [Instr.wf, decodeSlot, decodeY, encY, yMask, yOne, decLoopCount, loopPay]

theorem bsp (g : PReg) (sc : BScope) : Statement (.bsp g sc) := by
  intro hw w h; cases h
  simp_all [Instr.wf, decodeSlot, decodeY, encY, yMask, yOne, decLoopCount, loopPay]

theorem fence (g : PReg) (mask : BitVec 16) (sc : FScope) : Statement (.fence g mask sc) := by
  intro hw w h; cases h
  simp_all [Instr.wf, decodeSlot, decodeY, encY, yMask, yOne, decLoopCount, loopPay]

theorem publish (g : PReg) (mask : BitVec 16) : Statement (.publish g mask) := by
  intro hw w h; cases h
  simp_all [Instr.wf, decodeSlot, decodeY, encY, yMask, yOne, decLoopCount, loopPay]

theorem swapb (g : PReg) (mask : BitVec 16) (h : HReg) (m : SReg) (rs flip : Bool) : Statement (.swapb g mask h m rs flip) := by
  intro hw w h; cases h
  simp_all [Instr.wf, decodeSlot, decodeY, encY, yMask, yOne, decLoopCount, loopPay]

theorem probe (g : PReg) (a b : SReg) (kind : AKind) : Statement (.probe g a b kind) := by
  intro hw w h; cases h
  simp_all [Instr.wf, decodeSlot, decodeY, encY, yMask, yOne, decLoopCount, loopPay]

theorem ckts (g : PReg) (a b c : SReg) (three : Bool) : Statement (.ckts g a b c three) := by
  intro hw w h; cases h
  simp_all [Instr.wf, decodeSlot, decodeY, encY, yMask, yOne, decLoopCount, loopPay]

theorem cktv (g : PReg) (x y : Row) (b1 : BitVec 4) (k : KReg) : Statement (.cktv g x y b1 k) := by
  intro hw w h; cases h
  simp_all [Instr.wf, decodeSlot, decodeY, encY, yMask, yOne, decLoopCount, loopPay]

theorem trap (g : PReg) (d : SReg) (code : BitVec 16) : Statement (.trap g d code) := by
  intro hw w h; cases h
  simp_all [Instr.wf, decodeSlot, decodeY, encY, yMask, yOne, decLoopCount, loopPay]

theorem eret (g : PReg) : Statement (.eret g) := by
  intro hw w h; cases h
  simp_all [Instr.wf, decodeSlot, decodeY, encY, yMask, yOne, decLoopCount, loopPay]

theorem setrpl (g : PReg) (t : Target) : Statement (.setrpl g t) := by
  intro hw w h; cases t <;> cases h <;>
  simp_all [Instr.wf, decodeSlot, decodeY, encY, yMask, yOne, decLoopCount, loopPay]

theorem enq (g : PReg) (a : SReg) : Statement (.enq g a) := by
  intro hw w h; cases h
  simp_all [Instr.wf, decodeSlot, decodeY, encY, yMask, yOne, decLoopCount, loopPay]

theorem spawn (g : PReg) (a : SReg) : Statement (.spawn g a) := by
  intro hw w h; cases h
  simp_all [Instr.wf, decodeSlot, decodeY, encY, yMask, yOne, decLoopCount, loopPay]

theorem endTask (g : PReg) : Statement (.endTask g) := by
  intro hw w h; cases h
  simp_all [Instr.wf, decodeSlot, decodeY, encY, yMask, yOne, decLoopCount, loopPay]

theorem dictld (g : PReg) (a : SReg) : Statement (.dictld g a) := by
  intro hw w h; cases h
  simp_all [Instr.wf, decodeSlot, decodeY, encY, yMask, yOne, decLoopCount, loopPay]

theorem dictsw (g : PReg) : Statement (.dictsw g) := by
  intro hw w h; cases h
  simp_all [Instr.wf, decodeSlot, decodeY, encY, yMask, yOne, decLoopCount, loopPay]

theorem rdtime (g : PReg) (d e : SReg) : Statement (.rdtime g d e) := by
  intro hw w h; cases h
  simp_all [Instr.wf, decodeSlot, decodeY, encY, yMask, yOne, decLoopCount, loopPay]

theorem qpt (g : PReg) (p : PReg) (y : Option SReg) : Statement (.qpt g p y) := by
  intro hw w h; cases y <;> cases h <;>
  simp_all [Instr.wf, decodeSlot, decodeY, encY, yMask, yOne, decLoopCount, loopPay]

theorem inval (g : PReg) (a b : SReg) (kind : InvKind) : Statement (.inval g a b kind) := by
  intro hw w h; cases h
  simp_all [Instr.wf, decodeSlot, decodeY, encY, yMask, yOne, decLoopCount, loopPay]

theorem wcsld (g : PReg) (d a b : SReg) : Statement (.wcsld g d a b) := by
  intro hw w h; cases h
  simp_all [Instr.wf, decodeSlot, decodeY, encY, yMask, yOne, decLoopCount, loopPay]

theorem halt (g : PReg) : Statement (.halt g) := by
  intro hw w h; cases h
  simp_all [Instr.wf, decodeSlot, decodeY, encY, yMask, yOne, decLoopCount, loopPay]

theorem resultLanding : Statement .resultLanding := fun _ _ h => nomatch h

theorem waitEnd : Statement .waitEnd := fun _ _ h => nomatch h

theorem barrierRelease (sc : BScope) : Statement (.barrierRelease sc) := fun _ _ h => nomatch h

theorem groupMark : Statement .groupMark := fun _ _ h => nomatch h

theorem loopEnd : Statement .loopEnd := fun _ _ h => nomatch h

theorem debugBreak : Statement .debugBreak := fun _ _ h => nomatch h

theorem debugRelease : Statement .debugRelease := fun _ _ h => nomatch h

theorem trackerDeadline (n : BitVec 4) : Statement (.trackerDeadline n) := fun _ _ h => nomatch h

theorem loadReply (n : BitVec 4) (v : ReplyVal) : Statement (.loadReply n v) := fun _ _ h => nomatch h

theorem enterReplay : Statement .enterReplay := fun _ _ h => nomatch h

theorem launchPacket (w : Line) : Statement (.launchPacket w) := fun _ _ h => nomatch h

theorem mlaunch (w : Line) : Statement (.mlaunch w) := fun _ _ h => nomatch h

theorem dispatchDecision (core : BitVec 9) : Statement (.dispatchDecision core) := fun _ _ h => nomatch h

theorem entryAvailable (task : Nat) : Statement (.entryAvailable task) := fun _ _ h => nomatch h

theorem preemptionRequest (core : BitVec 9) : Statement (.preemptionRequest core) := fun _ _ h => nomatch h

theorem stateSave : Statement .stateSave := fun _ _ h => nomatch h

theorem preemptHaltTimeout (core : BitVec 9) : Statement (.preemptHaltTimeout core) := fun _ _ h => nomatch h

theorem taskResume : Statement .taskResume := fun _ _ h => nomatch h

theorem regionComplete (region : Nat) : Statement (.regionComplete region) := fun _ _ h => nomatch h

theorem completionRecordWrite : Statement .completionRecordWrite := fun _ _ h => nomatch h

theorem coalesceTimerExpiry (ring : BitVec 8) : Statement (.coalesceTimerExpiry ring) := fun _ _ h => nomatch h

theorem ctailWrite (ring : BitVec 8) (v : BitVec 32) : Statement (.ctailWrite ring v) := fun _ _ h => nomatch h

theorem ringEnableWrite (ring : BitVec 8) (en : Bool) : Statement (.ringEnableWrite ring en) := fun _ _ h => nomatch h

theorem blockLoad : Statement .blockLoad := fun _ _ h => nomatch h

theorem pendingCommandActivates : Statement .pendingCommandActivates := fun _ _ h => nomatch h

theorem pass : Statement .pass := fun _ _ h => nomatch h

theorem pressDrain : Statement .pressDrain := fun _ _ h => nomatch h

theorem matrixCommandComplete : Statement .matrixCommandComplete := fun _ _ h => nomatch h

theorem copyLine (l : CLane) : Statement (.copyLine l) := fun _ _ h => nomatch h

theorem copyCommandComplete : Statement .copyCommandComplete := fun _ _ h => nomatch h

theorem credTransferStart : Statement .credTransferStart := fun _ _ h => nomatch h

theorem weightRefreshWindow : Statement .weightRefreshWindow := fun _ _ h => nomatch h

theorem migrationRequest : Statement .migrationRequest := fun _ _ h => nomatch h

theorem migrationCopyStart (n : Nat) : Statement (.migrationCopyStart n) := fun _ _ h => nomatch h

theorem migrationCopyDone (n : Nat) : Statement (.migrationCopyDone n) := fun _ _ h => nomatch h

theorem dwellExpiry (n : Nat) : Statement (.dwellExpiry n) := fun _ _ h => nomatch h

theorem hostMigrationRequest (engine : BitVec 2) (w0 : Word) : Statement (.hostMigrationRequest engine w0) := fun _ _ h => nomatch h

theorem padd (pool : BitVec 3) (w : Word) : Statement (.padd pool w) := fun _ _ h => nomatch h

theorem flitReceive (port : BitVec 4) (f : Flit) : Statement (.flitReceive port f) := fun _ _ h => nomatch h

theorem linkRetry (port : BitVec 4) (seq : BitVec 12) : Statement (.linkRetry port seq) := fun _ _ h => nomatch h

theorem linkRetrain (port : BitVec 4) (ok : Bool) (free : List (BitVec 6)) : Statement (.linkRetrain port ok free) := fun _ _ h => nomatch h

theorem remoteRequest (r : RemoteReq) : Statement (.remoteRequest r) := fun _ _ h => nomatch h

theorem requestExpiry (n : Nat) : Statement (.requestExpiry n) := fun _ _ h => nomatch h

theorem remoteAtomic (r : RemoteAtom) : Statement (.remoteAtomic r) := fun _ _ h => nomatch h

theorem lineRecall (line : Nat) : Statement (.lineRecall line) := fun _ _ h => nomatch h

theorem lineReturn (line : Nat) (bytes : List Byte) : Statement (.lineReturn line bytes) := fun _ _ h => nomatch h

theorem multicastStamp (group : BitVec 12) (src : McastFrom) (off : BitVec 32) (bytes : List Byte) : Statement (.multicastStamp group src off bytes) := fun _ _ h => nomatch h

theorem multicastApply (group : BitVec 12) (arrived : Option (BitVec 32 × BitVec 32 × List Byte)) : Statement (.multicastApply group arrived) := fun _ _ h => nomatch h

theorem appliedReport (group : BitVec 12) (node : BitVec 10) (applied : BitVec 32) : Statement (.appliedReport group node applied) := fun _ _ h => nomatch h

theorem appliedReportTimer (group : BitVec 12) : Statement (.appliedReportTimer group) := fun _ _ h => nomatch h

theorem mcastGap (group : BitVec 12) : Statement (.mcastGap group) := fun _ _ h => nomatch h

theorem memberReportTimeout (group : BitVec 12) (node : BitVec 10) : Statement (.memberReportTimeout group node) := fun _ _ h => nomatch h

theorem groupEntryWrite (agent : Agent) (group : BitVec 12) (v : BitVec 256) : Statement (.groupEntryWrite agent group v) := fun _ _ h => nomatch h

theorem fabricRelabel (node : BitVec 10) (ndim : BitVec 4) (portmap : BitVec 48) : Statement (.fabricRelabel node ndim portmap) := fun _ _ h => nomatch h

theorem timeSync (ref : Word) : Statement (.timeSync ref) := fun _ _ h => nomatch h

theorem hostWindowRead (hdm : BitVec 40) (n : Nat) : Statement (.hostWindowRead hdm n) := fun _ _ h => nomatch h

theorem hostWindowWrite (hdm : BitVec 40) (bytes : List Byte) : Statement (.hostWindowWrite hdm bytes) := fun _ _ h => nomatch h

theorem hostCompletionTimeout (n : Nat) : Statement (.hostCompletionTimeout n) := fun _ _ h => nomatch h

theorem bootStep (bad : Option (BitVec 5)) : Statement (.bootStep bad) := fun _ _ h => nomatch h

theorem dieResetRequest (mask : BitVec 4) : Statement (.dieResetRequest mask) := fun _ _ h => nomatch h

theorem dieEntersReset (die : BitVec 2) : Statement (.dieEntersReset die) := fun _ _ h => nomatch h

theorem dieRelease (die : BitVec 2) (selfTest : Bool) : Statement (.dieRelease die selfTest) := fun _ _ h => nomatch h

theorem patrolScrub (die : BitVec 4) (off : BitVec 39) (gran : BitVec 2) : Statement (.patrolScrub die off gran) := fun _ _ h => nomatch h

theorem farDieLoss (f : BitVec 2) : Statement (.farDieLoss f) := fun _ _ h => nomatch h

theorem taskKill (task : Nat) : Statement (.taskKill task) := fun _ _ h => nomatch h

theorem rindClose (die : BitVec 2) : Statement (.rindClose die) := fun _ _ h => nomatch h

theorem registerWrite (agent : Agent) (off : BitVec 18) (size : Nat) (v : Word) : Statement (.registerWrite agent off size v) := fun _ _ h => nomatch h

theorem regionBecomesLate (region : Nat) : Statement (.regionBecomesLate region) := fun _ _ h => nomatch h

theorem linkTraining (port : BitVec 4) : Statement (.linkTraining port) := fun _ _ h => nomatch h

theorem spdmRequest (r : SpdmReq) : Statement (.spdmRequest r) := fun _ _ h => nomatch h

theorem writeAcknowledgement (n : Nat) (code : BitVec 16) (v : AckVal) : Statement (.writeAcknowledgement n code v) := fun _ _ h => nomatch h

theorem haltRelease (core : BitVec 9) : Statement (.haltRelease core) := fun _ _ h => nomatch h

theorem moduleReset : Statement .moduleReset := fun _ _ h => nomatch h

theorem standbyRequest : Statement .standbyRequest := fun _ _ h => nomatch h

theorem standbyWake : Statement .standbyWake := fun _ _ h => nomatch h

theorem clockStepDown : Statement .clockStepDown := fun _ _ h => nomatch h

theorem clockStepUp : Statement .clockStepUp := fun _ _ h => nomatch h

theorem hostPortDown : Statement .hostPortDown := fun _ _ h => nomatch h

theorem hostPortTraining : Statement .hostPortTraining := fun _ _ h => nomatch h

theorem phaseRollback : Statement .phaseRollback := fun _ _ h => nomatch h

theorem quiesceRequest : Statement .quiesceRequest := fun _ _ h => nomatch h

theorem routerQuiesced : Statement .routerQuiesced := fun _ _ h => nomatch h

theorem quiesceRelease : Statement .quiesceRelease := fun _ _ h => nomatch h

theorem contentionHalving : Statement .contentionHalving := fun _ _ h => nomatch h

end RoundTrip

end Sys2Proof.Laws
end

