-- ==== Sys2Proof/Laws/State.lean ====
section
/-! SUPPORT. What each update of a group of fields leaves: one lemma per field and update, and the named operations
through which results wait. -/

namespace Sys2Proof.Laws

open Sys2Proof Sys2Proof.Machine

/-! ### State.mc -/

@[simp] theorem mc_cur (x : State) (f : Core → Core) : (x.mc f).cur = x.cur := rfl
@[simp] theorem mc_core (x : State) (f : Core → Core) : (x.mc f).core = f x.core := rfl
@[simp] theorem mc_parked (x : State) (f : Core → Core) : (x.mc f).parked = x.parked := rfl
@[simp] theorem mc_mem (x : State) (f : Core → Core) : (x.mc f).mem = x.mem := rfl
@[simp] theorem mc_poison (x : State) (f : Core → Core) : (x.mc f).poison = x.poison := rfl
@[simp] theorem mc_flips (x : State) (f : Core → Core) : (x.mc f).flips = x.flips := rfl
@[simp] theorem mc_codes (x : State) (f : Core → Core) : (x.mc f).codes = x.codes := rfl
@[simp] theorem mc_buf (x : State) (f : Core → Core) : (x.mc f).buf = x.buf := rfl
@[simp] theorem mc_wstore (x : State) (f : Core → Core) : (x.mc f).wstore = x.wstore := rfl
@[simp] theorem mc_wmarks (x : State) (f : Core → Core) : (x.mc f).wmarks = x.wmarks := rfl
@[simp] theorem mc_wlog (x : State) (f : Core → Core) : (x.mc f).wlog = x.wlog := rfl
@[simp] theorem mc_tlb (x : State) (f : Core → Core) : (x.mc f).tlb = x.tlb := rfl
@[simp] theorem mc_hub (x : State) (f : Core → Core) : (x.mc f).hub = x.hub := rfl
@[simp] theorem mc_fab (x : State) (f : Core → Core) : (x.mc f).fab = x.fab := rfl
@[simp] theorem mc_host (x : State) (f : Core → Core) : (x.mc f).host = x.host := rfl
@[simp] theorem mc_pcyc (x : State) (f : Core → Core) : (x.mc f).pcyc = x.pcyc := rfl
@[simp] theorem mc_dsub (x : State) (f : Core → Core) : (x.mc f).dsub = x.dsub := rfl
@[simp] theorem mc_fresh (x : State) (f : Core → Core) : (x.mc f).fresh = x.fresh := rfl
@[simp] theorem mc_agenda (x : State) (f : Core → Core) : (x.mc f).agenda = x.agenda := rfl
@[simp] theorem mc_id (x : State) : x.mc (fun y => y) = x := rfl
@[simp] theorem mc_mc (x : State) (f g : Core → Core) : (x.mc f).mc g = x.mc (fun y => g (f y)) := rfl

/-! ### State.mhub -/

@[simp] theorem mhub_cur (x : State) (f : Hub → Hub) : (x.mhub f).cur = x.cur := rfl
@[simp] theorem mhub_core (x : State) (f : Hub → Hub) : (x.mhub f).core = x.core := rfl
@[simp] theorem mhub_parked (x : State) (f : Hub → Hub) : (x.mhub f).parked = x.parked := rfl
@[simp] theorem mhub_mem (x : State) (f : Hub → Hub) : (x.mhub f).mem = x.mem := rfl
@[simp] theorem mhub_poison (x : State) (f : Hub → Hub) : (x.mhub f).poison = x.poison := rfl
@[simp] theorem mhub_flips (x : State) (f : Hub → Hub) : (x.mhub f).flips = x.flips := rfl
@[simp] theorem mhub_codes (x : State) (f : Hub → Hub) : (x.mhub f).codes = x.codes := rfl
@[simp] theorem mhub_buf (x : State) (f : Hub → Hub) : (x.mhub f).buf = x.buf := rfl
@[simp] theorem mhub_wstore (x : State) (f : Hub → Hub) : (x.mhub f).wstore = x.wstore := rfl
@[simp] theorem mhub_wmarks (x : State) (f : Hub → Hub) : (x.mhub f).wmarks = x.wmarks := rfl
@[simp] theorem mhub_wlog (x : State) (f : Hub → Hub) : (x.mhub f).wlog = x.wlog := rfl
@[simp] theorem mhub_tlb (x : State) (f : Hub → Hub) : (x.mhub f).tlb = x.tlb := rfl
@[simp] theorem mhub_hub (x : State) (f : Hub → Hub) : (x.mhub f).hub = f x.hub := rfl
@[simp] theorem mhub_fab (x : State) (f : Hub → Hub) : (x.mhub f).fab = x.fab := rfl
@[simp] theorem mhub_host (x : State) (f : Hub → Hub) : (x.mhub f).host = x.host := rfl
@[simp] theorem mhub_pcyc (x : State) (f : Hub → Hub) : (x.mhub f).pcyc = x.pcyc := rfl
@[simp] theorem mhub_dsub (x : State) (f : Hub → Hub) : (x.mhub f).dsub = x.dsub := rfl
@[simp] theorem mhub_fresh (x : State) (f : Hub → Hub) : (x.mhub f).fresh = x.fresh := rfl
@[simp] theorem mhub_agenda (x : State) (f : Hub → Hub) : (x.mhub f).agenda = x.agenda := rfl
@[simp] theorem mhub_id (x : State) : x.mhub (fun y => y) = x := rfl
@[simp] theorem mhub_mhub (x : State) (f g : Hub → Hub) : (x.mhub f).mhub g = x.mhub (fun y => g (f y)) := rfl

/-! ### State.mfab -/

@[simp] theorem mfab_cur (x : State) (f : Fabric → Fabric) : (x.mfab f).cur = x.cur := rfl
@[simp] theorem mfab_core (x : State) (f : Fabric → Fabric) : (x.mfab f).core = x.core := rfl
@[simp] theorem mfab_parked (x : State) (f : Fabric → Fabric) : (x.mfab f).parked = x.parked := rfl
@[simp] theorem mfab_mem (x : State) (f : Fabric → Fabric) : (x.mfab f).mem = x.mem := rfl
@[simp] theorem mfab_poison (x : State) (f : Fabric → Fabric) : (x.mfab f).poison = x.poison := rfl
@[simp] theorem mfab_flips (x : State) (f : Fabric → Fabric) : (x.mfab f).flips = x.flips := rfl
@[simp] theorem mfab_codes (x : State) (f : Fabric → Fabric) : (x.mfab f).codes = x.codes := rfl
@[simp] theorem mfab_buf (x : State) (f : Fabric → Fabric) : (x.mfab f).buf = x.buf := rfl
@[simp] theorem mfab_wstore (x : State) (f : Fabric → Fabric) : (x.mfab f).wstore = x.wstore := rfl
@[simp] theorem mfab_wmarks (x : State) (f : Fabric → Fabric) : (x.mfab f).wmarks = x.wmarks := rfl
@[simp] theorem mfab_wlog (x : State) (f : Fabric → Fabric) : (x.mfab f).wlog = x.wlog := rfl
@[simp] theorem mfab_tlb (x : State) (f : Fabric → Fabric) : (x.mfab f).tlb = x.tlb := rfl
@[simp] theorem mfab_hub (x : State) (f : Fabric → Fabric) : (x.mfab f).hub = x.hub := rfl
@[simp] theorem mfab_fab (x : State) (f : Fabric → Fabric) : (x.mfab f).fab = f x.fab := rfl
@[simp] theorem mfab_host (x : State) (f : Fabric → Fabric) : (x.mfab f).host = x.host := rfl
@[simp] theorem mfab_pcyc (x : State) (f : Fabric → Fabric) : (x.mfab f).pcyc = x.pcyc := rfl
@[simp] theorem mfab_dsub (x : State) (f : Fabric → Fabric) : (x.mfab f).dsub = x.dsub := rfl
@[simp] theorem mfab_fresh (x : State) (f : Fabric → Fabric) : (x.mfab f).fresh = x.fresh := rfl
@[simp] theorem mfab_agenda (x : State) (f : Fabric → Fabric) : (x.mfab f).agenda = x.agenda := rfl
@[simp] theorem mfab_id (x : State) : x.mfab (fun y => y) = x := rfl
@[simp] theorem mfab_mfab (x : State) (f g : Fabric → Fabric) : (x.mfab f).mfab g = x.mfab (fun y => g (f y)) := rfl

/-! ### State.mhost -/

@[simp] theorem mhost_cur (x : State) (f : HostPort → HostPort) : (x.mhost f).cur = x.cur := rfl
@[simp] theorem mhost_core (x : State) (f : HostPort → HostPort) : (x.mhost f).core = x.core := rfl
@[simp] theorem mhost_parked (x : State) (f : HostPort → HostPort) : (x.mhost f).parked = x.parked := rfl
@[simp] theorem mhost_mem (x : State) (f : HostPort → HostPort) : (x.mhost f).mem = x.mem := rfl
@[simp] theorem mhost_poison (x : State) (f : HostPort → HostPort) : (x.mhost f).poison = x.poison := rfl
@[simp] theorem mhost_flips (x : State) (f : HostPort → HostPort) : (x.mhost f).flips = x.flips := rfl
@[simp] theorem mhost_codes (x : State) (f : HostPort → HostPort) : (x.mhost f).codes = x.codes := rfl
@[simp] theorem mhost_buf (x : State) (f : HostPort → HostPort) : (x.mhost f).buf = x.buf := rfl
@[simp] theorem mhost_wstore (x : State) (f : HostPort → HostPort) : (x.mhost f).wstore = x.wstore := rfl
@[simp] theorem mhost_wmarks (x : State) (f : HostPort → HostPort) : (x.mhost f).wmarks = x.wmarks := rfl
@[simp] theorem mhost_wlog (x : State) (f : HostPort → HostPort) : (x.mhost f).wlog = x.wlog := rfl
@[simp] theorem mhost_tlb (x : State) (f : HostPort → HostPort) : (x.mhost f).tlb = x.tlb := rfl
@[simp] theorem mhost_hub (x : State) (f : HostPort → HostPort) : (x.mhost f).hub = x.hub := rfl
@[simp] theorem mhost_fab (x : State) (f : HostPort → HostPort) : (x.mhost f).fab = x.fab := rfl
@[simp] theorem mhost_host (x : State) (f : HostPort → HostPort) : (x.mhost f).host = f x.host := rfl
@[simp] theorem mhost_pcyc (x : State) (f : HostPort → HostPort) : (x.mhost f).pcyc = x.pcyc := rfl
@[simp] theorem mhost_dsub (x : State) (f : HostPort → HostPort) : (x.mhost f).dsub = x.dsub := rfl
@[simp] theorem mhost_fresh (x : State) (f : HostPort → HostPort) : (x.mhost f).fresh = x.fresh := rfl
@[simp] theorem mhost_agenda (x : State) (f : HostPort → HostPort) : (x.mhost f).agenda = x.agenda := rfl
@[simp] theorem mhost_id (x : State) : x.mhost (fun y => y) = x := rfl
@[simp] theorem mhost_mhost (x : State) (f g : HostPort → HostPort) : (x.mhost f).mhost g = x.mhost (fun y => g (f y)) := rfl

/-! ### Core.mctl -/

@[simp] theorem mctl_regs (x : Core) (f : Ctl → Ctl) : (x.mctl f).regs = x.regs := rfl
@[simp] theorem mctl_sys (x : Core) (f : Ctl → Ctl) : (x.mctl f).sys = x.sys := rfl
@[simp] theorem mctl_ctl (x : Core) (f : Ctl → Ctl) : (x.mctl f).ctl = f x.ctl := rfl
@[simp] theorem mctl_loops (x : Core) (f : Ctl → Ctl) : (x.mctl f).loops = x.loops := rfl
@[simp] theorem mctl_flight (x : Core) (f : Ctl → Ctl) : (x.mctl f).flight = x.flight := rfl
@[simp] theorem mctl_port (x : Core) (f : Ctl → Ctl) : (x.mctl f).port = x.port := rfl
@[simp] theorem mctl_track (x : Core) (f : Ctl → Ctl) : (x.mctl f).track = x.track := rfl
@[simp] theorem mctl_poison (x : Core) (f : Ctl → Ctl) : (x.mctl f).poison = x.poison := rfl
@[simp] theorem mctl_pend (x : Core) (f : Ctl → Ctl) : (x.mctl f).pend = x.pend := rfl
@[simp] theorem mctl_nextAcc (x : Core) (f : Ctl → Ctl) : (x.mctl f).nextAcc = x.nextAcc := rfl
@[simp] theorem mctl_ldwReply (x : Core) (f : Ctl → Ctl) : (x.mctl f).ldwReply = x.ldwReply := rfl
@[simp] theorem mctl_eng (x : Core) (f : Ctl → Ctl) : (x.mctl f).eng = x.eng := rfl
@[simp] theorem mctl_curd (x : Core) (f : Ctl → Ctl) : (x.mctl f).curd = x.curd := rfl
@[simp] theorem mctl_spad (x : Core) (f : Ctl → Ctl) : (x.mctl f).spad = x.spad := rfl
@[simp] theorem mctl_side (x : Core) (f : Ctl → Ctl) : (x.mctl f).side = x.side := rfl
@[simp] theorem mctl_marks (x : Core) (f : Ctl → Ctl) : (x.mctl f).marks = x.marks := rfl
@[simp] theorem mctl_phase (x : Core) (f : Ctl → Ctl) : (x.mctl f).phase = x.phase := rfl
@[simp] theorem mctl_bsps (x : Core) (f : Ctl → Ctl) : (x.mctl f).bsps = x.bsps := rfl
@[simp] theorem mctl_mode (x : Core) (f : Ctl → Ctl) : (x.mctl f).mode = x.mode := rfl
@[simp] theorem mctl_task (x : Core) (f : Ctl → Ctl) : (x.mctl f).task = x.task := rfl
@[simp] theorem mctl_lastAsid (x : Core) (f : Ctl → Ctl) : (x.mctl f).lastAsid = x.lastAsid := rfl
@[simp] theorem mctl_preempt (x : Core) (f : Ctl → Ctl) : (x.mctl f).preempt = x.preempt := rfl
@[simp] theorem mctl_yieldF (x : Core) (f : Ctl → Ctl) : (x.mctl f).yieldF = x.yieldF := rfl
@[simp] theorem mctl_saveOver (x : Core) (f : Ctl → Ctl) : (x.mctl f).saveOver = x.saveOver := rfl
@[simp] theorem mctl_ibuf (x : Core) (f : Ctl → Ctl) : (x.mctl f).ibuf = x.ibuf := rfl
@[simp] theorem mctl_csBank (x : Core) (f : Ctl → Ctl) : (x.mctl f).csBank = x.csBank := rfl
@[simp] theorem mctl_csPending (x : Core) (f : Ctl → Ctl) : (x.mctl f).csPending = x.csPending := rfl
@[simp] theorem mctl_retired (x : Core) (f : Ctl → Ctl) : (x.mctl f).retired = x.retired := rfl
@[simp] theorem mctl_checks (x : Core) (f : Ctl → Ctl) : (x.mctl f).checks = x.checks := rfl
@[simp] theorem mctl_id (x : Core) : x.mctl (fun y => y) = x := rfl
@[simp] theorem mctl_mctl (x : Core) (f g : Ctl → Ctl) : (x.mctl f).mctl g = x.mctl (fun y => g (f y)) := rfl

/-! ### Core.meng -/

@[simp] theorem meng_regs (x : Core) (f : Engines → Engines) : (x.meng f).regs = x.regs := rfl
@[simp] theorem meng_sys (x : Core) (f : Engines → Engines) : (x.meng f).sys = x.sys := rfl
@[simp] theorem meng_ctl (x : Core) (f : Engines → Engines) : (x.meng f).ctl = x.ctl := rfl
@[simp] theorem meng_loops (x : Core) (f : Engines → Engines) : (x.meng f).loops = x.loops := rfl
@[simp] theorem meng_flight (x : Core) (f : Engines → Engines) : (x.meng f).flight = x.flight := rfl
@[simp] theorem meng_port (x : Core) (f : Engines → Engines) : (x.meng f).port = x.port := rfl
@[simp] theorem meng_track (x : Core) (f : Engines → Engines) : (x.meng f).track = x.track := rfl
@[simp] theorem meng_poison (x : Core) (f : Engines → Engines) : (x.meng f).poison = x.poison := rfl
@[simp] theorem meng_pend (x : Core) (f : Engines → Engines) : (x.meng f).pend = x.pend := rfl
@[simp] theorem meng_nextAcc (x : Core) (f : Engines → Engines) : (x.meng f).nextAcc = x.nextAcc := rfl
@[simp] theorem meng_ldwReply (x : Core) (f : Engines → Engines) : (x.meng f).ldwReply = x.ldwReply := rfl
@[simp] theorem meng_eng (x : Core) (f : Engines → Engines) : (x.meng f).eng = f x.eng := rfl
@[simp] theorem meng_curd (x : Core) (f : Engines → Engines) : (x.meng f).curd = x.curd := rfl
@[simp] theorem meng_spad (x : Core) (f : Engines → Engines) : (x.meng f).spad = x.spad := rfl
@[simp] theorem meng_side (x : Core) (f : Engines → Engines) : (x.meng f).side = x.side := rfl
@[simp] theorem meng_marks (x : Core) (f : Engines → Engines) : (x.meng f).marks = x.marks := rfl
@[simp] theorem meng_phase (x : Core) (f : Engines → Engines) : (x.meng f).phase = x.phase := rfl
@[simp] theorem meng_bsps (x : Core) (f : Engines → Engines) : (x.meng f).bsps = x.bsps := rfl
@[simp] theorem meng_mode (x : Core) (f : Engines → Engines) : (x.meng f).mode = x.mode := rfl
@[simp] theorem meng_task (x : Core) (f : Engines → Engines) : (x.meng f).task = x.task := rfl
@[simp] theorem meng_lastAsid (x : Core) (f : Engines → Engines) : (x.meng f).lastAsid = x.lastAsid := rfl
@[simp] theorem meng_preempt (x : Core) (f : Engines → Engines) : (x.meng f).preempt = x.preempt := rfl
@[simp] theorem meng_yieldF (x : Core) (f : Engines → Engines) : (x.meng f).yieldF = x.yieldF := rfl
@[simp] theorem meng_saveOver (x : Core) (f : Engines → Engines) : (x.meng f).saveOver = x.saveOver := rfl
@[simp] theorem meng_ibuf (x : Core) (f : Engines → Engines) : (x.meng f).ibuf = x.ibuf := rfl
@[simp] theorem meng_csBank (x : Core) (f : Engines → Engines) : (x.meng f).csBank = x.csBank := rfl
@[simp] theorem meng_csPending (x : Core) (f : Engines → Engines) : (x.meng f).csPending = x.csPending := rfl
@[simp] theorem meng_retired (x : Core) (f : Engines → Engines) : (x.meng f).retired = x.retired := rfl
@[simp] theorem meng_checks (x : Core) (f : Engines → Engines) : (x.meng f).checks = x.checks := rfl
@[simp] theorem meng_id (x : Core) : x.meng (fun y => y) = x := rfl
@[simp] theorem meng_meng (x : Core) (f g : Engines → Engines) : (x.meng f).meng g = x.meng (fun y => g (f y)) := rfl

/-! ### Core.mregs -/

@[simp] theorem mregs_regs (x : Core) (f : Regs → Regs) : (x.mregs f).regs = f x.regs := rfl
@[simp] theorem mregs_sys (x : Core) (f : Regs → Regs) : (x.mregs f).sys = x.sys := rfl
@[simp] theorem mregs_ctl (x : Core) (f : Regs → Regs) : (x.mregs f).ctl = x.ctl := rfl
@[simp] theorem mregs_loops (x : Core) (f : Regs → Regs) : (x.mregs f).loops = x.loops := rfl
@[simp] theorem mregs_flight (x : Core) (f : Regs → Regs) : (x.mregs f).flight = x.flight := rfl
@[simp] theorem mregs_port (x : Core) (f : Regs → Regs) : (x.mregs f).port = x.port := rfl
@[simp] theorem mregs_track (x : Core) (f : Regs → Regs) : (x.mregs f).track = x.track := rfl
@[simp] theorem mregs_poison (x : Core) (f : Regs → Regs) : (x.mregs f).poison = x.poison := rfl
@[simp] theorem mregs_pend (x : Core) (f : Regs → Regs) : (x.mregs f).pend = x.pend := rfl
@[simp] theorem mregs_nextAcc (x : Core) (f : Regs → Regs) : (x.mregs f).nextAcc = x.nextAcc := rfl
@[simp] theorem mregs_ldwReply (x : Core) (f : Regs → Regs) : (x.mregs f).ldwReply = x.ldwReply := rfl
@[simp] theorem mregs_eng (x : Core) (f : Regs → Regs) : (x.mregs f).eng = x.eng := rfl
@[simp] theorem mregs_curd (x : Core) (f : Regs → Regs) : (x.mregs f).curd = x.curd := rfl
@[simp] theorem mregs_spad (x : Core) (f : Regs → Regs) : (x.mregs f).spad = x.spad := rfl
@[simp] theorem mregs_side (x : Core) (f : Regs → Regs) : (x.mregs f).side = x.side := rfl
@[simp] theorem mregs_marks (x : Core) (f : Regs → Regs) : (x.mregs f).marks = x.marks := rfl
@[simp] theorem mregs_phase (x : Core) (f : Regs → Regs) : (x.mregs f).phase = x.phase := rfl
@[simp] theorem mregs_bsps (x : Core) (f : Regs → Regs) : (x.mregs f).bsps = x.bsps := rfl
@[simp] theorem mregs_mode (x : Core) (f : Regs → Regs) : (x.mregs f).mode = x.mode := rfl
@[simp] theorem mregs_task (x : Core) (f : Regs → Regs) : (x.mregs f).task = x.task := rfl
@[simp] theorem mregs_lastAsid (x : Core) (f : Regs → Regs) : (x.mregs f).lastAsid = x.lastAsid := rfl
@[simp] theorem mregs_preempt (x : Core) (f : Regs → Regs) : (x.mregs f).preempt = x.preempt := rfl
@[simp] theorem mregs_yieldF (x : Core) (f : Regs → Regs) : (x.mregs f).yieldF = x.yieldF := rfl
@[simp] theorem mregs_saveOver (x : Core) (f : Regs → Regs) : (x.mregs f).saveOver = x.saveOver := rfl
@[simp] theorem mregs_ibuf (x : Core) (f : Regs → Regs) : (x.mregs f).ibuf = x.ibuf := rfl
@[simp] theorem mregs_csBank (x : Core) (f : Regs → Regs) : (x.mregs f).csBank = x.csBank := rfl
@[simp] theorem mregs_csPending (x : Core) (f : Regs → Regs) : (x.mregs f).csPending = x.csPending := rfl
@[simp] theorem mregs_retired (x : Core) (f : Regs → Regs) : (x.mregs f).retired = x.retired := rfl
@[simp] theorem mregs_checks (x : Core) (f : Regs → Regs) : (x.mregs f).checks = x.checks := rfl
@[simp] theorem mregs_id (x : Core) : x.mregs (fun y => y) = x := rfl
@[simp] theorem mregs_mregs (x : Core) (f g : Regs → Regs) : (x.mregs f).mregs g = x.mregs (fun y => g (f y)) := rfl

/-! ### A result that waits (R139, R182) -/

theorem land_eq (s : State) (lat : Nat) (slot : Slot) (d : Dest) (fl : BitVec 5) :
    s.land lat slot d fl = s.mc (fun c => { c with
      flight := c.flight ++ [⟨s.pcyc + lat, slotNum slot, d, fl, c.ctl.curPc, c.ctl.btag⟩] }) := rfl

@[simp] theorem land_cur (s : State) (lat : Nat) (slot : Slot) (d : Dest) (fl : BitVec 5) : (s.land lat slot d fl).cur = s.cur := rfl
@[simp] theorem land_parked (s : State) (lat : Nat) (slot : Slot) (d : Dest) (fl : BitVec 5) : (s.land lat slot d fl).parked = s.parked := rfl
@[simp] theorem land_mem (s : State) (lat : Nat) (slot : Slot) (d : Dest) (fl : BitVec 5) : (s.land lat slot d fl).mem = s.mem := rfl
@[simp] theorem land_poison (s : State) (lat : Nat) (slot : Slot) (d : Dest) (fl : BitVec 5) : (s.land lat slot d fl).poison = s.poison := rfl
@[simp] theorem land_flips (s : State) (lat : Nat) (slot : Slot) (d : Dest) (fl : BitVec 5) : (s.land lat slot d fl).flips = s.flips := rfl
@[simp] theorem land_codes (s : State) (lat : Nat) (slot : Slot) (d : Dest) (fl : BitVec 5) : (s.land lat slot d fl).codes = s.codes := rfl
@[simp] theorem land_buf (s : State) (lat : Nat) (slot : Slot) (d : Dest) (fl : BitVec 5) : (s.land lat slot d fl).buf = s.buf := rfl
@[simp] theorem land_wstore (s : State) (lat : Nat) (slot : Slot) (d : Dest) (fl : BitVec 5) : (s.land lat slot d fl).wstore = s.wstore := rfl
@[simp] theorem land_wmarks (s : State) (lat : Nat) (slot : Slot) (d : Dest) (fl : BitVec 5) : (s.land lat slot d fl).wmarks = s.wmarks := rfl
@[simp] theorem land_wlog (s : State) (lat : Nat) (slot : Slot) (d : Dest) (fl : BitVec 5) : (s.land lat slot d fl).wlog = s.wlog := rfl
@[simp] theorem land_tlb (s : State) (lat : Nat) (slot : Slot) (d : Dest) (fl : BitVec 5) : (s.land lat slot d fl).tlb = s.tlb := rfl
@[simp] theorem land_hub (s : State) (lat : Nat) (slot : Slot) (d : Dest) (fl : BitVec 5) : (s.land lat slot d fl).hub = s.hub := rfl
@[simp] theorem land_fab (s : State) (lat : Nat) (slot : Slot) (d : Dest) (fl : BitVec 5) : (s.land lat slot d fl).fab = s.fab := rfl
@[simp] theorem land_host (s : State) (lat : Nat) (slot : Slot) (d : Dest) (fl : BitVec 5) : (s.land lat slot d fl).host = s.host := rfl
@[simp] theorem land_pcyc (s : State) (lat : Nat) (slot : Slot) (d : Dest) (fl : BitVec 5) : (s.land lat slot d fl).pcyc = s.pcyc := rfl
@[simp] theorem land_dsub (s : State) (lat : Nat) (slot : Slot) (d : Dest) (fl : BitVec 5) : (s.land lat slot d fl).dsub = s.dsub := rfl
@[simp] theorem land_fresh (s : State) (lat : Nat) (slot : Slot) (d : Dest) (fl : BitVec 5) : (s.land lat slot d fl).fresh = s.fresh := rfl
@[simp] theorem land_agenda (s : State) (lat : Nat) (slot : Slot) (d : Dest) (fl : BitVec 5) : (s.land lat slot d fl).agenda = s.agenda := rfl
@[simp] theorem land_core_regs (s : State) (lat : Nat) (slot : Slot) (d : Dest) (fl : BitVec 5) : (s.land lat slot d fl).core.regs = s.core.regs := rfl
@[simp] theorem land_core_sys (s : State) (lat : Nat) (slot : Slot) (d : Dest) (fl : BitVec 5) : (s.land lat slot d fl).core.sys = s.core.sys := rfl
@[simp] theorem land_core_ctl (s : State) (lat : Nat) (slot : Slot) (d : Dest) (fl : BitVec 5) : (s.land lat slot d fl).core.ctl = s.core.ctl := rfl
@[simp] theorem land_core_loops (s : State) (lat : Nat) (slot : Slot) (d : Dest) (fl : BitVec 5) : (s.land lat slot d fl).core.loops = s.core.loops := rfl
@[simp] theorem land_core_port (s : State) (lat : Nat) (slot : Slot) (d : Dest) (fl : BitVec 5) : (s.land lat slot d fl).core.port = s.core.port := rfl
@[simp] theorem land_core_track (s : State) (lat : Nat) (slot : Slot) (d : Dest) (fl : BitVec 5) : (s.land lat slot d fl).core.track = s.core.track := rfl
@[simp] theorem land_core_poison (s : State) (lat : Nat) (slot : Slot) (d : Dest) (fl : BitVec 5) : (s.land lat slot d fl).core.poison = s.core.poison := rfl
@[simp] theorem land_core_pend (s : State) (lat : Nat) (slot : Slot) (d : Dest) (fl : BitVec 5) : (s.land lat slot d fl).core.pend = s.core.pend := rfl
@[simp] theorem land_core_nextAcc (s : State) (lat : Nat) (slot : Slot) (d : Dest) (fl : BitVec 5) : (s.land lat slot d fl).core.nextAcc = s.core.nextAcc := rfl
@[simp] theorem land_core_ldwReply (s : State) (lat : Nat) (slot : Slot) (d : Dest) (fl : BitVec 5) : (s.land lat slot d fl).core.ldwReply = s.core.ldwReply := rfl
@[simp] theorem land_core_eng (s : State) (lat : Nat) (slot : Slot) (d : Dest) (fl : BitVec 5) : (s.land lat slot d fl).core.eng = s.core.eng := rfl
@[simp] theorem land_core_curd (s : State) (lat : Nat) (slot : Slot) (d : Dest) (fl : BitVec 5) : (s.land lat slot d fl).core.curd = s.core.curd := rfl
@[simp] theorem land_core_spad (s : State) (lat : Nat) (slot : Slot) (d : Dest) (fl : BitVec 5) : (s.land lat slot d fl).core.spad = s.core.spad := rfl
@[simp] theorem land_core_side (s : State) (lat : Nat) (slot : Slot) (d : Dest) (fl : BitVec 5) : (s.land lat slot d fl).core.side = s.core.side := rfl
@[simp] theorem land_core_marks (s : State) (lat : Nat) (slot : Slot) (d : Dest) (fl : BitVec 5) : (s.land lat slot d fl).core.marks = s.core.marks := rfl
@[simp] theorem land_core_phase (s : State) (lat : Nat) (slot : Slot) (d : Dest) (fl : BitVec 5) : (s.land lat slot d fl).core.phase = s.core.phase := rfl
@[simp] theorem land_core_bsps (s : State) (lat : Nat) (slot : Slot) (d : Dest) (fl : BitVec 5) : (s.land lat slot d fl).core.bsps = s.core.bsps := rfl
@[simp] theorem land_core_mode (s : State) (lat : Nat) (slot : Slot) (d : Dest) (fl : BitVec 5) : (s.land lat slot d fl).core.mode = s.core.mode := rfl
@[simp] theorem land_core_task (s : State) (lat : Nat) (slot : Slot) (d : Dest) (fl : BitVec 5) : (s.land lat slot d fl).core.task = s.core.task := rfl
@[simp] theorem land_core_lastAsid (s : State) (lat : Nat) (slot : Slot) (d : Dest) (fl : BitVec 5) : (s.land lat slot d fl).core.lastAsid = s.core.lastAsid := rfl
@[simp] theorem land_core_preempt (s : State) (lat : Nat) (slot : Slot) (d : Dest) (fl : BitVec 5) : (s.land lat slot d fl).core.preempt = s.core.preempt := rfl
@[simp] theorem land_core_yieldF (s : State) (lat : Nat) (slot : Slot) (d : Dest) (fl : BitVec 5) : (s.land lat slot d fl).core.yieldF = s.core.yieldF := rfl
@[simp] theorem land_core_saveOver (s : State) (lat : Nat) (slot : Slot) (d : Dest) (fl : BitVec 5) : (s.land lat slot d fl).core.saveOver = s.core.saveOver := rfl
@[simp] theorem land_core_ibuf (s : State) (lat : Nat) (slot : Slot) (d : Dest) (fl : BitVec 5) : (s.land lat slot d fl).core.ibuf = s.core.ibuf := rfl
@[simp] theorem land_core_csBank (s : State) (lat : Nat) (slot : Slot) (d : Dest) (fl : BitVec 5) : (s.land lat slot d fl).core.csBank = s.core.csBank := rfl
@[simp] theorem land_core_csPending (s : State) (lat : Nat) (slot : Slot) (d : Dest) (fl : BitVec 5) : (s.land lat slot d fl).core.csPending = s.core.csPending := rfl
@[simp] theorem land_core_retired (s : State) (lat : Nat) (slot : Slot) (d : Dest) (fl : BitVec 5) : (s.land lat slot d fl).core.retired = s.core.retired := rfl
@[simp] theorem land_core_checks (s : State) (lat : Nat) (slot : Slot) (d : Dest) (fl : BitVec 5) : (s.land lat slot d fl).core.checks = s.core.checks := rfl

/-- A scalar result changes only the results that wait, and s0 none of them (R10). -/
theorem landS_eq (s : State) (lat : Nat) (slot : Slot) (d : SReg) (v : Word) :
    s.landS lat slot d v = if d = 0 then s else s.land lat slot (.s (rotS s.core.sys d) v) 0 := rfl

/-- A predicate result changes only the results that wait, and p0 none of them. -/
theorem landP_eq (s : State) (lat : Nat) (slot : Slot) (d : PReg) (v : Bool) :
    s.landP lat slot d v = if d = 0 then s else s.land lat slot (.p (rotP s.core.sys d) v) 0 := rfl

end Sys2Proof.Laws
end

