-- ==== Sys2Proof/Laws/Vector.lean ====
section
/-! SUPPORT. What the V and X slots do when the core is ready (R186, R225 to R228, R252). -/

namespace Sys2Proof.Laws

open Sys2Proof Sys2Proof.Machine Sys2Proof.Safety

theorem busyV_free {s : State} (hf : Free s) (u : VUnit) : fcIf (decide (s.pcyc < s.busyV u)) fcSCHEDULE 1 = none := by
  have h0 := hf.idleV0
  have h1 := hf.idleV1
  have : ¬ s.pcyc < s.busyV u := by cases u <;> simp only [State.busyV] <;> omega
  simp [this]

theorem latchEmpty_readable {s : State} {b1 : BitVec 4} {sels : List VSel} (h : Readable s b1 sels) :
    s.latchEmpty sels = false := by
  simp only [State.latchEmpty, List.any_eq_false]
  intro x hx
  cases x with
  | latch n => have := h.2 n hx; cases hb : s.core.regs.getB n <;> simp_all
  | _ => simp

theorem vselRun_readable {s : State} {b1 : BitVec 4} {sels : List VSel} (h : Readable s b1 sels) :
    vselRun b1 sels = false := by
  simp only [vselRun, List.any_eq_false]
  intro x hx
  cases x with
  | row r => have := h.1 r hx; simp [runBad]; omega
  | _ => simp

theorem runBad_ok {b1 : BitVec 4} {r : Row} (h : r.toNat + b1.toNat ≤ 255) : runBad b1 r = false := by
  simp [runBad]; omega

theorem vIssue_ready {s : State} (u : VUnit) (b1 : BitVec 4) (sels : List VSel) (d : Option Row) (srcs : List Mark)
    (more : Option FC) (eff : State → State) (hr : Ready s) (hs : Readable s b1 sels)
    (hd : ∀ r, d = some r → r.toNat + b1.toNat ≤ 255) (hm : more = none) :
    vIssue u b1 sels d srcs more eff s =
      .next (State.occupyV u (b1.toNat + 1) (eff (s.readRows (rowsOf srcs)))) := by
  unfold vIssue
  rw [issue_ready _ _ _ _ _ _ _ hr (by simp [State.preg, rotP, Regs.getP])]
  · simp [readsOf, State.preg, rotP, Regs.getP]
  · intro hf; rw [busyV_free hf, latchEmpty_readable hs]; rfl
  · intro hf
    rw [vselRun_readable hs, hm, noReplay_free hf]
    cases d with
    | none => rfl
    | some r => simp [runBad_ok (hd r rfl)]

theorem vRow_ready {s : State} (c : VCtl) (imm : SReg) (lat : Nat) (sels : List VSel) (srcs : List Mark)
    (more : Option FC) (f : State → Nat → RowVal × RowVal × BitVec 5) (hr : Ready s) (hs : Readable s c.b1 sels)
    (hd : c.d.toNat + c.b1.toNat ≤ 255) (hm : more = none) (hq : rowsOf srcs = []) :
    vRow c imm lat sels srcs more f s = .next (State.occupyV c.unit (c.b1.toNat + 1)
      ((noted s imm c.b1 sels).vbeats c lat (f (noted s imm c.b1 sels)))) := by
  unfold vRow noted
  rw [vIssue_ready _ _ _ _ _ _ _ hr hs (by rintro r ⟨⟩; exact hd) hm]
  simp [rowsOf_append, hq]

/-- What a source reads does not depend on the phase. -/
theorem vsrc_noted (s : State) (imm' imm : SReg) (b1 : BitVec 4) (sels : List VSel) (w : Nat) (x : VSel) (j : Nat) :
    (noted s imm' b1 sels).vsrc imm w x j = s.vsrc imm w x j := by
  unfold noted
  obtain ⟨p, h⟩ := readRows_eq s (rowsOf (s.srcSels imm' b1 sels))
  rw [h]
  cases x <;> rfl

theorem kreg_noted (s : State) (imm : SReg) (b1 : BitVec 4) (sels : List VSel) (k : KReg) :
    (noted s imm b1 sels).kreg k = s.kreg k := by
  unfold noted
  obtain ⟨p, h⟩ := readRows_eq s (rowsOf (s.srcSels imm b1 sels))
  rw [h]; rfl

theorem sreg_noted (s : State) (imm : SReg) (b1 : BitVec 4) (sels : List VSel) (r : SReg) :
    (noted s imm b1 sels).sreg r = s.sreg r := by
  unfold noted
  obtain ⟨p, h⟩ := readRows_eq s (rowsOf (s.srcSels imm b1 sels))
  rw [h]; rfl

theorem typeW_pos (ty : VType) : 0 < typeW ty := by cases ty <;> decide
theorem typeW_dvd (ty : VType) : typeW ty ∣ 4096 := by cases ty <;> decide
theorem typeW_mul (ty : VType) : 4096 / typeW ty * typeW ty = 4096 := by cases ty <;> rfl

/-- The lanes of a row of results. -/
theorem rowOf_lane (ty : VType) (k : Line) (f : Nat → Nat × BitVec 5) (i : Nat) (hi : i < 4096 / typeW ty) :
    lane (rowOf (typeW ty) k ((List.range (4096 / typeW ty)).map f)).1 i (typeW ty) = (f i).1 % 2 ^ typeW ty := by
  simp only [rowOf]
  rw [lane_packList _ _ _ (by simpa using hi) (by simp [typeW_mul])]
  congr 1
  simp [List.getD_eq_getElem?_getD, hi]

/-- The flags of a row of results are those of its enabled lanes. -/
theorem rowOf_flag (w : Nat) (k : Line) (n : Nat) (f : Nat → Nat × BitVec 5) (b : Nat) :
    (rowOf w k ((List.range n).map f)).2.getLsbD b = true ↔
      ∃ i < n, k.getLsbD i = true ∧ (f i).2.getLsbD b = true := by
  simp only [rowOf, joinFlags_bit]
  rw [List.any_eq_true]
  constructor
  · rintro ⟨x, hx, hb⟩
    obtain ⟨⟨v, i⟩, hm, rfl⟩ := List.mem_map.mp hx
    have h := List.mem_zipIdx hm
    simp only [List.length_map, List.length_range, List.getElem_map, List.getElem_range] at h
    obtain ⟨-, h2, h3⟩ := h
    refine ⟨i, by omega, ?_⟩
    dsimp only at hb
    split at hb
    · rename_i hk; exact ⟨hk, by simpa [h3] using hb⟩
    · simp at hb
  · rintro ⟨i, hi, hk, hb⟩
    refine ⟨(f i).2, ?_, hb⟩
    apply List.mem_map.mpr
    refine ⟨(f i, i), ?_, by simp [hk]⟩
    rw [List.mem_zipIdx_iff_getElem?]
    simp [hi]

/-- A lane operation (R226): its lanes, its mask and its flags. -/
theorem vElem_ready {s : State} (c : VCtl) (ty : VType) (lat : Nat) (sels : List VSel)
    (f : List Nat → Nat → Nat × BitVec 5) (hr : Ready s) (hs : Readable s c.b1 sels)
    (hd : c.d.toNat + c.b1.toNat ≤ 255) :
    ∃ r, vElem c ty lat sels f s = .next (State.occupyV c.unit (c.b1.toNat + 1)
        ((noted s c.imm c.b1 sels).vbeats c lat r)) ∧
      ∀ j, (∀ i < 4096 / typeW ty, lane (r j).1 i (typeW ty) =
          (f (sels.map (fun x => lane (s.vsrc c.imm (typeW ty) x j) i (typeW ty))) i).1 % 2 ^ typeW ty) ∧
        (∀ b < 4096, (r j).2.1.getLsbD b = (s.kreg c.k).getLsbD (b / typeW ty)) ∧
        ∀ b, (r j).2.2.getLsbD b = true ↔ ∃ i < 4096 / typeW ty, (s.kreg c.k).getLsbD i = true ∧
          (f (sels.map (fun x => lane (s.vsrc c.imm (typeW ty) x j) i (typeW ty))) i).2.getLsbD b = true := by
  refine ⟨_, vRow_ready _ _ _ _ _ _ _ hr hs hd rfl rfl, fun j => ⟨fun i hi => ?_, fun b hb => ?_, fun b => ?_⟩⟩
  · have h := rowOf_lane ty (s.kreg c.k) (fun i =>
      f (sels.map (fun x => lane (s.vsrc c.imm (typeW ty) x j) i (typeW ty))) i) i hi
    simpa [kreg_noted, vsrc_noted, List.map_map, Function.comp_def] using h
  · simpa [kreg_noted] using laneMask_bit (s.kreg c.k) (typeW ty) b (typeW_pos ty) (typeW_dvd ty) hb
  · have h := rowOf_flag (typeW ty) (s.kreg c.k) (4096 / typeW ty) (fun i =>
      f (sels.map (fun x => lane (s.vsrc c.imm (typeW ty) x j) i (typeW ty))) i) b
    simpa [kreg_noted, vsrc_noted, List.map_map, Function.comp_def] using h

/-- A lane operation in the words of the claims. -/
theorem vElem_lanes {s : State} (c : VCtl) (ty : VType) (lat : Nat) (sels : List VSel)
    (f : List Nat → Nat → Nat × BitVec 5) (i : Instr) (r : Nat → Nat → Nat × BitVec 5) (hr : Ready s)
    (hs : Readable s c.b1 sels) (hd : c.d.toNat + c.b1.toNat ≤ 255) (hi : exec i s = vElem c ty lat sels f s)
    (hf : ∀ j, ∀ l < 4096 / typeW ty,
      let q := f (sels.map (fun x => lane (s.vsrc c.imm (typeW ty) x j) l (typeW ty))) l
      q.1 % 2 ^ typeW ty = (r j l).1 % 2 ^ typeW ty ∧ q.2 = (r j l).2) :
    LanesGive s c c.imm sels (typeW ty) lat (fun l => (s.kreg c.k).getLsbD l) i r := by
  obtain ⟨g, hg, hp⟩ := vElem_ready c ty lat sels f hr hs hd
  refine ⟨g, by rw [hi, hg], fun j _ => ⟨fun l hl => ?_, (hp j).2.1, fun b => ?_⟩⟩
  · rw [(hp j).1 l hl, (hf j l hl).1]
  · rw [(hp j).2.2 b]
    constructor <;> rintro ⟨l, hl, hk, hb⟩ <;> refine ⟨l, hl, hk, ?_⟩
    · rw [← (hf j l hl).2]; exact hb
    · rw [(hf j l hl).2]; exact hb

/-- A whole-row operation in the words of the claims: one that computes each lane and masks it. -/
theorem vMove_lanes {s : State} (c : VCtl) (ty : VType) (imm : SReg) (lat : Nat) (sels : List VSel) (srcs : List Mark)
    (more : Option FC) (f : State → Nat → Nat → Nat) (i : Instr) (r : Nat → Nat → Nat) (hr : Ready s)
    (hs : Readable s c.b1 sels) (hd : c.d.toNat + c.b1.toNat ≤ 255) (hm : more = none) (hq : rowsOf srcs = [])
    (hi : exec i s = vMove c ty imm lat sels srcs more f s)
    (hf : ∀ j, ∀ l < 4096 / typeW ty, f (noted s imm c.b1 sels) j l % 2 ^ typeW ty = r j l % 2 ^ typeW ty) :
    LanesGive s c imm sels (typeW ty) lat (fun l => (s.kreg c.k).getLsbD l) i (fun j l => (r j l, 0)) := by
  refine ⟨_, by rw [hi]; exact vRow_ready _ _ _ _ _ _ _ hr hs hd hm hq, fun j _ => ⟨fun l hl => ?_, fun b hb => ?_, fun b => ?_⟩⟩
  · simp only
    rw [lane_mkRow _ _ _ _ hl (by rw [typeW_mul]), hf j l hl]
  · simpa [kreg_noted] using laneMask_bit (s.kreg c.k) (typeW ty) b (typeW_pos ty) (typeW_dvd ty) hb
  · simp

theorem vMaskOp_ready {s : State} (u : VUnit) (sels : List VSel) (srcs : List Mark) (dk : KReg)
    (f : State → Line × Line) (hr : Ready s) (hs : Readable s 0 sels) :
    vMaskOp u sels srcs dk f s = .next (State.occupyV u 1 ((s.readRows (rowsOf srcs)).land 2 (vslot u)
      (.k dk (f (s.readRows (rowsOf srcs))).1 (f (s.readRows (rowsOf srcs))).2) 0)) := by
  unfold vMaskOp
  rw [vIssue_ready _ _ _ _ _ _ _ hr hs (by simp) rfl]
  rfl

/-- Bit i of a mask built bit by bit. -/
theorem maskOf_bit (n : Nat) (f : Nat → Bool) (i : Nat) (hn : n ≤ 512) :
    (maskOf n f).getLsbD i = (decide (i < n) && f i) := by
  have hlt := packGo_lt 1 (fun i => if f i then 1 else 0) n 0
  rw [Nat.mul_one] at hlt
  have h512 : packGo 1 (fun i => if f i then 1 else 0) n 0 < 2 ^ 512 := lt_of_lt_of_le hlt (Nat.pow_le_pow_right (by decide) hn)
  rw [maskOf, BitVec.getLsbD_ofNat]
  by_cases hi : i < n
  · have hd := packGo_digit 1 (fun i => if f i then 1 else 0) n 0 i hi
    rw [Nat.mul_one, Nat.zero_add] at hd
    rw [Nat.testBit_eq_decide_div_mod_eq, ← Nat.shiftRight_eq_div_pow, show (2:Nat) = 2 ^ 1 from rfl, hd]
    cases f i <;> simp [hi, show i < 512 by omega]
  · rw [Nat.testBit_lt_two_pow (lt_of_lt_of_le hlt (Nat.pow_le_pow_right (by decide) (by omega)))]
    simp [hi]

end Sys2Proof.Laws
end

