-- ==== Sys2Proof/Tests/Slice0.lean ====
section
/-! SUPPORT. Tests of the model: words written out field by field from the encoding tables of the spec (R173, R176, R198 and each
entry), an ill-formed term for each check of WellFormed, reserved encodings, and for every statement of the certificate a state and
operands that meet its hypotheses. -/

set_option Elab.async false

namespace Sys2Proof.Tests

open Sys2Proof Sys2Proof.Machine Sys2Proof.Safety

/-- The reset state with its core changed. -/
def core (f : Core → Core) : State := State.reset.mc f

/-- The same in the effect pass of a bundle. -/
def go (f : Core → Core) : State := core (fun c => { f c with ctl := { (f c).ctl with pass := .go } })

theorem go_ready (f : Core → Core) : Ready (go f) := .inl rfl

theorem free_reset : Free State.reset :=
  ⟨rfl, rfl, rfl, Nat.le_refl _, Nat.le_refl _, Nat.le_refl _, Nat.le_refl _⟩

/-- A module whose memories were never written and never failed holds no unit amiss. -/
theorem sound_clean {s : State} (p : s.poison = []) (f : s.flips = []) (c : s.codes = []) (g : BitVec 2) (pa : Dpa) (n : Nat) :
    Sound s g pa n := ⟨p, f, fun _ _ => by simp [State.ownCode, c, Memory.get]⟩

theorem wit_IntegerResults : Ready State.reset ∧ State.reset.preg 0 = true := ⟨.inr ⟨rfl, free_reset⟩, by decide +kernel⟩

theorem wit_ShiftAndFieldResults : Ready State.reset ∧ State.reset.preg 0 = true ∧
    ∀ v, some 64#7 = some v → v.toNat ≤ 64 :=
  ⟨.inr ⟨rfl, free_reset⟩, by decide +kernel, fun v h => by cases h; decide⟩

theorem wit_PredicateConstantAndHandleResults : Ready State.reset ∧ State.reset.preg 0 = true ∧ WF.haddOk .off = true :=
  ⟨.inr ⟨rfl, free_reset⟩, by decide +kernel, rfl⟩

/-- The last DTIME within a refresh window, and a context that may not write the heap's registers. -/
theorem wit_SystemRegisterAccess :
    let s : State := { go (fun c => { c with sys := { c.sys with asid := 1 } }) with dsub := 189 * 319 }
    Ready s ∧ s.preg 0 = true ∧ SysReg.heapbase ≠ .wstate ∧ s.core.sys.asid ≠ 0 ∧ s.dsub / 189 % 16000 % 2000 < 320 :=
  ⟨.inl rfl, by decide +kernel⟩

theorem wit_AddressAluResults : Ready State.reset ∧ State.reset.preg 0 = true := wit_IntegerResults

/-- A core whose latch 7 holds a row. -/
def latched : State := go (fun c => { c with regs := { c.regs with b := c.regs.b.set 7 (some 1) } })

theorem readable_latched : Readable latched 15 [.row 240, .latch 7, .scalar] := by
  constructor
  · intro r h; simp at h; subst h; decide
  · intro n h; simp at h; subst h; decide +kernel

/-- The last run of 16 rows, and 16 beats. -/
def lastRows : VCtl := ⟨.v1, 0, 240, false, some 3, 15, 63⟩

theorem wit_VectorArithmeticResults : Ready latched ∧ lastRows.d.toNat + lastRows.b1.toNat ≤ 255 ∧
    Readable latched lastRows.b1 [.row 240, .latch 7, .scalar] ∧ typeFloat .n32 = false :=
  ⟨go_ready _, by decide, readable_latched, rfl⟩

theorem wit_VectorBitResults : Ready latched ∧ lastRows.d.toNat + lastRows.b1.toNat ≤ 255 ∧
    Readable latched lastRows.b1 [.row 240, .latch 7, .scalar] := ⟨go_ready _, by decide, readable_latched⟩

theorem wit_VectorMaskResults : Ready latched ∧ Readable latched 0 [.row 255, .latch 7] := by
  refine ⟨go_ready _, fun r h => ?_, fun n h => ?_⟩
  · simp at h; subst h; decide
  · simp at h; subst h; decide +kernel

/-- The last lane of a row of bytes. -/
theorem wit_VectorMoveResults : Ready latched ∧ lastRows.d.toNat + lastRows.b1.toNat ≤ 255 ∧
    Readable latched lastRows.b1 [.row 240, .latch 7, .scalar] ∧ (511#9).toNat < 4096 / typeW .n8 :=
  ⟨go_ready _, by decide, readable_latched, by decide⟩

theorem wit_VectorReductionResults : Ready latched ∧ lastRows.d.toNat + lastRows.b1.toNat ≤ 255 ∧
    Readable latched lastRows.b1 [.row 240, .latch 7, .scalar] ∧ (16#5).toNat ≤ 16 :=
  ⟨go_ready _, by decide, readable_latched, by decide⟩

theorem wit_VectorConversionResults : Ready latched ∧ lastRows.d.toNat + lastRows.b1.toNat ≤ 255 ∧
    Readable latched lastRows.b1 [.row 240, .latch 7, .scalar] ∧
    (7#3).toNat < max (typeW .i8) (typeW .i64) / min (typeW .i8) (typeW .i64) ∧ typeFloat .bf16 = true ∧
    (fmtMx .mxint8 || fmtPx .mxint8) = true ∧ fmtPx .px4 = true :=
  ⟨go_ready _, by decide, readable_latched, by decide, rfl, rfl, rfl⟩

/-- A handle: space, format, EX0, EX1, base and any further bits; EX2 and EX3 are 1. -/
def handle (space fmt ex0 ex1 base more : Nat) : Handle :=
  BitVec.ofNat 256 (base + 2 ^ 56 * space + 2 ^ 58 * fmt + 2 ^ 64 * ex0 + 2 ^ 80 * ex1 + 2 ^ 96 + 2 ^ 112 + more)

/-- Register h1 holds a handle. -/
def withHandle (h : Handle) : State := go (fun c => { c with regs := { c.regs with h := c.regs.h.set 1 h } })

/-- MX elements whose scales end with the side bank. -/
def scaled : State := withHandle (handle 1 3 128 1 0 (2 ^ 224 * (2 ^ 18 - 128)))

theorem wit_TransformResults : Ready scaled ∧ scaled.preg 0 = true ∧ (255#8).toNat + (0#4).toNat ≤ 255 ∧
    Readable scaled 0 [xToV (.row 255)] ∧ fmtBits .n8 ≤ 8 ∧ fmtBits .bf16 = 16 ∧ (1#4).toNat % 2 = 1 ∧
    (63#6).toNat < laneWN .w64 ∧ handleFault (scaled.hreg 1) = none ∧
    (fmtMx ((hfmt (scaled.hreg 1)).getD .bytes) || fmtPx ((hfmt (scaled.hreg 1)).getD .bytes)) = true ∧
    hget (scaled.hreg 1) .off ≤ 384 ∧ hget (scaled.hreg 1) .side + 128 * ((0#4).toNat + 1) ≤ scaled.sideb := by
  refine ⟨go_ready _, by decide +kernel, by decide, ⟨fun r h => ?_, fun n h => ?_⟩, by decide +kernel⟩
  · simp [xToV] at h; subst h; decide
  · simp [xToV] at h

/-! ### Loads and stores -/

/-- s1 is the place of the last 16 rows of the scratchpad. -/
def lastBytes : State := go (fun c => { c with regs := { c.regs with s := c.regs.s.set 1 (2 ^ 21 - 8192) } })

theorem wit_LocalAccessesIssue : Ready lastBytes ∧ lastBytes.preg 0 = true ∧ lastBytes.spadb = 2 ^ 21 ∧
    lastBytes.sideb = 2 ^ 18 ∧
    (let ea (v : BitVec 32) : Nat := (lastBytes.sreg 1 + v.signExtend 64).toNat
     ea 8184 % 8 = 0 ∧ ea 8184 < 2 ^ 21 ∧ ea 8184 + 8 ≤ lastBytes.spadb ∧ ea 8160 % 32 = 0 ∧
     ea 8160 + 32 ≤ lastBytes.spadb ∧ ea 0 % 64 = 0 ∧ (240#8).toNat + (15#4).toNat ≤ 255 ∧
     ea 0 + 512 * ((15#4).toNat + 1) ≤ lastBytes.spadb ∧ laneWN .w8 < laneWN .w16 ∧
     ea (8192 - 256) % 64 = 0 ∧ ea (8192 - 256) + 4096 / laneWN .w16 * laneWN .w8 / 8 ≤ lastBytes.spadb ∧
     ∀ l < 4096 / laneWN .w32, (lastBytes.kreg 0).getLsbD l = true →
       let a := (ea 8188 + lane (lastBytes.arow 9) l 32 * 2 ^ 3) % 2 ^ 64
       a % 4 = 0 ∧ a < 2 ^ 21 ∧ a + 4 ≤ lastBytes.spadb) ∧
    (let ea : Nat := (lastBytes.sreg 0 + (2 ^ 18 - 8 : BitVec 32).signExtend 64).toNat
     ea % 8 = 0 ∧ ea < 2 ^ 18 ∧ ea + 8 ≤ lastBytes.sideb) ∧
    ((4#6 : SReg) ≠ 0 ∧ lastBytes.core.freeTrack = some 0 ∧ AtomOp.umax ≠ .fadd ∧ AtomOp.umax ≠ .bfadd2) ∧
    ∀ b ∈ [[(2 ^ 21 - 1, (1 : Byte))]], ∀ p ∈ b, lastBytes.core.curd.plain (p.1 / 4096) = true :=
  ⟨go_ready _, by decide +kernel⟩

/-- A beat at the local port. -/
def beat (op : PortOp) : PortEntry := ⟨1, 0, none, some 0, .l, op, 0, 0, 0⟩

theorem wit_LocalPortBeats : State.reset.core.marks = [] ∧ State.reset.core.eng.shadow = [] ∧ CoreMemOk State.reset.core ∧
    State.reset.dieReply State.reset.cur = none ∧
    (∀ i ≤ 8, State.reset.core.curd.plain ((2 ^ 21 - 9 + i) / 4096) = true) ∧
    (beat (.ld 1 8 true false 0)).op = .ld 1 8 true false 0 ∧ (beat (.ld 1 1 true true 0)).op = .ld 1 1 true true 0 ∧
    (beat (.ldh 31 0)).op = .ldh 31 0 ∧ (beat (.ldpcw 15 0)).op = .ldpcw 15 0 ∧ (beat (.vld 255 1 0)).op = .vld 255 1 0 ∧
    (beat (.vldp 255 1 32 64 true 0)).op = .vldp 255 1 32 64 true 0 ∧ 32 ∈ [8, 16, 32] ∧ 64 ∈ [16, 32, 64] ∧
    (let as : List (Nat × Nat) := [(0, 8), (511, 3)]
     (beat (.vldg 255 1 8 as)).op = .vldg 255 1 8 as ∧ as.Pairwise (fun p q => p.1 < q.1) ∧ ∀ p ∈ as, p.1 < 4096 / 8) ∧
    (let bs : List (Nat × Byte) := [(5, 1), (5, 2)]
     (beat (.st false bs)).op = .st false bs ∧ (beat (.st true bs)).op = .st true bs ∧
       ∀ p ∈ bs, State.reset.core.curd.plain (p.1 / 4096) = true) ∧
    (beat (.at .add true 1 0 none (2 ^ 21 - 8))).op = .at .add true 1 0 none (2 ^ 21 - 8) := by
  simp only [CoreMemOk]; decide +kernel

/-- Heap registers: 1 GiB of near die 0 at VA 0, readable, writable and atomic. -/
def heapRegs : SysRegs := { SysRegs.reset with heaplim := 2 ^ 30, heapoff := 2 ^ 39, heapattr := 0x38 }

/-- A core whose heap is mapped, with a valid multicast group 4095 of which this node is a member. -/
def heaped : State :=
  (go (fun c => { c with sys := heapRegs, regs := { c.regs with s := c.regs.s.set 1 (2 ^ 44 - 2 ^ 32) } })).mfab (fun f =>
    { f with groups := [(4095, { Group.reset with v := true, mem := true, wlen := 1 })] })

/-- Eight bytes at a die-local offset of near die 1. -/
def at1 (l : List (Nat × Nat)) : Memory := l.foldl (fun m p => m.write p.1 (leBytes 8 p.2)) []

/-- A leaf of 2^38 bytes under move at VA 2^40: entry 4 of the root table. -/
def moving : State :=
  { go (fun c => { c with sys := { heapRegs with ptroot := 2 ^ 39 + 2 ^ 13 } }) with mem := at1 [(2 ^ 13 + 32, 0x1707)] }

theorem wit_MemoryAccessesIssue : Ready heaped ∧ heaped.preg 0 = true ∧ heaped.core.freeTrack = some 0 ∧ (3#6 : SReg) ≠ 0 ∧
    (let ea (v : BitVec 24) : Nat := (heaped.sreg 0 + v.signExtend 64).toNat
     ea (2 ^ 22) % 8 = 0 ∧ ea (2 ^ 22) % 32 = 0 ∧ ea (2 ^ 22) < 2 ^ 27 ∧
     (∀ k ∈ [AKind.rd, .wr, .at], heaped.translate heaped.core.sys.xlat (ea (2 ^ 22)) k = .ok (2 ^ 39 + 2 ^ 22) 0 0 false) ∧
     AtomOp.add ≠ .fadd ∧ AtomOp.add ≠ .bfadd2) ∧
    (let ea : Nat := (heaped.sreg 1 + (56 : BitVec 24).signExtend 64).toNat
     let grp := heaped.group (BitVec.ofNat 12 (ea / 2 ^ 32))
     ea % 8 = 0 ∧ ea < 2 ^ 44 ∧ grp.v = true ∧ grp.mem = true ∧ ea % 2 ^ 32 + 8 ≤ 64 * grp.wlen.toNat) ∧
    Ready moving ∧ moving.translate moving.core.sys.xlat (2 ^ 40) .rd = .moving :=
  ⟨.inl rfl, by decide +kernel, by decide +kernel, by decide, by decide +kernel, by decide +kernel, .inl rfl, by decide +kernel⟩

theorem wit_HeapAndStripeMaps :
    let x := heapRegs.xlat
    let pa (va : Nat) (y : XlatRegs) : Dpa := BitVec.ofNat 53 (va + y.heapoff.toNat)
    (x.heapbase.toNat ≤ 2 ^ 30 - 1 ∧ 2 ^ 30 - 1 < x.heapbase.toNat + x.heaplim.toNat ∧
      ((pa 0 x).extractLsb' 39 4).toNat ≤ 12 ∧ (pa 0 x).extractLsb' 43 10 = State.reset.fab.node ∧
      x.heapattr.getLsbD 4 = true ∧ x.heapattr.getLsbD 2 = false ∧ dpaKey 0 (pa (2 ^ 30 - 1) x) ≠ none) ∧
    12 < ((pa 0 { x with heapoff := 13 * 2 ^ 39 }).extractLsb' 39 4).toNat ∧ (0x1F : Word).getLsbD 5 = false ∧
    (dieCode 0 = 0 ∧ offOf (384 * 2 ^ 30 - 1) < 384 * 2 ^ 30) ∧ dieCode (2 ^ 39) = 1 ∧ dieCode (12 * 2 ^ 39) = 12 ∧
    12 < dieCode (13 * 2 ^ 39) ∧ dpaKey 1 (5 * 2 ^ 39 + 7) = some (4 * 2 ^ 39 + 7) := by decide +kernel

/-- Tables: entry 4 of the root is a pointer, entry 5 a leaf of 2^38 bytes, entry 6 a leaf of a wrong size; the next table
holds a leaf of 2^28 bytes and a pointer to a last table, which holds a pointer. -/
def tables : State :=
  { go (fun c => { c with sys := { heapRegs with ptroot := 2 ^ 39 + 2 ^ 13 } }) with
      mem := at1 [(2 ^ 13 + 32, 2 ^ 39 + 2 ^ 14 + 1), (2 ^ 13 + 40, 0x707), (2 ^ 13 + 48, 0x703),
                  (2 ^ 14, 2 ^ 39 + 2 ^ 28 + 0x705), (2 ^ 14 + 8, 2 ^ 39 + 2 ^ 15 + 1), (2 ^ 15, 2 ^ 39 + 2 ^ 13 + 1)] }

/-- R75, R79, R80: the walk for VA 2^40 + 8 passes a pointer and finds the leaf of 256 MiB, which the TLB then holds. -/
theorem test_walk_and_fill :
    let s := tables
    let x := s.core.sys.xlat
    let e : Word := 2 ^ 39 + 2 ^ 28 + 0x705
    s.walk (2 ^ 40 + 8) 2 (x.ptroot.extractLsb' 0 53) = .leaf 1 (2 ^ 39 + 2 ^ 14) e ∧
      s.translate x (2 ^ 40 + 8) .wr = .ok (2 ^ 39 + 2 ^ 28 + 8) 0 0 false ∧
      (match s.take (.tlbFill 0 (2 ^ 40 + 8)) with | .next t => t.tlb | _ => []) = [⟨0, 0, 1, 2 ^ 12, 2 ^ 39 + 2 ^ 14, e⟩] := by
  decide +kernel

theorem wit_TablesAndHeldEntries :
    let s := tables
    let x := s.core.sys.xlat
    let root : Dpa := x.ptroot.extractLsb' 0 53
    let e : Word := 2 ^ 39 + 2 ^ 28 + 0x705
    (x.heapbase.toNat + x.heaplim.toNat ≤ 2 ^ 40 + 8 ∧ s.tlbHit x.asid (2 ^ 40 + 8) = none ∧
      s.walk (2 ^ 40 + 8) 2 root = .leaf 1 (2 ^ 39 + 2 ^ 14) e ∧
      State.tlbHit { s with tlb := [⟨0, 0, 1, 2 ^ 12, 2 ^ 39 + 2 ^ 14, e⟩] } x.asid (2 ^ 40 + 8) =
        some ⟨0, 0, 1, 2 ^ 12, 2 ^ 39 + 2 ^ 14, e⟩ ∧
      s.walk (2 ^ 41) 2 root = .stop .noLeaf) ∧
    ((∀ ea, Sound s 1 ea 8) ∧
      ([2 ^ 39 + 2 ^ 13 + 32, 2 ^ 39 + 2 ^ 13 + 40, 2 ^ 39 + 2 ^ 13 + 48, 2 ^ 39 + 2 ^ 14, 2 ^ 39 + 2 ^ 15].all (fun ea : Dpa =>
        !s.farLost ea && !s.lineAway ea 8)) = true ∧
      (let ea : Dpa := 12 * 2 ^ 39 + 2 ^ 13
       dieCode ea ≤ 12 ∧ nodeOf ea = s.fab.node ∧ dpaKey 1 ea ≠ none ∧ (s.mhub (fun h => { h with lostFar := 8 })).farLost ea = true) ∧
      (s.mfab (fun f => { f with owned := [⟨2 ^ 39 + 2 ^ 13, some 1, 0, [], false⟩] })).lineAway (2 ^ 39 + 2 ^ 13 + 32) 8 = true ∧
      12 < dieCode (13 * 2 ^ 39) ∧ dieCode root ≤ 12 ∧ nodeOf root = s.fab.node ∧
      dpaKey 1 (dpaAdd root (8 * (2 ^ 40 / 2 ^ 38 % 1024))) = some (2 ^ 13 + 32) ∧
      s.dpaNat 1 (2 ^ 39 + 2 ^ 13 + 32) 8 = 2 ^ 39 + 2 ^ 14 + 1 ∧ s.dpaNat 1 (2 ^ 39 + 2 ^ 13 + 40) 8 = 0x707 ∧
      s.walk (5 * 2 ^ 38) 2 root = .leaf 2 (2 ^ 39 + 2 ^ 13 + 40) 0x707 ∧ s.walk (6 * 2 ^ 38) 2 root = .stop .noLeaf ∧
      s.walk (2 ^ 40 + 2 ^ 28) 2 root = .stop .noLeaf ∧ s.walk 0 0 (2 ^ 39 + 2 ^ 15) = .stop .noLeaf ∧
      s.dpaNat 1 (2 ^ 39 + 2 ^ 15) 8 = 2 ^ 39 + 2 ^ 13 + 1 ∧ s.walk 0 2 root = .stop .noLeaf) ∧
    (∀ k ∈ [AKind.rd, .wr, .at], s.leafXl false 8 k 0 0x1703 = .moving ∧ s.leafXl false 8 k 0 0x0003 = .perm ∧
      s.leafXl false 8 k 0 0x0F03 = .perm ∧ s.leafXl true 8 k 0 (2 ^ 39 + 0x0F03) = .ok (2 ^ 39 + 8) 0 0 false ∧
      s.leafXl false 8 k 0 (2 ^ 43 + 0x07A3) = .ok (2 ^ 43 + 8) 0 1 true) := by
  and_intros <;> first | exact fun _ => sound_clean rfl rfl rfl _ _ _ | decide +kernel

/-- A pending access of class 0. -/
def acc (slot : Slot) (tgt : Machine.Target) (op : AccOp) (sent : Bool) : Access :=
  ⟨0, 0, slot, tgt, op, .rd, 0, 0, sent, 0, false, none, false, 0⟩

def home : Machine.Target := .dpa (2 ^ 39) 0

theorem wit_HomeAccesses : MemOk State.reset ∧ ∀ op ∈ [AccOp.ldTrack 0 8 true, .ldWait 1 8 true, .ldHandle 31, .ldPcw 15,
    .store [1, 2, 3, 4], .atomic .add true 1 0 (some 15)],
    let a := acc .l home op false
    a.tgt = .dpa (2 ^ 39) 0 ∧ a.sent = false ∧ State.reset.permitted a = true ∧ nodeOf (2 ^ 39) = State.reset.fab.node ∧
    dieCode (2 ^ 39) ≤ 12 ∧ State.reset.lineAway (2 ^ 39) a.op.bytes = false ∧
    (∀ k ∈ [AKind.rd, .wr, .at], State.reset.homeRefuses a.sec k 0 (2 ^ 39) a.op.bytes = none) ∧ Sound State.reset 0 (2 ^ 39) a.op.bytes ∧
    State.reset.core.eng.shadow = [] ∧ State.reset.host.windows.toList.any Window.en = false ∧
    offOf (2 ^ 39) + a.op.bytes ≤ 2 ^ 39 := by simp only [MemOk, Sound]; decide +kernel

/-- A tracker entry for s5, late or not, with its reply. -/
def entry (late : Bool) (reply : Option (BitVec 16 × Word)) : Track := ⟨5, 2, 0, 0, late, reply, 0, false, false, 0, 0⟩

def tracked (late : Bool) (reply : Option (BitVec 16 × Word)) (a : Access) : State :=
  core (fun c => { c with track := c.track.set 15 (some (entry late reply)), pend := [a], task := some 0 })

theorem wit_AccessesAnswered :
    let ld (sent : Bool) := acc .l home (.ldTrack 15 8 true) sent
    let at_ := acc .w home (.atomic .add true 1 0 (some 15)) true
    let own : Access := { at_ with rap := true }
    let sends : Access := { acc .c home (.published [(1, 0xFF)] ⟨0, 0, 0, ⟨0, 0, 0, 0, 0, 0, 0, 0, 0, 0, false, none⟩, none, none⟩ 0 none) true with task := some 0 }
    let st (t : Machine.Target) (sent : Bool) : Access := { acc .w t (.store [1]) sent with task := some 0 }
    let host : Machine.Target := .dpa (13 * 2 ^ 39) 0
    let s := tracked false none (ld true)
    let to_ (y : Access) : Bool := match y.op with
      | .ldTrack t .. => decide (t = 15)
      | .atomic _ _ _ _ (some t) => decide (t = 15)
      | _ => false
    (acc .l home (.ldWait 0 8 true) false).op = .ldWait 0 8 true ∧ (acc .l home (.ldWait 63 8 true) false).op = .ldWait 63 8 true ∧
    s.core.track[15] = some (entry false none) ∧ (entry false none).drop = false ∧ (entry false none).reg ≠ 0 ∧
    (entry false none).due ≤ s.pcyc ∧ (tracked false (some (0, 7)) (ld true)).core.track[15] = some (entry false (some (0, 7))) ∧
    s.core.ctl.late = [] ∧ s.core.pend.find? to_ = some (ld true) ∧ (ld true).sent = true ∧
    (tracked false none at_).core.pend.find? to_ = some at_ ∧ at_.sent = true ∧ at_.rap = false ∧
    (tracked false none own).core.pend.find? to_ = some own ∧ own.rap = true ∧ own.tgt = .dpa (2 ^ 39) 0 ∧
    (List.replicate 64 (7 : Byte)).length = 64 ∧ (tracked false none own).fab.owned = [] ∧
    (tracked false none sends).core.pend.find? (fun y => decide (y.id = 0)) = some sends ∧ sends.sent = true ∧
    (tracked false none (ld false)).core.pend.find? to_ = some (ld false) ∧ (ld false).sent = false ∧
    dieCode (13 * 2 ^ 39) = 13 ∧ (tracked false none (st home true)).core.pend.find? (fun y => decide (y.id = 0)) = some (st home true) ∧
    (st home true).slot ≠ .y ∧ (tracked false none (st home true)).core.task = some 0 ∧ (st home true).task = some 0 ∧
    (tracked false none (st home true)).hub.saves = [] ∧
    (tracked false none (st host false)).core.pend.find? (fun y => decide (y.id = 0)) = some (st host false) ∧
    (0x0106 : BitVec 16) ≠ 0 ∧ (ld true).born + 101000 ≤ State.ns { s with dsub := 189 * 101000 } ∧ s.ns < (ld true).born + 101000 ∧
    (acc .l host (.ldTrack 15 8 true) false).born + 10000000 ≤ State.ns { s with dsub := 189 * 10000000 } := by decide +kernel

/-- The answer of a load at this node is a next state. -/
theorem wit_AccessesAnswered_local : ∃ t, (tracked false none (acc .l home (.ldTrack 15 8 true) false)).performAcc
    (acc .l home (.ldTrack 15 8 true) false) = t ∧ t.core.ctl.late = [] := ⟨_, rfl, by decide +kernel⟩

/-- A bundle that reads s5, which a late load owes. -/
def owing (replay : Bool) (rpl : Word) : State := core (fun c => { c with
  poison := 32, sys := { c.sys with rpladdr := rpl }, ctl := { c.ctl with reads := [(0, .s 5)], replay := replay } })

theorem wit_AccessesAnswered_replay :
    (∃ p ∈ (owing false 64).core.ctl.reads, p.2 = .s 5) ∧ (owing false 64).core.poison.getLsbD (5#6).toNat = true ∧
    (owing false 64).core.ctl.replay = false ∧ (owing false 64).core.sys.rpladdr ≠ 0 ∧ (owing false 0).core.sys.rpladdr = 0 ∧
    (owing true 0).core.ctl.replay = true ∧ State.reset.core.ctl.reads = [] := by decide +kernel

/-! ### Engines -/

/-- Handles h1 to h4. -/
def handles (a b c d : Handle) : State :=
  go (fun k => { k with regs := { k.regs with h := (((k.regs.h.set 1 a).set 2 b).set 3 c).set 4 d } })

/-- A leaf that two tasks run together, in the heap of `heapRegs`. -/
def force : Force :=
  { cores := 2, spadb := 2 ^ 21, sideb := 2 ^ 18, quota := 0, prio := 0, dies := 15, kill := false, killNode := 0, asid := 0,
    hbase := 0, hlim := 2 ^ 30, hoff := 2 ^ 39, hattr := 0x38, ptroot := 0, sec := false, entry := 0x40, ndim := 1,
    ext0 := 2, ext1 := 1, ext2 := 1, ring := 0, taskRec := false, stageRec := false, minc := 0, maxc := 0, gang := 0, enqn := 1 }

def leaf : Region :=
  { id := 0, launch := 0, rcb := 2 ^ 39, gran := 0, parent := none, kind := 0, stage := none, depth := 1, together := false,
    inq := 0, outq := 0, f := force, effdl := 2 ^ 64 - 1, cil := false, arrival := 0, tag := 0, rring := 0, st := 1,
    late := false, next := 2, cancelled := none, passed := 0, passedAt := 0, tstart := 2, tdone := 0, status := 0, fcount := 0,
    fcode := 0, spawner := none, recorded := false }

def task (id core : Nat) (st : TState) : Task :=
  { id := id, region := 0, ord := id, core := core, st := st, peers := [], gang := [], late := false, status := 0, fcount := 0,
    fcode := 0, outBase := 0, outLeft := 1, inEntry := none, wseen := 0 }

/-- A state in which task 0 runs on the core in focus as a task of a leaf. -/
def tasked (s : State) (r : Region) (ts : List Task) : State :=
  (s.mc (fun c => { c with task := some 0, mode := .running })).mhub (fun h => { h with regs := [r], tasks := ts, stage := 5 })

/-- FP32, packed bits, MX and weight-store handles that fit one another. -/
def fp32 : Handle := handle 1 0 64 1 0 0
def bytes64 : Handle := handle 1 15 64 1 256 0

def copies : State := handles fp32 fp32 (handle 1 8 64 1 512 0) (handle 1 15 2 1 1024 0)

theorem wit_CopyCommandsIssue : let s := copies
    Ready s ∧ s.preg 0 = true ∧ (s.core.eng.cq.filter CopyCmd.queued).length < 16 ∧ s.core.eng.tokens[(15#4).toNat] ≠ 255 ∧
      handleFault (s.hreg 1) = none ∧ handleFault (s.hreg 2) = none ∧ handleFault (s.hreg 3) = none ∧
      handleFault (s.hreg 4) = none ∧ hcount (s.hreg 1) = hcount (s.hreg 2) ∧
      hspace (s.hreg 1) ≠ 3 ∧ hspace (s.hreg 1) = 1 ∧ hscaled (s.hreg 1) = false ∧
      isBytes (s.hreg 1) = isBytes (s.hreg 2) ∧ isBytes (s.hreg 1) = false ∧
      s.core.engineBusy = false ∧ hget (s.hreg 1) .ex0 ≤ 128 ∧ hget (s.hreg 1) .ex1 ≤ 128 ∧
      hfmt (s.hreg 3) = some .mxint8 ∧ fmtMx .mxint8 = true ∧ hplane (s.hreg 3) = false ∧ hfmt (s.hreg 4) = some .n8 ∧
      hfmt (s.hreg 1) = some .fp32 ∧ hget (s.hreg 3) .ex0 = hget (s.hreg 1) .ex0 ∧
      hget (s.hreg 4) .ex0 = (hget (s.hreg 1) .ex0 + gsN .g32 - 1) / gsN .g32 ∧
      (∀ e ∈ ([.ex1, .ex2, .ex3] : List HField), hget (s.hreg 3) e = hget (s.hreg 1) e ∧ hget (s.hreg 4) e = hget (s.hreg 1) e) :=
  ⟨go_ready _, by decide +kernel⟩

theorem wit_CopyCommandsIssue_tiles : let a := handle 1 0 1024 1 0 (2 ^ 246)
    let b := handle 2 0 1024 1 0 (2 ^ 246)
    handleFault a = none ∧ handleFault b = none ∧ sameShape a b = true ∧ tileOk a = true ∧ tileOk b = true ∧
      hcount a = hcount b := by decide +kernel

theorem wit_CopyCommandsIssue_weights : let a := handle 3 15 64 1 0 0
    handleFault a = none ∧ handleFault bytes64 = none ∧ hspace a = 3 ∧ hspace bytes64 < 2 ∧
      isBytes bytes64 = false ∧ sameShape a bytes64 = true := by decide +kernel

def together : State := tasked copies { leaf with together := true } [task 0 0 .running, task 1 1 .running]

theorem wit_CopyCommandsIssue_peer : together.curTask = some (task 0 0 .running) ∧
    together.leafOf (task 0 0 .running) = some { leaf with together := true } ∧
    together.peerTask 1 = some (task 1 1 .running) ∧ together.core.task ≠ some 1 := by decide +kernel

theorem wit_CopyCommandsIssue_mcast : let m := heaped
    let a := (m.sreg 1).toNat
    a < 2 ^ 44 ∧ (m.group (BitVec.ofNat 12 (a / 2 ^ 32))).v = true ∧ (m.group (BitVec.ofNat 12 (a / 2 ^ 32))).mem = true ∧
      a % 2 ^ 32 + (hcount bytes64 * hwidth bytes64 + 7) / 8 ≤ 64 * (m.group (BitVec.ofNat 12 (a / 2 ^ 32))).wlen.toNat ∧
      (0 : Word).toNat % 8 = 0 ∧ (0 : Word).toNat + 8 ≤ copies.spadb := by decide +kernel

/-- A matrix command that has just become active. -/
def mcmd (kind : MKind) (stage : MStage) : MCmd :=
  { id := 0, kind := kind, mn := Vector.replicate 9 1, pa := 0x21, pb := 0x21, hd := handle 1 0 128 1 0 0, tok := 0,
    x := Vector.replicate 6 0, dcur := 0, taken := 0, stage := stage, toEnter := 0, enterAt := 0, inArray := [], last := 0, reads := [], writes := [], rows := [],
    i32 := false, bank := false, born := 0, xl := SysRegs.reset.xlat, cidx := 0, pc := 0, btag := 0, fl := 0 }

/-- The engine's slots. -/
def slots (act pend : Option MCmd) : State := go (fun c => { c with eng := { c.eng with act := act, pend := pend } })

theorem wit_EngineWordsAndStatus : let s := slots (some (mcmd .go .idle)) none
    Ready s ∧ s.preg 0 = true ∧ (2 ^ 21 - 32) % 32 = 0 ∧ 2 ^ 21 - 32 < 2 ^ 21 ∧ 2 ^ 21 - 32 + 32 ≤ s.spadb ∧
      s.core.curd.plain ((2 ^ 21 - 32) / 4096) = true ∧ s.core.eng.act = some (mcmd .go .idle) ∧
      (∀ l < 6, (mcmd .go .idle).xAt l < 2 ^ 16) ∧ (mcmd .go .idle).dcur < 2 ^ 24 ∧
      (slots none none).core.eng.act = none ∧ (mcmd .go (.done 0)).stage = .done 0 := ⟨.inl rfl, by decide +kernel⟩

/-- A nest of 128 leaves with a drain and recirculation at level 1, and the press's handle in h1. -/
def nest : State := (slots none none).mc (fun c => { c with
  regs := { c.regs with h := c.regs.h.set 1 (handle 1 0 128 128 0 0) }
  eng := { c.eng with
    pcw := (c.eng.pcw.set 0 0x21).set 1 0x40000021
    mn := #v[128 + 2 ^ 34, 1 + 2 ^ 35 + 2 ^ 36, 1, 1, 1, 1, 0, 0, 2 ^ 20 + 2 ^ 28] } })

theorem wit_MatrixCommandsIssue : let s := nest
    let e := s.core.eng
    let mn (i lo w : Nat) : Nat := (e.mn.getD i 0).toNat / 2 ^ lo % 2 ^ w
    let word (i : Nat) : Word := e.pcw.getD i 0
    let press (h : Handle) (dcur rows : Nat) : Prop := handleFault h = none ∧ (hget h .space = 1 ∨ hget h .space = 2) ∧
      hget h .ex0 ≤ 128 ∧ hscaled h = false ∧ isBytes h = false ∧ dcur + rows ≤ hget h .ex1 * hget h .ex2 * hget h .ex3
    Ready s ∧ s.preg 0 = true ∧ e.pend = none ∧ e.tokens[(15#4).toNat] ≠ 255 ∧
      pcwOk false (word (mn 8 16 4)) = true ∧ pcwOk false (word (mn 8 20 4)) = true ∧ (word (mn 8 20 4)).getLsbD 30 = true ∧
      (∀ l < 6, mn l 25 7 = 0 ∧ mn l 37 27 = 0) ∧ (∀ b ∈ [32, 33, 35, 36], mn 0 b 1 ≠ 1) ∧ (∀ l ∈ [1, 2, 3, 4, 5], mn l 34 1 ≠ 1) ∧
      mn 0 0 16 ≤ 128 ∧ mn 7 33 7 = 0 ∧ mn 8 52 12 = 0 ∧ mn 8 35 1 = 0 ∧ mn 8 15 1 = 0 ∧ mn 8 7 1 = 0 ∧ mn 1 35 1 = 1 ∧
      press (s.hreg (BitVec.ofNat 5 (mn 8 28 5))) (mn 7 40 24) s.goCmd.rowsToDrain ∧ s.goCmd.rowsToDrain = 128 ∧
      press (s.hreg 1) 0 ((127#7).toNat + 1) ∧ pcwOk true (word 0) = true := ⟨.inl rfl, by decide +kernel⟩

/-- A slot that is free because its command completed, one that follows, and one that enters behind a running command. -/
theorem wit_MatrixCommandsIssue_slots :
    let late (s : State) : State := { s with pcyc := 9 }
    (∀ a ∈ (late (slots (some (mcmd .go (.done 8))) none)).core.eng.act, a.over 9 = true) ∧
    (slots (some (mcmd .go .idle)) none).core.eng.act = some (mcmd .go .idle) ∧ (mcmd .go .idle).over 0 = false ∧
    (late (slots (some (mcmd .go (.done 8))) (some (mcmd .drn .idle)))).core.eng.act = some (mcmd .go (.done 8)) ∧
    (mcmd .go (.done 8)).over 9 = true ∧ (mcmd .drn .idle).stage = .idle ∧ (mcmd .drn .idle).kind = .drn := by
  refine ⟨fun a h => by cases h; rfl, by decide +kernel⟩

/-! ### The Y slot -/

/-- An active level and the loop buffer of two bundles. -/
def level (lc : Nat) (isR : Bool) (desc : Option Line) : LoopLvl := ⟨true, BitVec.ofNat 32 lc, 4, 1, isR, 64, 2, desc⟩

def looping (l0 l1 l2 : LoopLvl) (le : BitVec 3) : State := go (fun c => { c with
  regs := { c.regs with s := c.regs.s.set 1 (2 ^ 48 - 64) }, loops := { l0 := l0, l1 := l1, l2 := l2, buf := [], le := le } })

theorem wit_ControlTransfers : let s := looping (level 2 false none) LoopLvl.reset (level 3 true none) 0
    Ready s ∧ s.preg 0 = true ∧ s.preg 0 ≠ false ∧ (s.sreg 1).toNat % 64 = 0 ∧ (s.sreg 1).toNat < 2 ^ 48 ∧
      (0 ≤ 2 ∧ 2 < 3 ∧ (s.core.loops.at 2).active = true ∧
        ¬ ((s.core.loops.at 2).start.toNat ≤ (s.sreg 1).toNat ∧
          (s.sreg 1).toNat < (s.core.loops.at 2).start.toNat + 64 * (s.core.loops.at 2).len)) ∧
      s.core.ctl.trap = false := ⟨.inl rfl, by decide +kernel⟩

/-- A loop whose descriptor, of one delta for s5 and one for OFF of h6, stands in the heap after its bundle. -/
def descLine : Line := BitVec.ofNat 512 (5 * 2 ^ 24 + 2 ^ 30 + 2 ^ 32 * 8 + 2 ^ 64 * (2 * 2 ^ 21 + 6 * 2 ^ 24 + 2 * 2 ^ 30 + 2 ^ 32))

def described : State :=
  { go (fun c => { c with sys := heapRegs }) with mem := Memory.write [] 64 (leBytes 64 descLine.toNat) }

theorem wit_LoopsBeginAndEnd : let s := described
    Ready s ∧ s.preg 0 = true ∧ s.descLine true = some (.line descLine (some (0, 2 ^ 39 + 64))) ∧
      (∀ i < 8, (descLine.extractLsb' (64 * i) 21) = 0 ∧ (descLine.extractLsb' (64 * i + 30) 2) ≠ 3 ∧
        ((descLine.extractLsb' (64 * i + 30) 2) = 2 → (descLine.extractLsb' (64 * i + 21) 3).toNat ≤ 2)) ∧
      (2#2) ≠ 3 ∧ (s.core.loops.at 2).active = false ∧ s.core.loops.le = 0 ∧ s.core.ctl.trap = false ∧
      (254#8).toNat + 1 + 1 ≤ 256 ∧ 65535 + (7#3).toNat < 2 ^ 32 := ⟨.inl rfl, by decide +kernel⟩

theorem wit_LoopsBeginAndEnd_ends :
    (let s := looping (level 1 false none) (level 2 true (some descLine)) (level 1 true none) 7
     s.core.loops.le.getLsbD 1 = true ∧ (s.core.loops.at 1).active = true ∧ 1 < (s.core.loops.at 1).lc.toNat ∧
       ∀ j < 1, s.core.loops.le.getLsbD j = true ∧ (s.core.loops.at j).active = true → (s.core.loops.at j).lc.toNat ≤ 1) ∧
    (let s := looping (level 1 false none) (level 0 true (some descLine)) (level 1 true none) 7
     ∀ i < 3, s.core.loops.le.getLsbD i = true ∧ (s.core.loops.at i).active = true → (s.core.loops.at i).lc.toNat ≤ 1) ∧
    (core (fun c => { c with ctl := { c.ctl with g := true } })).core.ctl.g = true := by decide +kernel

/-- Task 0 alone in a gang of its own, on a core whose heap is mapped. -/
def ganged : State := tasked heaped leaf [{ task 0 0 .running with gang := [0] }]

theorem wit_WaitingOperations : let s := ganged
    Ready s ∧ s.preg 0 = true ∧ handleFault fp32 = none ∧ s.curTask = some { task 0 0 .running with gang := [0] } ∧
      s.bspTasks { task 0 0 .running with gang := [0] } .gang ≠ [] ∧ s.core.engineBusy = false ∧
      s.leafOf { task 0 0 .running with gang := [0] } = some leaf ∧ leaf.depth < 8 ∧
      (let va := 2 ^ 30 - 256
       va % 256 = 0 ∧ va < 2 ^ 48 ∧ s.core.sys.xlat.heapbase.toNat ≤ va ∧
       va < s.core.sys.xlat.heapbase.toNat + s.core.sys.xlat.heaplim.toNat ∧
       s.translate s.core.sys.xlat va .rd = .ok (2 ^ 39 + 2 ^ 30 - 256) 0 0 false ∧
       ∀ j ∈ [1, 4, 5], (s.rcbNat 0 (2 ^ 39 + 2 ^ 30 - 256) 4 4).testBit j = false) ∧
      (2 ^ 21 - 1024) % 1024 = 0 ∧ 2 ^ 21 - 1024 + 1024 ≤ s.spadb ∧ s.core.preempt = none ∧
      (core (fun c => { c with preempt := some 0 })).core.preempt ≠ none ∧ s.core.sys.asid = 0 ∧ 65536 % 64 = 0 ∧
      64 % 64 = 0 ∧ 65536 ≤ 65536 := ⟨.inl rfl, by decide +kernel⟩

theorem wit_SmallYOperations :
    let s := ganged.mc (fun c => { c with track := c.track.set 15 (some (entry true none)) })
    Ready s ∧ s.preg 0 = true ∧ s.core.track[(0#4).toNat] = none ∧ s.core.track[(15#4).toNat] = some (entry true none) ∧
      s.sreg 5 = s.sreg 6 ∧ s.sreg 5 = s.sreg 7 ∧ (240#8).toNat + (15#4).toNat ≤ 255 ∧
      (∀ j ≤ (15#4).toNat, ∀ i < 128, (s.kreg 0).getLsbD i = true →
        lane (s.arow (240 + BitVec.ofNat 8 j)) i 32 = lane (s.arow (0 + BitVec.ofNat 8 j)) i 32) ∧
      (s.sreg 0).toNat % 64 = 0 ∧ (s.sreg 0).toNat < 2 ^ 48 ∧
      (s.core.ctl.curPc + (1 : BitVec 24).signExtend 64 * 64).toNat % 64 = 0 ∧
      (s.core.ctl.curPc + (1 : BitVec 24).signExtend 64 * 64).toNat < 2 ^ 48 ∧
      (let r := { leaf with outq := 8 }
       let k := { task 0 0 .running with outLeft := 1 }
       let t := tasked heaped r [k]
       Ready t ∧ t.core.task = some 0 ∧ t.curTask = some k ∧ t.leafOf k = some r ∧ r.outq ≠ 0 ∧ k.outLeft ≠ 0 ∧
         (2 ^ 21 - 64) % 64 = 0 ∧ 2 ^ 21 - 64 + 64 ≤ t.spadb) := by
  and_intros <;> first | exact .inl rfl | decide +kernel

theorem wit_SmallYOperations_modes :
    let at_ (trap replay : Bool) : State := go (fun c =>
      { c with sys := { c.sys with trapaddr := 64 }, ctl := { c.ctl with trap := trap, replay := replay } })
    Ready (at_ false false) ∧ (at_ false false).core.sys.trapaddr ≠ 0 ∧ (at_ false false).core.ctl.trap = false ∧
      (at_ false false).core.ctl.replay = false ∧ Ready (at_ true false) ∧ (at_ true false).core.ctl.trap = true ∧
      Ready (at_ true true) ∧ (at_ true true).core.ctl.pass = .go ∧ (at_ true true).core.ctl.replay = true :=
  ⟨.inl rfl, by decide, rfl, rfl, .inl rfl, rfl, .inl rfl, rfl, rfl⟩

/-! ### Guards, faults and replay -/

theorem wit_GuardedOffOnlyOccupies : Ready State.reset ∧ guardOf (.div 1 1 2 3) = some 1 ∧ State.reset.preg 1 = false ∧
    guardOf (.xexp ⟨15, 0, .zero, 0⟩ true .w8 0) = some 15 ∧ State.reset.preg 15 = false :=
  ⟨wit_IntegerResults.1, rfl, by decide +kernel, rfl, by decide +kernel⟩

/-- Whether an outcome is a next state. -/
def nexts : Host.Outcome State Fault Refusal → Bool
  | .next _ => true
  | _ => false

theorem wit_IssueWritesNoRegisterOrByte : (go id).core.ctl.pass = .go ∧ guardOf (.sts 0 0 1 0 .d .loc 8) = some 0 ∧
    nexts (exec (.sts 0 0 1 0 .d .loc 8) (go id)) = true ∧ nexts (exec (.nop .y) (go id)) = true := by decide +kernel

/-- One conjunct for each clause: its condition at a state in which the operation stands alone. -/
theorem wit_FailingChecks :
    let alone (f : Core → Core) : State := core f
    let ctl (f : Ctl → Ctl) : State := core (fun c => { c with ctl := f c.ctl })
    let eng (f : Engines → Engines) : State := core (fun c => { c with eng := f c.eng })
    let s := alone (fun c => { c with regs := { c.regs with s := c.regs.s.set 1 1 } })
    s.core.ctl.pass = .alone ∧ s.preg 0 = true ∧ s.core.sys.trapaddr = 0 ∧ (ctl (fun k => { k with trap := true })).core.ctl.trap = true ∧
    (alone (fun c => { c with sys := { c.sys with asid := 1 } })).core.sys.asid ≠ 0 ∧
    (0 < (ctl (fun k => { k with busyS := 1 })).core.ctl.busyS) ∧
    (eng (fun e => { e with tokens := e.tokens.set 15 255 })).core.eng.tokens[(15#4).toNat] = 255 ∧
    handleFault 0 = some 2 ∧ handleFault (0x8000000000000000 - 1) = some 1 ∧
    (eng (fun e => { e with act := some (mcmd .go .idle), pend := some (mcmd .go .idle) })).core.eng.pend = some (mcmd .go .idle) ∧
    (mcmd .go .idle).over 0 = false ∧
    ((alone (fun c => { c with loops := { c.loops with l2 := level 1 false none } })).core.loops.at (2#2).toNat).active = true ∧
    255 < (241#8).toNat + (15#4).toNat ∧ s.core.ctl.trap = false ∧ (s.sreg 1).toNat % 64 ≠ 0 ∧ s.sreg 1 ≠ s.sreg 0 ∧
    (eng (fun e => { e with act := some (mcmd .go .idle) })).core.engineBusy = true ∧ s.core.eng.pend = none ∧
    pcwOk true (s.core.eng.pcw[(0#4).toNat]) = false ∧ (s.sreg 1 + (0 : BitVec 24).signExtend 64).toNat % 2 ≠ 0 ∧
    (s.sreg 0 + (2 ^ 21 : BitVec 32).signExtend 64).toNat % 8 = 0 ∧ 2 ^ 21 ≤ (s.sreg 0 + (2 ^ 21 : BitVec 32).signExtend 64).toNat ∧
    s.translate s.core.sys.xlat 0 .wr = .noLeaf ∧ s.translate s.core.sys.xlat 0 .rd = .noLeaf ∧
    (let t := alone (fun c => { c with sys := { heapRegs with heapattr := 0 } })
     t.translate t.core.sys.xlat 0 .wr = .perm ∧ t.translate t.core.sys.xlat 0 .rd = .perm) := by decide +kernel

theorem wit_FailingChecks_free : Free State.reset ∧ State.reset.core.ctl.pass = .alone := ⟨free_reset, rfl⟩

theorem wit_FailingChecks_replay :
    (owing true 0).core.ctl.pass = .alone ∧ (owing true 0).core.ctl.busyS ≤ (owing true 0).pcyc ∧
    (owing false 64).core.poison.getLsbD (rotS (owing false 64).core.sys 5).toNat = true ∧ (owing true 0).core.ctl.replay = true ∧
    (owing false 64).core.sys.rpladdr ≠ 0 ∧ (owing false 0).core.sys.rpladdr = 0 ∧
    (core (fun c => { c with marks := [.s 5] })).core.poison.getLsbD 5 = false ∧
    Mark.s (rotS SysRegs.reset 5) ∈ (core (fun c => { c with marks := [.s 5] })).core.marks := by decide +kernel

/-- A phase that may still be rolled back, or has been. -/
def phase (rolled : Bool) : Phase :=
  { pc := 0x80, regs := Regs.reset, pcw := Vector.replicate 16 0, loops := Loops.reset, rrbs := 0, rrba := 0, rrbp := 0,
    trap := false, trapRet := 0, restartable := true, rolled := rolled, inputs := [], firstCmd := 0, firstAcc := 0, written := [] }

def phased (rolled : Bool) : State :=
  (tasked State.reset leaf [task 0 0 .running]).mc (fun c => { c with phase := some (phase rolled) })

theorem wit_FaultsKillOrRollBack :
    (phased true).core.task = some 0 ∧ (phased true).task? 0 = some (task 0 0 .running) ∧ (task 0 0 .running).core = (phased true).cur ∧
    (task 0 0 .running).st = .running ∧ rollable 0x0204 = false ∧ rollable 0x0301 = true ∧ (phased true).core.canRoll none = false ∧
    (phased true).leafOf (task 0 0 .running) ≠ none ∧ (phased false).core.task = some 0 ∧
    0x0303#16 ∈ [0x0103#16, 0x0301, 0x0302, 0x0303] ∧ (phased false).core.phase = some (phase false) ∧
    (phase false).restartable = true ∧ (phase false).rolled = false ∧ (phase false).firstCmd ≤ (phased false).core.eng.nextCmd := by
  decide +kernel

/-- A record that waits for ring 0. -/
def held (ring : Byte) : Rec := ⟨ring, List.replicate 32 0, false, none, none, [], []⟩

theorem wit_FaultRecordFields :
    let s := (phased false).mhub (fun h => { h with rings := h.rings.set 0 { Ring.reset with cen := true }, recs := [held 0] })
    s.task? 0 = some (task 0 0 .running) ∧ s.leafOf (task 0 0 .running) = some leaf ∧ leaf.f.ring ≠ 255 ∧
    (s.hub.rings.getD leaf.f.ring.toNat Ring.reset).cen = true ∧ ∃ x ∈ s.hub.recs, x.ring = leaf.f.ring := by decide +kernel

/-! ### Registers, decoding and stepping -/

theorem wit_RegistersAndRotation : (47#6) < 48 ∧ (7#4) < 8 ∧ (191#8) < 192 ∧ (62#6) < 63 ∧ (14#4) < 15 ∧ (254#8) < 255 := by
  decide

theorem wit_ResultsWaitAndLand : State.reset.core.marks = [] ∧ State.reset.core.poison = 0 ∧ State.reset.core.ctl.late = [] ∧ State.reset.core.flight = [] :=
  ⟨rfl, rfl, rfl, rfl⟩

theorem wit_LandingEffects : Core.reset.marks = [] ∧ Core.reset.poison.getLsbD (63#6).toNat = false ∧
    (owing false 0).core.marks = [] ∧ (owing false 0).core.poison.getLsbD (5#6).toNat = true ∧ (8#4).toNat < 9 ∧
    (63#6 : SReg) ≠ 0 ∧ Core.reset.poison = 0 := by decide +kernel

/-- ADD of R206 in the S slot, bits 495:432 of a bundle (R173), at the PC of a task. -/
def addWord : Line := BitVec.ofNat 512 (0x040924C100000000 * 2 ^ 432)
def addSat : Instr := .add 0 .sat 9 9 12
def ready : State := State.reset.withFetchWord 512 addWord.toNat

theorem wit_DecodeInvertsEncode : addSat.wf = true ∧ guardOf addSat ≠ none ∧ encode addSat = some addWord := by decide +kernel

def after (o : Host.Outcome State Fault Refusal) (s : State) : State :=
  match o with
  | .next t => t
  | _ => s

theorem wit_StepRunsTheDecodedBundle :
    let s := ready
    let turn := s.mc (fun c => { c with ctl := { c.ctl with turn := s.pcyc + 1 } })
    let up := (turn.fetched s.core.ctl.pc.toNat (.line addWord (some (1, 0)))).mc (fun c => { c with ibuf := c.buffered c.ctl.pc addWord })
    let pass (t : State) (p : Pass) : State := t.mc (fun c => { c with ctl := { c.ctl with pass := p } })
    let x := exec addSat (pass (up.mc (fun c => c.comeUp addWord)) .static)
    let a := after x s
    let b := after (exec addSat (pass a .scalar)) s
    s.agenda = [] ∧ s.coreNow = none ∧ s.core.ctl.turn ≤ s.pcyc ∧ s.core.mode = .running ∧ s.core.ctl.wait = none ∧
      s.core.ctl.replay = false ∧ s.core.ctl.ready ≤ s.pcyc ∧ decodeOne addWord = some addSat ∧ isNop addSat = false ∧
      turn.bundleAt = .line addWord (some (1, 0)) ∧ up.breaks addWord = false ∧ up.heldBack [addSat] = false ∧
      nexts x = true ∧ a.core.ctl.found = [] ∧ a.core.owedReads = [] ∧ a.core.consumed = [] ∧
      a.bundleFaults addWord [addSat] (a.core.isMark addWord) = [] ∧ nexts (exec addSat (pass a .scalar)) = true ∧
      b.core.ctl.found = [] := by decide +kernel

theorem xlCheck_ne_uncorr (pa ea : Dpa) (g ap : BitVec 2) (rap : Bool) : xlCheck pa g ap rap ≠ .uncorr ea := by
  unfold xlCheck; split <;> simp

/-- Nothing is amiss with the memory dies: no unit is poisoned or in error, none was written yet, no far die is lost. -/
structure Fine (s : State) : Prop where
  poison : s.poison = []
  flips : s.flips = []
  codes : s.codes = []
  lostFar : s.hub.lostFar = 0

theorem fine_unit {s : State} (h : Fine s) (g : BitVec 2) (u : Dpa) : s.unitBad g u = false := by
  unfold State.unitBad
  split
  · simp [State.quiet, State.ownCode, h.poison, h.flips, h.codes, Memory.get]
  · rfl

theorem walk_ne_uncorr {s : State} (h : Fine s) (va : Nat) (ea : Dpa) :
    ∀ (lvl : Nat) (t : Dpa), s.walk va lvl t ≠ .stop (.uncorr ea) := by
  have far (d : Dpa) : s.farLost d = false := by simp [State.farLost, h.lostFar]
  intro lvl
  induction lvl with
  | zero => intro t; unfold State.walk; simp only [far, fine_unit h]; repeat' split
            all_goals simp_all
  | succ n ih =>
    intro t; unfold State.walk; simp only [far, fine_unit h]; repeat' split
    all_goals first | exact ih _ | simp_all

theorem leafXl_ne_uncorr (s : State) (sec : Bool) (va : Nat) (kind : AKind) (lvl : Nat) (e : Word) (ea : Dpa) :
    s.leafXl sec va kind lvl e ≠ .uncorr ea := by
  unfold State.leafXl; dsimp only; repeat' split
  all_goals simp [xlCheck_ne_uncorr]

/-- With nothing amiss no translation meets an uncorrectable entry (R430). -/
theorem translate_ne_uncorr {s : State} (h : Fine s) (x : XlatRegs) (va : Nat) (kind : AKind) (ea : Dpa) :
    s.translate x va kind ≠ .uncorr ea := by
  unfold State.translate
  split
  · simp
  · split
    · dsimp only; repeat' split
      all_goals simp [xlCheck_ne_uncorr]
    · split
      · exact leafXl_ne_uncorr _ _ _ _ _ _ _
      · split
        · rename_i h'; intro e; exact walk_ne_uncorr h va ea 2 _ (e ▸ h')
        · exact leafXl_ne_uncorr _ _ _ _ _ _ _

theorem wit_BundlesCheckFetchAndEnd :
    let pass (p : Pass) : State := core (fun c => { c with ctl := { c.ctl with pass := p } })
    encodeSlot addSat ≠ none ∧ nexts (exec addSat (pass .static)) = true ∧ (pass .static).core.ctl.pass = .static ∧
      nexts (exec addSat (pass .scalar)) = true ∧ (pass .scalar).core.ctl.pass = .scalar ∧
      State.reset.core.loops.le = 0 ∧ State.reset.core.preempt = none ∧
      (let s := ready
       s.core.loops.any = false ∧ s.core.ibuf = [] ∧
         s.translate s.core.sys.xlat s.core.ctl.pc.toNat .rd = .ok 0 1 0 false ∧ dieCode 0 ≤ 12 ∧ nodeOf 0 = s.fab.node ∧
         s.homeRefuses s.core.sys.sec .rd 1 0 64 = none ∧ s.lineAway 0 64 = false ∧ Sound s 1 0 64 ∧ offOf 0 + 64 ≤ 2 ^ 39) ∧
      (∀ i ∈ [addSat, .nop .s], ready.owes i = none) ∧
      (State.mfab ready (fun f => { f with owned := [⟨0, some 1, 1, [], false⟩] })).lineAway 0 64 = true ∧
      State.reset.translate State.reset.core.sys.xlat 0 .rd = .noLeaf ∧
      (core (fun c => { c with sys := { heapRegs with heapattr := 0 } })).translate
        { heapRegs.xlat with heapattr := 0 } 0 .rd = .perm := by
  simp only [Sound]; and_intros <;> decide +kernel

theorem wit_BundlesCheckFetchAndEnd_scalar (x : XlatRegs) (va : Nat) (kind : AKind) (ea : Dpa) :
    State.reset.translate x va kind ≠ .uncorr ea := translate_ne_uncorr ⟨rfl, rfl, rfl, rfl⟩ _ _ _ _

theorem wit_StepKeepsMemoryCanonical : MemOk ready ∧ nexts (step ready) = true ∧ MemOk State.reset := by
  simp only [MemOk]; decide +kernel

theorem wit_MemoryOperationsKeepTheForm : Memory.wf [(3, 1), (4, 2)] = true ∧ Memory.wf (Memory.write [] 3 [1, 2]) = true := by
  decide +kernel

/-! ### Events of a core -/

/-- A running core that waits. -/
def waiting (w : Wait) (f : Core → Core) : State :=
  core (fun c => { f c with mode := .running, ctl := { (f c).ctl with wait := some w } })

theorem wit_WaitsEnd :
    let m : BitVec 16 := 0xFFFF
    let a := acc .w home (.store [1]) false
    let clear (s : State) : Bool := (List.range 16).all (fun t => decide (s.core.eng.tokens.getD t 0 = 0))
    let s := waiting (.waite m) id
    let busy := waiting (.waite m) (fun c => { c with eng := { c.eng with tokens := c.eng.tokens.set 3 1 }, pend := [a] })
    s.core.mode = .running ∧ s.core.ctl.late = [] ∧ s.core.ctl.wait = some (.waite m) ∧ clear s = true ∧ clear busy = false ∧
    (s.core.eng.cq = [] ∧ s.core.eng.act = none ∧ s.core.eng.pend = none ∧ s.core.pend = [] ∧ s.core.port = []) ∧
    a ∈ busy.core.pend ∧ a.task = busy.core.task ∧ m.getLsbD a.cls.toNat = true ∧ a.op.isWrite = true ∧ a.slot ≠ .c ∧
    a.tgt = .dpa (2 ^ 39) 0 ∧ nodeOf (2 ^ 39) = busy.fab.node ∧ dieCode (2 ^ 39) ≠ 13 ∧ s.core.flight = [] ∧
    (let p := waiting (.probe (2 ^ 18 - 1) 2 .wr false) (fun c => { c with sys := heapRegs })
     p.translate p.core.sys.xlat (2 ^ 18 - 1) .wr = .ok (2 ^ 39 + 2 ^ 18 - 1) 0 0 false ∧
       (2 ^ 18 - 1) / 2 ^ 18 + 1 = 1 ∧ 2 ^ 18 - 1 + 1 ≤ 2 ^ 18 ∧ 2 ^ 18 < 2 ^ 18 - 1 + 2) ∧
    (waiting (.dictld true) (fun c => { c with curd := { c.curd with load := List.replicate 1024 7 } })).core.curd.load.length = 1024 ∧
    (waiting (.dictld true) id).core.curd.load.length < 1024 ∧ s.parked = [] ∧ 0 < { a with born := 1 }.born ∧ a.born ≤ 0 ∧
    s.core.preempt = none ∧ (waiting (.qpt 1) (fun c => { c with preempt := some 0 })).core.preempt ≠ none ∧
    s.core.eng.shadow = [] ∧ s.hub.saves = [] ∧
    (let v : Via := ⟨0, 4, 0, 0⟩
     let x := { acc .c home (.published [(1, 0xFF)] ⟨0, 0, 0, ⟨0, 0, 0, 0, 0, 0, 0, 0, 0, 0, false, none⟩, none, none⟩ 0 (some v)) true with
       born := 1 }
     v.at_ ≤ 0 ∧ v.named .page (2 ^ 20 + 7) 0 = true ∧ v.named .asid 0 1 = false ∧ 0 < x.born) ∧
    (let b := waiting (.sent none) (fun c => { c with
      pend := [acc .c home (.published [(1, 0xFF)] ⟨0, 0, 0, ⟨0, 0, 0, 0, 0, 0, 0, 0, 0, 0, false, none⟩, none, none⟩ 0 none) false] })
     ∃ x ∈ b.core.pend, x.task = b.core.task ∧ (match x.op with | .published .. => true | _ => false) = true) ∧
    s.hub.stops = [] ∧ (waiting (.ldw 0) (fun c => { c with ldwReply := some (0, 0, 1) })).core.ldwReply ≠ none ∧
    s.core.ldwReply = none ∧ (∀ i : Fin 16, s.core.track[i] = none) := by decide +kernel

/-- A late load of s5 with its reply, or without, in a core that waits; and an input command of a rollback. -/
theorem wit_WaitsEnd_replies :
    (∀ w ∈ [Wait.rpl, .hold [5]],
      let s := waiting w (fun c => { c with poison := 32, track := c.track.set 15 (some (entry true (some (0, 7)))) })
      s.core.track[15] = some (entry true (some (0, 7))) ∧ s.core.poison.getLsbD (entry true none).reg.toNat = true ∧
        (∀ i : Fin 16, i ≠ 15 → s.core.track[i] = none) ∧
        (waiting w (fun c => { c with track := c.track.set 15 (some (entry true none)) })).core.track[15] = some (entry true none)) ∧
    (entry true none).late = true ∧ (entry true none).drop = false ∧ (entry true none).reg ≠ 0 ∧ (entry true none).reply = none ∧
    (entry true none).reg ∈ [(5 : SReg)] := by decide +kernel

/-- A copy command of 64 bytes within the scratchpad. -/
def ccmd (op : CopyOp) (hold : CopyHold) (pos : Nat) : CopyCmd :=
  { id := 0, op := op, cls := 0, tok := 0, hd := bytes64, hs := handle 1 15 64 1 0 0, hr := 0, hc := 0, rm := .rne, sat := false,
    comp := false, oc4 := 1, oc5 := 1, ds4 := 0, dd4 := 0, ds5 := 0, dd5 := 0, pos := pos, xl := SysRegs.reset.xlat,
    bank := false, cidx := 0, pc := 0, btag := 0, hold := hold, acc := 0, born := 0, fl := 0 }

def copying (q : CopyCmd) : State := core (fun c => { c with mode := .running, eng := { c.eng with cq := [q] } })

theorem wit_WaitsEnd_rollback : (waiting (.rollback [0]) id).core.eng.cq = [] ∧
    (let q := ccmd .cpy .run 0
     let s := waiting (.rollback [0]) (fun c => { c with eng := { c.eng with cq := [q] } })
     s.core.eng.cq = [q] ∧ q.id ∈ [0] ∧ q.hold ≠ .restart) ∧
    (let q := ccmd .cpy .run 0
     let s := waiting (.fence 1 .core) (fun c => { c with eng := { c.eng with cq := [q] } })
     s.core.eng.cq = [q] ∧ (1 : BitVec 16).getLsbD q.cls.toNat = true ∧ 0 < q.total - q.pos ∧ 0 ∈ s.copyLevels q q.pos) := by
  decide +kernel

def ending : State := (tasked State.reset leaf [task 0 0 .running]).mc (fun c => { c with ctl := { c.ctl with wait := some .endT } })

theorem wit_WaitsEnd_task : ending.core.mode = .running ∧ ending.core.ctl.late = [] ∧ ending.core.ctl.wait = some .endT ∧
    ending.core.task = some 0 ∧ ending.core.preempt = none ∧ ending.task? 0 = some (task 0 0 .running) ∧ (task 0 0 .running).core = ending.cur ∧
    (∀ i : Fin 16, ending.core.eng.tokens[i] = 0) ∧ (∀ i : Fin 16, ending.core.track[i] = none) ∧ ending.core.pend = [] ∧
    ending.core.port = [] ∧ ending.core.eng.shadow = [] ∧ ending.core.eng.complete = [] := by decide +kernel

/-- Two bytes that a complete command has written to memory, not yet published. -/
def unpublished : State := waiting (.publish 1) (fun c => { c with eng := { c.eng with
  complete := [⟨7, 0, 0, ⟨0, 0, 10, 0, 0, 0, 0, 0, 0, 0, false, none⟩, none, none⟩]
  shadow := [shadowOf 7 0 ⟨.mem, 5⟩ 1 0xFF .plain 0, shadowOf 7 1 ⟨.mem, 6⟩ 2 0xFF .plain 0] } })

theorem wit_PublicationStores : let s := unpublished
    s.core.mode = .running ∧ s.core.ctl.late = [] ∧ s.core.ctl.wait = some (.publish 1) ∧
    (∀ t : Fin 16, s.core.eng.tokens[t.val] = 0) ∧ s.core.pend = [] ∧ s.core.port = [] ∧ s.poison = [] ∧ s.flips = [] ∧
    s.host.unpub = [] ∧ s.host.wrote = [] ∧ (∀ i : Fin 64, s.host.windows[i].en = false) ∧ s.core.eng.shadow ≠ [] ∧
    (∀ w ∈ s.core.eng.shadow, w.m = 0xFF ∧ w.pl.sp = .mem ∧ w.g = 0 ∧ w.core = s.cur ∧
      s.ownCode 0 (unitAt 0 w.pl.addr) = true ∧ s.keyLost w.pl.addr = false ∧ ∃ d ∈ s.core.eng.complete, d.id = w.cmd) ∧
    (s.core.eng.shadow.map (fun w => w.pl.addr)).Nodup ∧ s.mem.wf = true ∧ s.fab.owned = [] ∧
    (let o : Owned := ⟨2 ^ 39, some 1, 0, [], false⟩
     o.owner ≠ none ∧ ∃ w ∈ s.core.eng.shadow, w.pl.addr ∈ keysOf o.g (BitVec.ofNat 53 o.dpa) 64) := by decide +kernel

def barrier (peers : List Nat) : State :=
  (tasked State.reset leaf [{ task 0 0 .running with gang := peers }, task 1 1 .running]).mc (fun c =>
    { c with ctl := { c.ctl with wait := some (.bsp .gang) } })

/-- A bundle with BRK (R381). -/
def brkLine : Line := BitVec.ofNat 512 (2 ^ 507)

theorem wit_StopsAndReleases :
    (let s := barrier [0, 1]
     s.curTask = some { task 0 0 .running with gang := [0, 1] } ∧ 1 ∈ s.bspTasks { task 0 0 .running with gang := [0, 1] } .gang ∧
       s.arrived .gang (s.core.bsps.getD (scopeIx .gang) 0) 1 = false) ∧
    (let s := barrier [0]
     let t := { task 0 0 .running with gang := [0] }
     s.curTask = some t ∧ s.bspTasks t .gang = [t.id] ∧ s.task? t.id = some t ∧ t.core = s.cur ∧ t.st = .running ∧
       s.core.task = some t.id ∧ s.core.mode = .running ∧ s.core.ctl.wait = some (.bsp .gang) ∧ s.core.engineBusy = false ∧
       s.core.pend = [] ∧ s.core.port = [] ∧ s.core.eng.shadow = [] ∧ s.core.eng.complete = [] ∧ s.poison = [] ∧
       s.host.unpub = [] ∧ s.host.wrote = []) ∧
    (let s := (core (fun c => { c with mode := .running, ibuf := [(0, brkLine)] })).mhub (fun h => { h with dbgEn := true })
     s.core.mode = .running ∧ s.core.ctl.wait = none ∧ s.bundleAt = .line brkLine none ∧ s.hub.dbgEn = true ∧
       s.core.sys.asid = s.hub.dbgAsid ∧ s.core.ctl.pc ∉ s.core.ctl.brkDone ∧ brkLine.getLsbD 507 = true ∧ addWord.getLsbD 507 = false) ∧
    (waiting .brk id).core.ctl.wait = some .brk ∧
    (let s := (waiting .halt id).mhub (fun h => { h with stops := [(0, 0, 0)] })
     (0#9).toNat = s.cur ∧ s.core.ctl.wait = some .halt ∧ (∃ p ∈ s.hub.stops, p.1 = s.cur) ∧
       ∀ p ∈ (waiting .halt id).hub.stops, p.1 ≠ s.cur) := by decide +kernel

/-! ### Events of the hub -/

/-- An RCB of a leaf of one task at near die 1, under R35: word 0, then its other fields. -/
def rcb (w0 : Nat) : Memory := at1 [(0, w0), (0x18, 1 + 2 ^ 20 * 4096), (0x20, 2 ^ 18 * 1024), (0x30, 2 * 255),
  (0x38, 16 * 15 + 2 ^ 13), (0x48, 2 ^ 30), (0x50, 2 ^ 39), (0x58, 0x38), (0x68, 2 ^ 16 + 2 ^ 32 + 2 ^ 48), (0x70, 1),
  (0x90, 0x40)]

/-- A packet for it, or for a root that is not aligned, with no deadline and ring 255. -/
def packet (root : Nat) : Line := BitVec.ofNat 512 (root + 2 ^ 64 * (2 ^ 64 - 1) + 2 ^ 144 * 255)

def booted : State := { (State.reset.mhub (fun h => { h with stage := 5 })).mhost (fun h => { h with up := true }) with mem := rcb 0 }

def rootAt (p : Nat) : RAt := ⟨p, none, some (0, false), 2, 1, none, Force.top, Force.top⟩

def spawning : State := (tasked { State.reset with mem := rcb (2 ^ 32 * 0x3CD) } leaf [task 0 0 .running]).mc (fun c =>
  { c with sys := heapRegs, ctl := { c.ctl with wait := some (.spawn (2 ^ 39)) } })

theorem wit_LaunchesEnter :
    State.reset.hub.stage ≠ 5 ∧ State.reset.host.up = false ∧ booted.hub.stage = 5 ∧ booted.hub.pst = 0 ∧ booted.hub.fatal = false ∧
    booted.host.up = true ∧ booted.treeAway (booted.readTree 0 8 [rootAt (2 ^ 39)] 0) = [] ∧
    booted.treeAway (booted.readTree 0 8 [rootAt (2 ^ 39 + 64)] 0) = [] ∧
    ((packet (2 ^ 39)).extractLsb' 0 53).toNat = 2 ^ 39 ∧
    booted.launchCheck 0 true (booted.readTree 0 8 [rootAt (2 ^ 39)] 0) = none ∧
    booted.launchCheck 0 true (booted.readTree 0 8 [rootAt (2 ^ 39 + 64)] 0) ≠ none ∧
    ((packet (2 ^ 39 + 255)).extractLsb' 0 53).toNat % 256 ≠ 0 ∧ (booted.readNode 0 (rootAt (2 ^ 39)) 0).f.asid ≠ 0 := by
  decide +kernel

theorem wit_LaunchesEnter_spawn : let s := spawning
    s.core.mode = .running ∧ s.core.ctl.late = [] ∧ s.core.ctl.wait = some (.spawn (2 ^ 39)) ∧
    s.curTask = some (task 0 0 .running) ∧ s.leafOf (task 0 0 .running) = some leaf ∧ s.spawnedOpen < 4096 ∧
    (let nodes := s.readTree 0 8 [⟨2 ^ 39, none, none, 2, leaf.depth + 1, none, leaf.f, leaf.f⟩] 1
     s.treeAway nodes = [] ∧ s.launchCheck 0 false nodes = none) := by
  decide +kernel

/-- A leaf of which nothing has started. -/
def fresh : Region := { leaf with next := 0, tstart := 0, st := 0 }

def launched (u : Region) : State := State.reset.mhub (fun h => { h with stage := 5, regs := [u] })

theorem wit_DispatchStartsTasks : let s := launched fresh
    State.reset.hub.stage ≠ 5 ∧ s.hub.stage = 5 ∧ s.hub.pst = 0 ∧ s.hub.fatal = false ∧ s.idle 511 = true ∧ s.order.head? = some fresh ∧
    s.region? fresh.id = some fresh ∧ fresh.kind = 0 ∧ fresh.stage = none ∧ fresh.inq = 0 ∧ fresh.outq = 0 ∧
    fresh.together = false ∧ fresh.f.gang = 0 ∧ s.startOf fresh 511 = some (fresh, [511]) ∧ s.pastDue fresh = false ∧
    fresh.id ∉ (s.chain 8 fresh.id).tail ∧ fresh.next % fresh.f.ext0 < 2 ^ 16 ∧ (s.getCore 511).lastAsid ≠ some fresh.f.asid ∧
    (State.getCore { s with core := { s.core with lastAsid := some 0 } } 0).lastAsid = some fresh.f.asid ∧
    (s.getCore 511).spad.wf = true ∧ (s.getCore 511).side.wf = true ∧ s.task? s.hub.tasks.length = none ∧
    (tasked State.reset leaf [task 0 0 .running]).idle 0 = false ∧
    (s.mhub (fun h => { h with fatal := true })).hub.fatal = true := by decide +kernel

theorem wit_LateUnitsAndEntries :
    let u := { fresh with effdl := 0 }
    let s : State := { launched u with dsub := 189 }
    let q : Queue := { desc := 2 ^ 39, logcap := 2, qbase := 2 ^ 39 + 64, tail := 1, slots := [(0, .filled 0 1 1)] }
    s.region? 0 = some u ∧ u.kind = 0 ∧ u.stage = none ∧ u.effdl < s.ns ∧ u.effdl ≠ 2 ^ 64 - 1 ∧ u.late = false ∧ u.st ≠ 3 ∧
    u.tstart = 0 ∧ u.cil = false ∧ { u with cil := true }.cil = true ∧ (launched fresh).ns ≤ fresh.effdl ∧
    (let t := s.mhub (fun h => { h with queues := [q] })
     t.hub.queues = [q] ∧ q.slots = [(0, .filled 0 1 1)] ∧ t.hub.regs.all (fun r => decide (r.inq ≠ q.desc)) = true ∧
       (∀ k ∈ t.core :: t.parked.map Prod.snd ++ t.hub.saves.map Saved.image, k.doneBefore 0 1 1 = true) ∧
       nodeOf (BitVec.ofNat 53 (q.desc + 16)) = t.fab.node ∧ t.farLost (BitVec.ofNat 53 (q.desc + 16)) = false ∧
       t.lineAway (BitVec.ofNat 53 (q.desc + 16)) 8 = false ∧
       t.fab.patches = []) ∧
    (let t := tasked State.reset leaf [task 0 0 .running]
     t.core.task = some 0 ∧ (shadowOf 0 0 ⟨.mem, 5⟩ 1 0xFF .plain 0).cmd < 1) ∧
    (let a := { acc .w home (.store [1]) false with task := some 0 }
     a.task = some 0 ∧ a.id ≤ 1) := by decide +kernel

/-- The only secure cluster runs one task on its only core that is not retired, and an earlier secure unit waits. -/
def wanted : State :=
  let f := { force with sec := true }
  { (tasked State.reset { leaf with f := f } [task 0 0 .running]).mhub (fun h =>
      { h with seccl := 1, regs := h.regs ++ [{ fresh with id := 1, f := { f with prio := 7 } }] }) with
    parked := (List.range 63).map (fun i => (i + 1, { Core.reset with retired := true })) }

theorem wit_PreemptionSavesAndResumes : let s := wanted
    s.task? 0 = some (task 0 0 .running) ∧ (task 0 0 .running).peers = [] ∧
    s.leafOf (task 0 0 .running) = some { leaf with f := { force with sec := true } } ∧ State.reset.mayPreempt 0 = false ∧
    s.mayPreempt (0#9).toNat = true ∧ (s.getCore (0#9).toNat).task = some 0 ∧ (task 0 0 .running).core = (0#9).toNat ∧
    (task 0 0 .running).st = .running ∧ s.core.mode ≠ .halted := by decide +kernel

def halting : State := (tasked State.reset leaf [task 0 0 .halting]).mc (fun c => { c with mode := .halted, preempt := some 0 })

def savedTask : Saved := ⟨0, 0, 0, halting.core⟩

/-- A module in which task 0 is saved. -/
def resuming : State :=
  State.reset.mhub (fun h => { h with stage := 5, regs := [leaf], tasks := [task 0 0 .saved], saves := [savedTask] })

theorem wit_PreemptionSavesAndResumes_saved : let s := halting
    (s.task? 0 = some (task 0 0 .halting) ∧ s.leafOf (task 0 0 .halting) = some leaf ∧ s.core.mode = .halted ∧ s.core.flight = [] ∧
    s.core.pend = [] ∧ s.core.port = [] ∧ s.core.pressIdle = true ∧ s.core.rolling = false ∧ s.core.marks = [] ∧ s.core.task = some 0 ∧
    s.core.eng.blk.bad = false ∧ s.core.eng.standby.bad = false ∧ s.core.spad.wf = true ∧ s.core.side.wf = true ∧ s.mem.wf = true) ∧
    Sound s 1 (s.saveArea s.cur (s.freeDepth s.cur)) 2621440 ∧ State.reset.core.mode ≠ .halted :=
  ⟨by decide +kernel, sound_clean rfl rfl rfl _ _ _, by decide⟩

theorem wit_PreemptionSavesAndResumes_resumed : let s := resuming
    let t : State := s.mc (fun c => { c with mode := .resuming, task := some 0 })
    s.task? 0 = some (task 0 0 .saved) ∧ s.leafOf (task 0 0 .saved) = some leaf ∧ s.core.mode ≠ .resuming ∧
    s.savedOn s.cur = [savedTask] ∧ savedTask.task = 0 ∧ s.resumable savedTask = true ∧ State.reset.hub.saves = [] ∧
    t.core.mode = .resuming ∧ t.core.task = some 0 ∧ t.savedOn t.cur = [savedTask] ∧
    t.farLost (t.saveArea t.cur savedTask.depth) = false ∧ t.badIn 1 (t.saveArea t.cur savedTask.depth) 2621440 = none ∧
    t.core.spad.wf = true ∧ t.core.side.wf = true ∧ savedTask.image.spad = [] ∧ savedTask.image.side = [] := by
  and_intros <;> first | rfl | decide +kernel

/-- Ring 0 with one record due, and one pending of a limit of two. -/
def ringed (g : Ring) (l : List Rec) : State :=
  (State.reset.mhub (fun h => { h with rings := h.rings.set 0 g, recs := l })).mhost (fun h => { h with up := true })

theorem wit_CompletionAndRings :
    (let s := launched leaf
     s.region? 0 = some leaf ∧ leaf.kind = 0 ∧ leaf.stage = none ∧ leaf.inq = 0 ∧
       leaf.f.ext0 * leaf.f.ext1 * leaf.f.ext2 ≤ leaf.next ∧ leaf.st ≠ 3 ∧ s.hub.tasks = [] ∧
       ∀ y ∈ s.hub.regs, y.spawner ≠ some 0) ∧
    (let s := (phased false)
     s.region? 0 = some leaf ∧ ∃ t ∈ s.hub.tasks, t.region = 0 ∧ t.st.live = true) ∧
    (let g := { Ring.reset with ccnt := 2, cen := true }
     let s := ringed g [held 0]
     s.farLost (s.fab.node ++ (dpaAdd g.cbase 0).extractLsb' 0 43) = false ∧
     s.lineAway (s.fab.node ++ (dpaAdd g.cbase 0).extractLsb' 0 43) 32 = false ∧ (launched leaf).hub.stage = 5 ∧
     s.hub.recs = [held 0] ∧ (held 0).bytes.length = 32 ∧ 1 ≤ 2 ^ g.clog.toNat - (g.chead - g.ctail).toNat ∧
       dieCode g.cbase ≠ 13 ∧ g.pending + 1 < g.ccnt.toNat ∧ (∀ y ∈ s.hub.recs, y.ring = 0 → y.service = none) ∧
       s.hub.services = [] ∧ State.reset.hub.recs = []) ∧
    (let g := { Ring.reset with pending := 1, first := ⟨5, 0, 2⟩, last := ⟨5, 0, 2⟩ }
     (ringed g []).host.up = true ∧ g.cdev = false ∧ 0 < g.pending ∧ g.first.time ≠ 0 ∧
       g.oldest + g.first.time.toNat ≤ State.ns { ringed g [] with dsub := 189 * 5 } ∧ g.pending < g.last.cnt.toNat ∧
       (ringed g []).ns < g.oldest + g.first.time.toNat ∧ { g with last := ⟨5, 0, 1⟩ }.last.cnt.toNat ≤ g.pending) ∧ (254#8 : Byte) ≠ 255 := by decide +kernel

/-! ### Events of the engines -/

/-- A running core whose active matrix command is m. -/
def pressing (m : MCmd) (f : Engines → Engines) : State :=
  core (fun c => { c with mode := .running, eng := { f c.eng with act := some m } })

/-- A command that takes a block at each leaf of level 1. -/
def loads : MCmd := { mcmd .go .idle with mn := (mcmd .go .idle).mn.set 1 (1 + 2 ^ 32), last := 0 }

def arow : ARow := ⟨[0], [0], [0], 0, 0, false⟩
def block : Block := { Block.zero with k := 1, n := 1, size := 1, codes := [0], scales := [0], mus := [0] }

theorem wit_MatrixEngineSteps :
    let s := pressing (mcmd .go .idle) id
    s.core.mode = .running ∧ s.core.eng.act = some (mcmd .go .idle) ∧ s.core.marks = [] ∧ s.core.phase = none ∧
    (mcmd .go .idle).inside = true ∧ { mcmd .go .idle with x := Vector.replicate 6 1 }.inside = false ∧
    loads.inside = true ∧ loads.taken < loads.ldws ∧ s.core.eng.standbyLoaded = false ∧ loads.last < 1 ∧
    (let p := pressing loads (fun e => { e with standbyLoaded := true, standby := block })
     p.core.eng.standbyLoaded = true ∧ p.core.eng.standbyAt < State.pcyc { p with pcyc := 1 }) ∧
    (mcmd .go .idle).ldws ≤ (mcmd .go .idle).taken ∧
    { mcmd .go .idle with mn := (mcmd .go .idle).mn.set 0 (1 + 2 ^ 34) }.bit 0 34 = true ∧
    (let m := { mcmd .go (.pass 1 8 9) with toEnter := 1, mn := (mcmd .go .idle).mn.set 0 (1 + 2 ^ 34) }
     let t := pressing m (fun e => { e with afifo := [arow] })
     m.stage = .pass 1 8 9 ∧ 0 < m.toEnter ∧ m.enterAt ≤ t.pcyc ∧ m.pcw.getLsbD 30 = false ∧ t.core.eng.afifo = [arow] ∧
       (pressing m id).core.eng.afifo = [] ∧ { m with pa := 0x40000021, pb := 0x40000021 }.pcw.getLsbD 30 = true ∧
       { m with toEnter := 0 }.toEnter = 0 ∧ t.pcyc < 9) ∧
    (let m := { mcmd .go (.pass 1 8 0) with inArray := [.fifo arow], mn := (mcmd .go .idle).mn.set 0 (1 + 2 ^ 34) }
     let t := pressing m (fun e => { e with blk := block })
     m.stage = .pass 1 8 0 ∧ m.toEnter = 0 ∧ 0 ≤ t.pcyc ∧ t.rowError m (m.rowAt (m.xAt 0)) = none ∧ m.leaving.isSome = true ∧
       t.core.eng.residue = false ∧ m.drains = [] ∧ m.n ≤ 128 ∧ m.reads = []) ∧
    ({ mcmd .zero .idle with rows := [255] }.rows = [255]) ∧ (mcmd .zero .idle).kind = .zero ∧ (mcmd .swap .idle).kind = .swap ∧
    loads.ldwAhead = true ∧ (pressing loads (fun e => { e with bfifo := [block] })).core.eng.bfifo = [block] ∧
    (pressing loads (fun e => { e with loading := some 3 })).core.eng.loading = some 3 ∧ block.bad = false ∧ s.core.eng.loading = none ∧
    (let m := { mcmd .drn .drained with reads := [(0, 0)] }
     m.writes = [] ∧ m.reads = [(0, 0)]) ∧
    (let m := { mcmd .drn .drained with writes := [(0, 1)] }
     m.writes = [(0, 1)] ∧ m.dcur = 0 ∧ hfmt m.hd = some .fp32 ∧ hget m.hd .space = 1 ∧ hget m.hd .lay = 0 ∧ hget m.hd .curd = 0 ∧
       hget m.hd .off = 0 ∧ hget m.hd .base + 4 * hget m.hd .ex0 ≤ 2 ^ 21 ∧ s.dieReply s.cur = none) ∧
    (mcmd .go .drained).stage = .drained ∧ (mcmd .go .drained).reads = [] ∧ (mcmd .go .drained).writes = [] ∧
    (mcmd .go (.done 0)).stage = .done 0 ∧
    (pressing (mcmd .go (.done 0)) (fun e => { e with pend := some (mcmd .had .idle) })).core.eng.pend = some (mcmd .had .idle) ∧
    (mcmd .had .idle).kind ≠ .drn ∧ (mcmd .drn .idle).kind = .drn ∧ s.core.eng.shadow = [] := by and_intros <;> decide +kernel

theorem wit_CopyEngineSteps :
    let q := ccmd .cpy .run 0
    let s := copying q
    let rows (h : Handle) : Prop := hfmt h = some .n8 ∧ hget h .space = 1 ∧ hget h .lay = 0 ∧ hget h .curd = 0 ∧
      hget h .off = 0 ∧ hget h .ex1 = 1 ∧ hget h .ex2 = 1 ∧ hget h .ex3 = 1 ∧ hget h .base + hget h .ex0 ≤ 2 ^ 21
    s.core.mode = .running ∧ s.core.eng.cq = [q] ∧ q.op = .cpy ∧ q.comp = false ∧ q.hold = .run ∧ rows q.hs ∧ rows q.hd ∧
    hget q.hs .ex0 = hget q.hd .ex0 ∧ q.pos < hget q.hd .ex0 ∧ s.core.eng.shadow = [] ∧ s.core.marks = [] ∧ s.core.pend = [] ∧
    s.core.port = [] ∧ s.dieReply s.cur = none ∧
    (∀ i < hget q.hd .ex0, s.core.curd.plain ((hget q.hs .base + i) / 4096) = true) ∧
    (ccmd (.cmig 0 0 true 0) .run 0).op = .cmig 0 0 true 0 ∧ (ccmd .cpy .run 64).total ≤ (ccmd .cpy .run 64).pos ∧
    q.pos < q.total ∧ (ccmd (.cred 0 5 true) .slot 0).hold = .slot ∧ s.pcyc < (5 : Word).toNat := by decide +kernel

/-! ### Migration -/

/-- A page table of three levels for VA 0 at near die 1, whose leaf is frame 0 of near die 2 (entry bits as R76). -/
def table (leaf : Nat) : Memory := at1 [(2 ^ 13, 1 + (2 ^ 39 + 2 ^ 14)), (2 ^ 14, 1 + (2 ^ 39 + 2 ^ 15)), (2 ^ 15, leaf)]

def migReq (who : MigWho) : MigReq :=
  { who := who, ptroot := 2 ^ 39 + 2 ^ 13, va := 0, far := true, gran := 0, relay := false, asid := 0, inHeap := false, quota := 0 }

def mig (st : MigState) : Mig :=
  { engine := 0, leaf := 2 ^ 39 + 2 ^ 15, old := 2 ^ 40, new := 9 * 2 ^ 39, gran := 0, oldG := 0, relay := false, who := .host 3,
    asid := 0, st := st }

/-- A module with one request or move, and one frame in the far pool of engine 0. -/
def migrating (q : List MigReq) (m : List Mig) (leaf : Nat) : State :=
  { State.reset.mhub (fun h =>
      { h with stage := 5, migq := q, migs := m, pools := h.pools.set 1 { Pool.reset with rbase := 2 ^ 39, tail := 1 } }) with
    mem := table leaf }

theorem wit_MigrationMovesPages :
    let s := migrating [] [] 0
    let w : Word := 2 ^ 17
    let full : State := s.mhub (fun h => { h with pools := h.pools.set 7 { Pool.reset with tail := 16 } })
    let ours (t : State) (a : Dpa) : Prop := nodeOf a = t.fab.node ∧ t.farLost a = false ∧ t.lineAway a 8 = false
    let apart (t : State) (m : Mig) (a : Dpa) : Prop := ours t a ∧
      ∀ i < 8, ((dpaKey 1 (dpaAdd a i)).all (fun k => (frameOff m.gran m.new k).isNone)) = true
    s.hub.stage = 5 ∧ w.getLsbD 17 = true ∧ (0 : Word).getLsbD 17 = false ∧ s.hub.migregs[(3#2).toNat].busy = false ∧
    (s.mhub (fun h => { h with migregs := h.migregs.set 3 { MigReg.reset with busy := true } })).hub.migregs[(3#2).toNat].busy = true ∧
    (s.hub.pools[1].tail - s.hub.pools[1].head).toNat < 2 ^ s.hub.pools[1].log.toNat ∧ dieCode (2 ^ 39) ≠ 15 ∧
    dieCode (15 * 2 ^ 39) = 15 ∧ ours s (dpaAdd s.hub.pools[1].rbase 8) ∧
    2 ^ full.hub.pools[7].log.toNat ≤ (full.hub.pools[7].tail - full.hub.pools[7].head).toNat ∧ s.hub.migq = [] ∧
    (let t := migrating [migReq (.host 3)] [] 0
     t.hub.migq = [migReq (.host 3)] ∧ (migReq (.host 3)).who = .host 3 ∧
       t.leafAt (migReq (.host 3)).ptroot (migReq (.host 3)).va = none) ∧
    (let t := migrating [migReq (.host 3)] [] (2 ^ 40 + 0x703)
     ∃ ea e, (t.leafAt (migReq (.host 3)).ptroot (migReq (.host 3)).va = some (ea, e) ∧ (e.extractLsb' 1 2) = 1 ∧
       (e.extractLsb' 5 2) = 0 ∧ dieCode (t.fab.node ++ (leafFrame e).extractLsb' 0 43) ≤ 8 ∧ t.hub.migs = [] ∧
       offOf (t.fab.node ++ (leafFrame e).extractLsb' 0 43) / 2 ^ 18 % 4 = 0 ∧ t.hub.lostFar.getLsbD 0 = false ∧
       t.hub.pools[1].tail ≠ t.hub.pools[1].head ∧ t.fab.patches = [] ∧ ours t ea ∧ nodeOf t.hub.pools[1].rbase = t.fab.node ∧
       t.farLost t.hub.pools[1].rbase = false)) ∧
    (let t := migrating [] [mig .pending] 0
     t.hub.migs[0]? = some (mig .pending) ∧ t.frameQuiet 0 (2 ^ 40) = true ∧
       (t.mfab (fun f => { f with owned := [⟨2 ^ 40, some 1, 0, [], false⟩] })).frameQuiet 0 (2 ^ 40) = false) ∧
    (let t := migrating [] [mig .copying] (2 ^ 40 + 0x1703)
     let m := mig .copying
     t.hub.migs[0]? = some m ∧ m.who = .host 3 ∧ t.mem.wf = true ∧ t.fab.patches = [] ∧ t.oddUnits m.oldG m.old = [] ∧
       m.new.toNat % 2 ^ 18 = 0 ∧ apart t m (BitVec.ofNat 53 m.leaf) ∧ apart t m (dpaAdd t.hub.pools[0].rbase 0)) ∧
    (let t := migrating [] [mig (.dwell 1)] 0
     t.hub.migs[0]? = some (mig (.dwell 1)) ∧ t.ns < 1 ∧ 1 ≤ State.ns { t with dsub := 189 }) := by
  simp only []
  and_intros
  all_goals first | exact ⟨2 ^ 39 + 2 ^ 15, 2 ^ 40 + 0x703, by decide +kernel⟩ | decide +kernel

theorem wit_MigrationMovesPages_sound (a : Dpa) : Sound (migrating [] [] 0) 1 a 8 ∧
    Sound (migrating [migReq (.host 3)] [] (2 ^ 40 + 0x703)) 1 a 8 ∧ Sound (migrating [] [mig .copying] (2 ^ 40 + 0x1703)) 1 a 8 :=
  ⟨sound_clean rfl rfl rfl _ _ _, sound_clean rfl rfl rfl _ _ _, sound_clean rfl rfl rfl _ _ _⟩

/-! ### Events of the fabric -/

/-- A link that is up, after some replays. -/
def upPort (replays : Nat) (failed : List Nat) : Port :=
  { Port.reset with up := true, credit := Vector.replicate 8 48, tries := [(1, replays)], failedTrains := failed }

def linked (replays : Nat) (failed : List Nat) : State :=
  State.reset.mfab (fun f => { f with ndim := 1, ports := f.ports.set 11 (upPort replays failed) })

def flit (kind : BitVec 3) (seq : BitVec 12) : Flit :=
  let f : Flit := ⟨seq, 0, 0, 0, 1, 0, kind, 1, 0, 0, [7]⟩
  { f with crc := BitVec.ofNat 32 (Machine.Flit.crcOf f) }

/-- An idle flit that returns two slots. -/
def idleFlit : Flit := { flit 0 1 with cinc := 2, crc := BitVec.ofNat 32 (Machine.Flit.crcOf { flit 0 1 with cinc := 2 }) }

theorem wit_LinksAndTime :
    let s := linked 0 []
    let x := upPort 0 []
    12 ≤ (12#4).toNat ∧ (11#4).toNat < 12 ∧ s.fab.ports[(11#4).toNat]? = some x ∧ x.up = true ∧
    Machine.Flit.intact { flit 1 1 with crc := 0 } = false ∧ Machine.Flit.intact (flit 0 0) = true ∧ (flit 0 0).kind = 0 ∧
    (flit 0 0).cinc = 0 ∧ Machine.Flit.intact (flit 1 1) = true ∧ (flit 1 1).kind ≠ 0 ∧ (flit 1 1).seq = x.rxSeq + 1 ∧
    (flit 1 1).dst = s.fab.node ∧ s.fab.fq = false ∧ s.fab.out = [] ∧ s.linkFree 11 7 = true ∧
    s.linkFree 10 7 = false ∧ (s.mfab (fun f => { f with fq := true })).fab.fq = true ∧
    (∀ y ∈ s.fab.ports.toList, y.rx = [] ∧ ∀ v : Fin 8, y.owe[v] = 0) ∧
    Machine.Flit.intact idleFlit = true ∧ idleFlit.kind = 0 ∧ idleFlit.cinc ≠ 0 ∧ idleFlit.seq = x.rxSeq + 1 ∧
    Machine.Flit.intact (flit 1 2) = true ∧ (flit 1 2).seq ≠ x.rxSeq + 1 ∧ ¬ (x.rxSeq - (flit 1 2).seq).toNat < 2048 ∧
    (flit 1 0).seq ≠ x.rxSeq + 1 ∧ (x.rxSeq - (flit 1 0).seq).toNat < 2048 ∧ Machine.Flit.intact (flit 1 0) = true ∧ x.asked = false ∧
    { x with asked := true }.asked = true ∧ { x with down := true }.down = true ∧ x.down = false ∧ (∀ q ∈ x.tries, q.2 < 8) ∧ x.retry = [] ∧
    (let y := upPort 8 [0, 0]
     (linked 8 [0, 0]).fab.ports[11]? = some y ∧ (∃ q ∈ y.tries, 8 ≤ q.2) ∧
       3 ≤ (0 :: y.failedTrains.filter (fun t => decide (0 < t + 1000000))).length) ∧
    (let y := upPort 8 [0]
     (linked 8 [0]).fab.ports[11]? = some y ∧ (0 :: y.failedTrains.filter (fun t => decide (0 < t + 1000000))).length < 3) ∧
    (∃ y, s.fab.ports[(10#4).toNat]? = some y ∧ y.up = false) ∧
    State.reset.fab.ndim = 0 ∧ s.fab.ndim ≠ 0 ∧ s.ns / 16000 ≤ s.fab.halved ∧
    s.fab.halved < State.ns { s with dsub := 189 * 16000 } / 16000 ∧ s.fab.node = 0 ∧
    (let t (trained : Bool) : State := s.mfab (fun f => { f with node := 1, trained := trained })
     (t false).fab.node ≠ 0 ∧ (t false).fab.trained = false ∧ (t true).fab.trained = true ∧
       (t true).ns < (t true).fab.syncAt + 1000 ∧ (t true).fab.syncAt + 1000 ≤ State.ns { t true with dsub := 189 * 1000 } ∧
       State.ns { t true with dsub := 189 * 1000 } < (1001 : Word).toNat ∧ (999 : Word).toNat < State.ns { t true with dsub := 189 * 1000 }) := by
  and_intros <;> decide +kernel

/-- An eight-byte request of node 1 to near die 1, and its bytes' line. -/
def request (k : RemoteKind) (dpa : Dpa) : RemoteReq := ⟨1, 0, dpa, 0, k, 5⟩
def atom : RemoteAtom := ⟨1, 0, 2 ^ 39, 0, .add, true, 1, 0, true, 5⟩

theorem wit_HomeServesOtherNodes :
    let s := State.reset.mfab (fun f => { f with ndim := 1 })
    let q := request (.write [1, 2, 3, 4, 5, 6, 7, 8]) (2 ^ 39)
    let late : State := { s with dsub := 189 * 6 }
    let away : Owned := ⟨2 ^ 39, some 1, 0, [], false⟩
    let mine : Owned := ⟨2 ^ 39, none, 0, List.replicate 64 3, false⟩
    let lent := s.mfab (fun f => { f with owned := [away] })
    s.hub.pst = 0 ∧ q.expiry < late.ns ∧ atom.expiry < late.ns ∧ s.ns ≤ q.expiry ∧ s.ns ≤ atom.expiry ∧
    13 ≤ dieCode (request (.read 8) (13 * 2 ^ 39)).dpa ∧ 2 ^ s.fab.ndim.toNat ≤ (nodeOf (2 ^ 44)).toNat ∧
    (s.mhub (fun h => { h with regions := h.regions.set 0 (2 ^ 63 + 2 ^ 18) })).secureBad false 0 (2 ^ 39) 8 = true ∧
    s.foreignRefused q.gran q.dpa 8 = false ∧ s.foreignRefused q.gran (12 * 2 ^ 39 + 2 ^ 39 - 8) 8 = false ∧
    dpaKey 0 (2 ^ 39 - 8 : Dpa) = none ∧ s.foreignRefused 0 (2 ^ 39 - 8) 8 = false ∧
    (∀ i < 8, dpaKey q.gran (dpaAdd q.dpa i) ≠ none) ∧ s.fab.fq = false ∧ s.fab.held = [] ∧
    (s.mfab (fun f => { f with fq := true })).fab.fq = true ∧
    (∃ x ∈ (s.mfab (fun f => { f with held := [.req q] })).fab.held, x.key = (Held.req q).key) ∧
    s.lineAway q.dpa 8 = false ∧ lent.lineAway q.dpa 8 = true ∧ s.farLost q.dpa = false ∧
    (s.mhub (fun h => { h with lostFar := 1 })).farLost (9 * 2 ^ 39) = true ∧
    s.foreignRefused atom.gran (13 * 2 ^ 39) 8 = true ∧ dieCode atom.dpa ≤ 8 ∧
    min (s.counter (atom.dpa.toNat / 2 ^ 18) + 1) 255 < s.fab.cthresh.toNat ∧ atom.src ≠ s.fab.node ∧
    min (s.counter (atom.dpa.toNat / 2 ^ 18) + 1) 255 = (s.mfab (fun f => { f with cthresh := 1 })).fab.cthresh.toNat ∧
    ([mine].find? (fun x => decide (x.dpa = 2 ^ 39)) = some mine ∧ mine.owner = none) ∧
    (lent.fab.owned.find? (fun x => decide (x.dpa = 2 ^ 39) && x.owner.isSome) = some away ∧
      lent.fab.owned.find? (fun x => decide (x.dpa = 2 ^ 39)) = some away ∧ away.owner = some 1 ∧
      (List.replicate 64 (3 : Byte)).length = 64 ∧ ([] : List Byte).length ≠ 64 ∧ lent.farLost (2 ^ 39) = false ∧
      (∀ i < 64, dpaKey away.g (dpaAdd (2 ^ 39) i) ≠ none) ∧ (∀ k < 64, lent.ownCode away.g k = true) ∧ lent.fab.patches = [] ∧ lent.fab.held = [] ∧
      lent.host.waiting = []) ∧
    (ringOf s.hub 254).cen = false ∧ unitsOf away.g (BitVec.ofNat 53 away.dpa) 64 = [2 ^ 39, 2 ^ 39 + 32] ∧
    ∀ x ∈ s.fab.owned, x.dpa ≠ 2 ^ 39 := by decide +kernel

theorem wit_HomeServesOtherNodes_sound (g : BitVec 2) (pa : Dpa) (n : Nat) :
    Sound State.reset g pa n ∧ MemOk State.reset := ⟨sound_clean rfl rfl rfl g pa n, rfl⟩

/-- An answer to the neighbour by a link that is up, with and without a free credit. -/
theorem wit_HomeServesOtherNodes_answer :
    let port (credit : Vector Nat 8) : State := State.reset.mfab (fun f =>
      { f with ndim := 1, portmap := 0, ports := f.ports.set 0 { Port.reset with up := true, credit := credit } })
    let yes := port (Vector.replicate 8 48)
    let no := port (Vector.replicate 8 0)
    State.reset.way 1 = none ∧ yes.fab.fq = false ∧ yes.way 1 = some 0 ∧ yes.linkFree 0 4 = true ∧ no.way 1 = some 0 ∧ no.linkFree 0 4 = false := by
  decide +kernel

/-- Group 4095 of nodes 0 and 1. -/
def grouped (x : Group) : State := State.reset.mfab (fun f => { f with ndim := 1, groups := [(4095, x)] })

def pair : Group := { Group.reset with v := true, mem := true, wlen := 64, wbase := 2 ^ 39, mmask := 1 }

theorem wit_MulticastOrdersStores :
    (let s := grouped pair
     s.group 4095 = pair ∧ pair.seqnode = s.fab.node ∧ (1#10) ≠ s.fab.node ∧ pair.queue = [] ∧
       pair.queue ++ [(1, 0, [5], 0)] = (1, 0, [5], 0) :: [] ∧ s.ns ≤ 0 ∧ 0 < State.ns { s with dsub := 189 } ∧ pair.v = true ∧ pair.mem = true ∧
       pair.gap = false ∧ pair.held = [] ∧ pair.nextseq = pair.applied + 1 ∧
       ((Group.members pair).all (fun k => decide ((pair.nextseq - Group.reported pair s.fab.node k).toNat < 256))) = true ∧
       (Group.members pair).contains 1 = true ∧ (Group.members pair).contains 2 = false) ∧
    (Group.reset.v = false ∧ Group.reset.seqnode = State.reset.fab.node ∧ { pair with seqnode := 1 }.seqnode ≠ State.reset.fab.node) ∧
    (let x := { pair with nextseq := 257, applied := 256 }
     (Group.members x).contains 1 = true ∧ x.lost.contains 1 = false ∧ 256 ≤ (x.nextseq - Group.reported x 0 1).toNat) ∧
    (let x := { pair with held := [(1, 0, [1, 2])], nextseq := 2 }
     let pa : Dpa := (0 : BitVec 10) ++ (dpaAdd x.wbase 0).extractLsb' 0 43
     let s := grouped x
     x.v = true ∧ x.mem = true ∧ x.gap = false ∧ x.held = [(x.applied + 1, 0, [1, 2])] ∧ x.sinceReport ≠ 31 ∧
       { x with sinceReport := 31, seqnode := 1 }.sinceReport = 31 ∧ s.lineAway pa 2 = false ∧ s.secureBad false x.wg pa 2 = false ∧ s.farLost pa = false ∧
       State.farLost (s.mhub (fun h => { h with lostFar := 1 })) (9 * 2 ^ 39) = true ∧
       State.secureBad (s.mhub (fun h => { h with lostFar := 1 })) false 0 (9 * 2 ^ 39) 2 = false ∧
       (s.mhub (fun h => { h with regions := h.regions.set 0 (2 ^ 63 + 2 ^ 18) })).secureBad false x.wg pa 2 = true ∧
       (s.mfab (fun f => { f with owned := [⟨2 ^ 39, some 1, 0, [], false⟩] })).lineAway pa 2 = true ∧
       (ringOf s.hub 254).cen = false) ∧
    (let x := { pair with seqnode := 1 }
     x.seqnode ≠ 0 ∧ { x with v := false, lostV := true }.mem = true ∧ (2#32) ≠ x.applied ∧ 2 ≤ ((2#32) - x.applied).toNat ∧ ((256#32) - x.applied).toNat ≤ 256 ∧
       256 < ((257#32) - x.applied).toNat ∧ ((257#32) - x.applied).toNat < 2 ^ 31) ∧
    (pair.appliedAt + 1000 ≤ State.ns { grouped pair with dsub := 189 * 1000 } ∧ (grouped pair).ns < pair.appliedAt + 1000) ∧
    (let x := { pair with held := [(2, 0, [])] }
     x.held ≠ [] ∧ (∀ h ∈ x.held, h.1 ≠ x.applied + 1) ∧ x.waitAt + 20000 ≤ State.ns { grouped x with dsub := 189 * 20000 } ∧
       (grouped x).ns < x.waitAt + 20000) ∧
    (let x := { pair with nextseq := 2, applied := 1 }
     (Group.members x).contains 1 = true ∧ x.lost.contains 1 = false ∧ x.reports.find? (fun r => decide (r.1 = 1)) = none ∧
       x.since + 100000 ≤ State.ns { grouped x with dsub := 189 * 100000 } ∧ Group.reported x 0 1 ≠ x.nextseq - 1 ∧
       Group.reported pair 0 1 = pair.nextseq - 1) ∧
    ((2 ^ 231 * 12 : BitVec 256).extractLsb' 192 64).toNat / 2 ^ 39 % 16 ≤ 12 ∧ (1 : BitVec 256).getLsbD 0 = true := by
  and_intros <;> decide +kernel

theorem wit_RegistersAndRouter :
    let s := State.reset.mfab (fun f => { f with qreq := true })
    let up := (State.reset.mhub (fun h => { h with stage := 5 })).mhost (fun h => { h with up := true })
    let q := request (.read 8) (2 ^ 39)
    let m : Msg := ⟨1, 4, 0, .reply 0 0 7⟩
    s.fab.qreq = true ∧ s.core.pend = [] ∧ s.parked = [] ∧ s.fab.held = [] ∧ s.fab.out = [] ∧
    (∀ p : Fin 12, s.fab.ports[p].rx = []) ∧ (∀ y ∈ s.fab.ports.toList, y.rx = [] ∧ ∀ v : Fin 8, y.owe[v] = 0) ∧
    State.reset.fab.qreq = false ∧ State.reset.fab.fq = false ∧
    (∃ x ∈ (core (fun c => { c with pend := [acc .w home (.store [1]) true] })).core.pend, x.sent = true) ∧
    (up.mfab (fun f => { f with fq := true })).fab.fq = true ∧ (10#4).toNat ≤ 10 ∧ (1023#10).toNat < 2 ^ (10#4).toNat ∧
    (up.mfab (fun f => { f with held := [.req q], out := [m] })).fab.held = [.req q] ∧
    (up.mfab (fun f => { f with held := [.req q], out := [m] })).fab.out = [m] ∧ up.hub.pst = 0 ∧ up.ns ≤ q.expiry ∧
    up.foreignRefused q.gran q.dpa (RemoteKind.bytes q.kind) = false ∧
    (∀ i < RemoteKind.bytes q.kind, dpaKey q.gran (dpaAdd q.dpa i) ≠ none) ∧
    up.host.up = true ∧ up.hub.stage = 5 ∧ State.reset.hub.stage ≠ 5 ∧ State.reset.host.up = false ∧ (0 : Word).getLsbD 4 = false ∧
    (16 : Word).getLsbD 4 = true ∧ dieCode ((2 ^ 39 : Word).extractLsb' 0 53) ≠ 15 ∧
    dieCode ((15 * 2 ^ 39 : Word).extractLsb' 0 53) = 15 ∧ (0x203#18).toNat % 2 ≠ 0 ∧ (254#8) ≠ 255 ∧
    Agent.host ≠ .bootRoot := by and_intros <;> decide +kernel

/-! ### Events of the host, of boot and power, and failures -/

def window : Window := { Window.reset with en := true, dbase := 2 ^ 39, len := 1, hdmoff := 1, sec := true }

def hosted : State := State.reset.mhost (fun h => { h with up := true, ide := true, windows := h.windows.set 63 window })

theorem wit_HostAccessesWindows : let s := hosted
    let hdm : BitVec 40 := 2 ^ 18
    let pa : Dpa := dpaAdd window.dbase 0
    let hole : Window := { window with dbase := 2 ^ 39 - 8 }
    let inside (x : Window) (n : Nat) : Prop := x.en = true ∧ x.hdmoff.toNat * 2 ^ 18 ≤ hdm.toNat ∧
      hdm.toNat + n ≤ (x.hdmoff.toNat + x.len.toNat) * 2 ^ 18
    s.hub.pst = 0 ∧ s.host.up = true ∧ State.reset.host.up = false ∧ s.host.windows[(63 : Fin 64).val] = window ∧ inside window 64 ∧
    (∀ j < 63, (s.host.windows.getD j Window.reset).en = false) ∧ (∀ x : Fin 64, State.reset.host.windows[x.val].en = false) ∧
    s.host.ide = true ∧ window.sec = true ∧ State.reset.host.ide = false ∧ { window with sec := false }.sec = false ∧
    (∀ j < 64, dpaKey window.g (dpaAdd pa j) ≠ none) ∧
    dpaKey hole.g (dpaAdd (dpaAdd hole.dbase 0) 0) = none ∧ nodeOf pa = s.fab.node ∧ nodeOf (dpaAdd hole.dbase 0) = s.fab.node ∧
    nodeOf (dpaAdd { window with dbase := 2 ^ 43 }.dbase 0) ≠ s.fab.node ∧
    s.secureBad true window.g pa 64 = false ∧
    (s.mhub (fun h => { h with regions := h.regions.set 0 (2 ^ 63 + 2 ^ 18) })).secureBad false window.g pa 64 = true ∧
    s.host.waiting = [] ∧ s.lineAway pa 64 = false ∧ (s.mhost (fun h => { h with waiting := [.read hdm 8] })).host.waiting ≠ [] ∧
    (s.mfab (fun f => { f with owned := [⟨2 ^ 39, some 1, 0, [], false⟩] })).lineAway pa 64 = true ∧
    (unitsOf window.g pa 64).find? (State.unitBad { s with poison := [(0, 32)] } window.g) = some (2 ^ 39) := by
  and_intros <;> decide +kernel

theorem wit_HostAccessesWindows_sound (pa : Dpa) (n : Nat) : Sound hosted window.g pa n ∧ MemOk hosted :=
  ⟨sound_clean rfl rfl rfl _ _ _, rfl⟩

/-- The digest of the three bytes "abc", as FIPS 180-4 gives it (log 157). -/
theorem test_sha256_abc : digest [0x61, 0x62, 0x63] =
    0xad1500f261ff10b49c7a1796a36103b02322ae5dde404141eacf018fbf1678ba := by decide +kernel

theorem wit_ResetBootAndPower :
    let s := State.reset
    let hub (f : Hub → Hub) : State := s.mhub f
    let up := hub (fun h => { h with rom := true })
    let limit (h : Hub) : Nat := if 600 ≤ h.plim.toNat ∧ h.plim.toNat ≤ 2400 then h.plim.toNat else 2400
    s.hub.bootFailed = false ∧ s.hub.fatal = false ∧ s.hub.rom = false ∧ up.hub.rom = true ∧ up.hub.stage.toNat + 1 = 1 ∧
    (∀ n : Fin 5, (up.mhub (fun h => { h with stage := BitVec.ofNat 4 n.val })).hub.stage.toNat + 1 = n.val + 1) ∧
    6 ≤ (up.mhub (fun h => { h with stage := 5 })).hub.stage.toNat + 1 ∧
    (hub (fun h => { h with bootFailed := true })).hub.bootFailed = true ∧
    s.hub.stage ≠ 5 ∧ (hub (fun h => { h with stage := 5 })).hub.stage = 5 ∧ s.hub.drst.getLsbD 3 = false ∧ s.hub.din.getLsbD 3 = false ∧
    (let t := hub (fun h => { h with drst := 1 })
     t.hub.drst.getLsbD (0#2).toNat = true ∧ t.hub.din.getLsbD (0#2).toNat = false ∧ t.hub.tasks = [] ∧ dieOf t.cur = (0#2).toNat ∧
       t.core.pend = [] ∧ t.core.port = [] ∧ t.parked = []) ∧
    ((tasked s leaf [task 0 0 .running]).hub.tasks = [task 0 0 .running] ∧ (task 0 0 .running).st.live = true ∧ dieOf 0 = 0) ∧
    (let t := hub (fun h => { h with drst := 15, din := 15, rind := 8 })
     t.hub.din.getLsbD (3#2).toNat = true ∧ t.hub.rind.getLsbD (3#2).toNat = true ∧
       (∀ x < 4, x ≠ (3#2).toNat → t.hub.din.getLsbD x = true)) ∧
    (let t := hub (fun h => { h with din := 8 })
     t.hub.din.getLsbD 3 = true ∧ t.hub.rind.getLsbD 3 = false ∧ t.hub.din.getLsbD 0 = false) ∧
    s.hub.regs = [] ∧ s.hub.inbox = [] ∧ s.hub.pst = 0 ∧ (hub (fun h => { h with pst := 2 })).hub.pst = 2 ∧
    (hub (fun h => { h with pst := 3 })).hub.pst = 3 ∧ (∃ r ∈ (launched leaf).hub.regs, r.st ≠ 3) ∧
    s.hub.stby = false ∧ (hub (fun h => { h with stby := true })).hub.stby = true ∧
    (hub (fun h => { h with hotAt := some 0 })).hub.hotAt = some 0 ∧ 0 ≤ s.ns ∧ s.hub.hotAt = none ∧ s.hub.coolAt = none ∧
    (hub (fun h => { h with coolAt := some 0 })).hub.coolAt = some 0 ∧ (hub (fun h => { h with pst := 1 })).hub.pst = 1 ∧
    (let t := hub (fun h => { h with sensed := [(0x440, 95000)] })
     95000 ≤ t.hub.dieTemp 0) ∧
    (let t := hub (fun h => { h with sensed := [(0x400, 2400001)] })
     1000 * limit t.hub < 2400001 ∧ ¬ (2400001 < 1000 * (limit t.hub - 100)) ∧ ∀ i < 17, t.hub.dieTemp i < 90000) ∧
    0 < 1000 * (limit s.hub - 100) := by
  and_intros <;> decide +kernel

/-- A result in flight raised a fault that is not yet taken. -/
def lateFault (code : BitVec 16) : LateFault := ⟨5, code, 0, 0, 0, none⟩

theorem wit_FailuresAreContained :
    (let s := State.reset
     let flip (e : List (Nat × Byte)) : State := { s with flips := e }
     let at_ : Dpa := s.fab.node ++ (1#4) ++ (31#39)
     (dpaKey 0 at_).map (unitAt 0) = some 0 ∧ dpaKey 0 (s.fab.node ++ (0#4) ++ (2 ^ 39 - 1 : BitVec 39)) = none ∧
       s.farLost (unitDpa s.fab.node 0 (granSize 0)) = false ∧ s.ownCode 0 0 = true ∧ s.ownCode 1 0 = true ∧
       State.ownCode { s with codes := [(0, 2)] } 0 0 = false ∧
       (s.mhub (fun h => { h with lostFar := 1 })).farLost (unitDpa s.fab.node (8 * 2 ^ 39) (granSize 0)) = true ∧
       (dpaKey 0 (9 * 2 ^ 39)).map (unitAt 0) = some (8 * 2 ^ 39) ∧
       (flip [(5, 4)]).flips = [(5, 4)] ∧ unitAt 0 5 = 0 ∧ (4#8) = 1#8 <<< 2 ∧ unitAt 1 5 = 0 ∧
       (∀ e ∈ (flip [(64, 4)]).flips, unitAt 0 e.1 ≠ 0) ∧
       State.decodes { flip [(5, 3)] with buf := [] } 0 0 = .failed ∧ (0, granSize 0) ∈ [(0, granSize 0)]) ∧
    (State.reset.mhub (fun h => { h with lostFar := 8 })).hub.lostFar.getLsbD (3#2).toNat = true ∧
    State.reset.hub.lostFar.getLsbD (3#2).toNat = false ∧ State.reset.hub.migs = [] ∧
    (State.reset.mhub (fun h => { h with rind := 8 })).hub.rind.getLsbD (3#2).toNat = true ∧
    State.reset.hub.rind.getLsbD (3#2).toNat = false ∧
    (let s : State := { (phased true).mc (fun c => { c with preempt := some 0 }) with dsub := 189 * 4000 }
     (s.getCore (0#9).toNat).preempt = some 0 ∧ (s.getCore (0#9).toNat).mode = .running ∧
       (s.getCore (0#9).toNat).stoppedByHand = false ∧ 0 + 4000 ≤ s.ns ∧ s.hub.rind.getLsbD (dieOf (0#9).toNat) = false ∧
       (s.hub.tasks.map Task.id).Nodup ∧ (phased true).ns < 0 + 4000) ∧
    (let s := (phased false).mc (fun c => { c with ctl := { c.ctl with late := [lateFault 0x0103] } })
     s.core.ctl.late = [lateFault 0x0103] ∧ rollable (lateFault 0x0103).code = true ∧ s.core.canRoll none = true) ∧
    State.reset.core.ctl.late = [] ∧
    (let s := (phased false).mc (fun c => { c with ctl := { c.ctl with late := [lateFault 0x0101] } })
     s.task? 0 = some (task 0 0 .running) ∧ (task 0 0 .running).core = s.cur ∧ (task 0 0 .running).st ≠ .saved ∧ s.core.task = some 0 ∧
       s.core.ctl.late = [lateFault 0x0101] ∧ rollable (lateFault 0x0101).code = false) ∧
    (let s := State.reset.mhub (fun h => { h with tasks := [task 0 0 .ended] })
     s.task? 0 = some (task 0 0 .ended) ∧ s.core.task ≠ some 0 ∧ s.core.retired = false) ∧
    (let s := (core (fun c => { c with retired := true })).mhub (fun h => { h with tasks := [task 0 0 .saved] })
     s.task? 0 = some (task 0 0 .saved) ∧ (task 0 0 .saved).core = s.cur ∧ s.core.retired = true) := by decide +kernel

/-- A module ready to serve what the fabric brings. -/
def serving : State := (linked 8 []).mfab (fun f => { f with counters := [(2 ^ 21, 3)] })

theorem wit_EventsCompleteWithTheirFrame :
    let s := serving
    let hub (f : Hub → Hub) : State := s.mhub f
    let own (o : Owned) : State := s.mfab (fun f => { f with owned := [o] })
    let up := hub (fun h => { h with stage := 5 })
    let q := request (.read 8) (2 ^ 39)
    (s.fab.ports[(11#4).toNat]? = some (upPort 8 []) ∧ (upPort 8 []).up = true ∧ (∃ q ∈ (upPort 8 []).tries, 8 ≤ q.2) ∧ (upPort 8 []).down = false ∧
      Machine.Flit.intact (flit 1 1) = true ∧ (flit 1 1).kind ≠ 0 ∧ (flit 1 1).seq = (upPort 8 []).rxSeq + 1) ∧
    (s.fab.ndim ≠ 0 ∧ s.fab.halved < State.ns { s with dsub := 189 * 16000 } / 16000 ∧ (s.fab.counters.map Prod.fst).Nodup ∧
      (s.mfab (fun f => { f with node := 1 })).fab.node ≠ 0) ∧
    (q.kind = .read 8 ∧ s.ns ≤ q.expiry ∧ s.foreignRefused q.gran q.dpa 8 = false ∧ s.fab.fq = false ∧ s.fab.held = [] ∧
      (∀ i < 8, dpaKey q.gran (dpaAdd q.dpa i) ≠ none) ∧ s.lineAway q.dpa 8 = false) ∧
    (s.ns ≤ atom.expiry ∧ s.foreignRefused atom.gran atom.dpa 8 = false ∧ dieCode atom.dpa ≤ 8) ∧
    (let o : Owned := ⟨2 ^ 39, none, 0, List.replicate 64 3, false⟩
     (own o).fab.owned = [o] ∧ o.owner = none) ∧
    (let o : Owned := ⟨2 ^ 39, some 1, 0, [], false⟩
     (own o).fab.owned = [o] ∧ o.owner ≠ none ∧ o.dpa < 2 ^ 53 ∧ (own o).fab.patches = [] ∧ (own o).fab.held = [] ∧
       (own o).host.waiting = []) ∧
    (up.hub.stage = 5 ∧ (up.mfab (fun f => { f with fq := true })).fab.fq = true) ∧
    (let t := s.mfab (fun f => { f with qreq := true })
     t.fab.qreq = true ∧ t.fabricQuiet = true) ∧
    (let h := (hub (fun h => { h with rom := true })).hub
     h.bootFailed = false ∧ h.fatal = false ∧ h.rom = true ∧ h.stage.toNat < 5) ∧
    (let t := hub (fun h => { h with drst := 8 })
     t.hub.drst.getLsbD (3#2).toNat = true ∧ t.hub.din.getLsbD (3#2).toNat = false ∧ t.dieBusy (3#2).toNat = false) ∧
    ((hub (fun h => { h with din := 8 })).hub.din.getLsbD (3#2).toNat = true ∧ (hub (fun h => { h with pst := 3 })).hub.pst ≠ 0 ∧
      0 ≤ s.ns ∧ (hub (fun h => { h with hotAt := some 0 })).hub.hotAt = some 0 ∧ s.hub.clk ≠ 3 ∧ s.hub.pst ≠ 1 ∧
      (hub (fun h => { h with coolAt := some 0, clk := 2 })).hub.coolAt = some 0 ∧ (hub (fun h => { h with clk := 2 })).hub.clk ≠ 0) := by
  and_intros <;> decide +kernel

theorem wit_EventsCompleteWithTheirFrame_cores :
    (Ready State.reset ∧ State.reset.preg 0 = true) ∧
    (let s := wanted
     s.task? 0 = some (task 0 0 .running) ∧ (task 0 0 .running).peers = [] ∧ s.leafOf (task 0 0 .running) ≠ none ∧
       (task 0 0 .running).core = (0#9).toNat ∧ (s.getCore (0#9).toNat).task = some 0 ∧ s.mayPreempt (0#9).toNat = true) ∧
    (let s := halting
     s.task? 0 = some (task 0 0 .halting) ∧ (task 0 0 .halting).peers = [] ∧ s.leafOf (task 0 0 .halting) ≠ none ∧
       s.core.task = some 0 ∧ s.core.saveable = true ∧ s.core.rolling = false ∧ s.core.marks = [] ∧ s.core.eng.blk.bad = false ∧
       s.core.eng.standby.bad = false) ∧
    (let s := resuming
     let t : State := s.mc (fun c => { c with mode := .resuming, task := some 0 })
     (task 0 0 .saved).peers = [] ∧ savedTask.task = 0 ∧ s.savedOn s.cur = [savedTask] ∧ s.core.mode ≠ .resuming ∧
       s.resumable savedTask = true ∧ s.hub.saves.find? (fun y => decide (y.task = 0)) = some savedTask ∧
       t.core.mode = .resuming ∧ t.core.task = some 0 ∧ t.farLost (t.saveArea t.cur savedTask.depth) = false ∧
       t.badIn 1 (t.saveArea t.cur savedTask.depth) 2621440 = none) := by
  refine ⟨wit_IntegerResults, ?_⟩
  and_intros <;> first | rfl | decide +kernel

/-- Words of the scalar slot, from the fields of the spec, and the instructions they are. -/
def scalarWordsA : List (BitVec 64 × Instr) :=
  [(0x0541083200000000, .add 5 .satn 1 2 3),
   (0x0941083100000000, .sub 5 .sat 1 2 3),
   (0x0D41080280000001, .addi 5 .satn 1 2 0x80000001),
   (0x1141083000000000, .mul 5 .wrap 1 2 3),
   (0x157F083000000000, .mulh 5 63 2 3),
   (0x197F083000000000, .mulhn 5 63 2 3),
   (0x1D7F083000000000, .div 5 63 2 3),
   (0x217F083000000000, .divn 5 63 2 3),
   (0x257F083000000000, .rem 5 63 2 3),
   (0x297F083000000000, .remn 5 63 2 3),
   (0x2D7F083000000000, .and 5 63 2 3),
   (0x317F083000000000, .or 5 63 2 3),
   (0x357F083000000000, .xor 5 63 2 3),
   (0x457F083000000000, .shl 5 63 2 3),
   (0x497F083000000000, .shr 5 63 2 3),
   (0x4D7F083000000000, .sar 5 63 2 3),
   (0x7D7F083000000000, .min 5 63 2 3),
   (0x817F083000000000, .max 5 63 2 3),
   (0x857F083000000000, .minn 5 63 2 3),
   (0x897F083000000000, .maxn 5 63 2 3),
   (0x3941080100000009, .andi 5 true 1 2 9),
   (0x3D41080100000009, .ori 5 true 1 2 9),
   (0x4141080100000009, .xori 5 true 1 2 9),
   (0x514108000000003F, .shli 5 1 2 63)]

theorem test_scalar_words_a : scalarWordsA.all (fun p => decide (decodeSlot (.s (SRaw.unpack p.1)) = .ok p.2) &&
    decide (encodeSlot p.2 = some (.s (SRaw.unpack p.1))) && p.2.wf) = true := by decide +kernel

/-- Words of the scalar slot, from the fields of the spec, and the instructions they are. -/
def scalarWordsB : List (BitVec 64 × Instr) :=
  [(0x7D7F083000000000, .min 5 63 2 3),
   (0x817F083000000000, .max 5 63 2 3),
   (0x857F083000000000, .minn 5 63 2 3),
   (0x897F083000000000, .maxn 5 63 2 3),
   (0x3941080100000009, .andi 5 true 1 2 9),
   (0x3D41080100000009, .ori 5 true 1 2 9),
   (0x4141080100000009, .xori 5 true 1 2 9),
   (0x514108000000003F, .shli 5 1 2 63),
   (0x554108000000003F, .shri 5 1 2 63),
   (0x594108000000003F, .sari 5 1 2 63),
   (0x5D4108010000003F, .rol 5 1 2 (.imm 63)),
   (0x5D41083000000000, .rol 5 1 2 (.reg 3)),
   (0x614108300000007F, .fshr 5 1 2 3 (some 127)),
   (0x6141083100000000, .fshr 5 1 2 3 none),
   (0x654108000000403F, .bext 5 1 2 0 (some 63) (some 64)),
   (0x6941083100000500, .bexts 5 1 2 3 none (some 5)),
   (0x6D41083200000007, .bins 5 1 2 3 (some 7) none),
   (0x7141080100000000, .clz 5 .w32 1 2),
   (0x7541080200000000, .ctz 5 .w16 1 2),
   (0x7941080300000000, .popc 5 .w8 1 2),
   (0xBD41080000000000, .brev 5 .w64 1 2),
   (0x8D4F083B00000000, .cmp 5 .ntst 15 2 3),
   (0x9141080400000007, .cmpi 5 .ltn 1 2 7),
   (0x9541083900000000, .plog 5 1 2 3 9)]

theorem test_scalar_words_b : scalarWordsB.all (fun p => decide (decodeSlot (.s (SRaw.unpack p.1)) = .ok p.2) &&
    decide (encodeSlot p.2 = some (.s (SRaw.unpack p.1))) && p.2.wf) = true := by decide +kernel

/-- Words of the scalar slot, from the fields of the spec, and the instructions they are. -/
def scalarWordsC : List (BitVec 64 × Instr) :=
  [(0x6D41083200000007, .bins 5 1 2 3 (some 7) none),
   (0x7141080100000000, .clz 5 .w32 1 2),
   (0x7541080200000000, .ctz 5 .w16 1 2),
   (0x7941080300000000, .popc 5 .w8 1 2),
   (0xBD41080000000000, .brev 5 .w64 1 2),
   (0x8D4F083B00000000, .cmp 5 .ntst 15 2 3),
   (0x9141080400000007, .cmpi 5 .ltn 1 2 7),
   (0x9541083900000000, .plog 5 1 2 3 9),
   (0x9941083E00000000, .sel 5 14 1 2 3),
   (0x9D410001FFFFFFFF, .li 5 true 1 0xFFFFFFFF),
   (0xA141000000000007, .lih 5 1 7),
   (0xA541083100000000, .clmuls 5 true 1 2 3),
   (0xA940080000000A1F, .hadd 5 .st3 31 2),
   (0xAD40080100000304, .hset 5 (.word 3) 4 2),
   (0xB141000000000E04, .hget 5 (.field .off) 1 4),
   (0xB541000000000010, .rdsr 5 1 .rrbp),
   (0xB940080000000009, .wrsr 5 .trapaddr 2)]

theorem test_scalar_words_c : scalarWordsC.all (fun p => decide (decodeSlot (.s (SRaw.unpack p.1)) = .ok p.2) &&
    decide (encodeSlot p.2 = some (.s (SRaw.unpack p.1))) && p.2.wf) = true := by decide +kernel

/-- Words of the scalar slot, from the fields of the spec, and the instructions they are. -/
def scalarWordsD : List (BitVec 64 × Instr) :=
  [(0xB940080000000009, .wrsr 5 .trapaddr 2)]

theorem test_scalar_words_d : scalarWordsD.all (fun p => decide (decodeSlot (.s (SRaw.unpack p.1)) = .ok p.2) &&
    decide (encodeSlot p.2 = some (.s (SRaw.unpack p.1))) && p.2.wf) = true := by decide +kernel

/-- Words of the vector slots, from the fields of the spec, and the instructions they are. -/
def vectorWordsA : List (BitVec 64 × Instr) :=
  [(0x04802C7FC2000AC9, .vadd ⟨.v0, 1, 2, true, some 3, 5, 9⟩ .f32 ⟨.rup, false⟩ (.row 255) .scalar),
   (0x08B02C01C2400B00, .vsub ⟨.v0, 1, 2, true, some 3, 5, 0⟩ .i16 ⟨.rne, true⟩ (.row 3) .zero),
   (0x0C902C8381000A40, .vmul ⟨.v0, 1, 2, true, some 3, 5, 0⟩ .bf16 ⟨.rz, false⟩ (.latch 7) (.row 4)),
   (0x10802C018100AA80, .vfma ⟨.v0, 1, 2, true, some 3, 5, 0⟩ .f32 ⟨.rdn, false⟩ (.row 3) (.row 4) (.row 5)),
   (0x14C02C0181000A00, .vmin ⟨.v0, 1, 2, true, some 3, 5, 0⟩ .i8 ⟨.rne, false⟩ (.row 3) (.row 4)),
   (0x18E02C0181000A00, .vmax ⟨.v0, 1, 2, true, some 3, 5, 0⟩ .n32 ⟨.rne, false⟩ (.row 3) (.row 4)),
   (0x1CD02C0180000B00, .vabs ⟨.v0, 1, 2, true, some 3, 5, 0⟩ .i64 ⟨.rne, true⟩ (.row 3)),
   (0x88F02C0181000B00, .vmulh ⟨.v0, 1, 2, true, some 3, 5, 0⟩ .n8 ⟨.rne, true⟩ (.row 3) (.row 4)),
   (0x20802C0181000A00, .vand ⟨.v0, 1, 2, true, some 3, 5, 0⟩ .f32 (.row 3) (.row 4)),
   (0x24802C0181000A00, .vor ⟨.v0, 1, 2, true, some 3, 5, 0⟩ .f32 (.row 3) (.row 4)),
   (0x28802C0181000A00, .vxor ⟨.v0, 1, 2, true, some 3, 5, 0⟩ .f32 (.row 3) (.row 4)),
   (0x2CA02C0181000A00, .vshl ⟨.v0, 1, 2, true, some 3, 5, 0⟩ .i32 (.row 3) (.row 4)),
   (0x30A02C0181000A00, .vshr ⟨.v0, 1, 2, true, some 3, 5, 0⟩ .i32 (.row 3) (.row 4)),
   (0x34A02C0181000A00, .vsar ⟨.v0, 1, 2, true, some 3, 5, 0⟩ .i32 (.row 3) (.row 4)),
   (0x3890700181000140, .vcmp ⟨.v0, 1, 7, 0⟩ .bf16 .ge (.row 3) (.row 4)),
   (0x3CF02C018100CA00, .vsel ⟨.v0, 1, 2, true, some 3, 5, 0⟩ .n8 6 (.row 3) (.row 4)),
   (0x40E02C018100AA40, .vbext ⟨.v0, 1, 2, true, some 3, 5, 0⟩ .n32 true (.row 3) (.row 4) (.row 5)),
   (0x44B02C018100AA00, .vfshr ⟨.v0, 1, 2, true, some 3, 5, 0⟩ .i16 (.row 3) (.row 4) (.row 5)),
   (0x48F02C0181000A40, .vclmul ⟨.v0, 1, 2, true, some 3, 5, 0⟩ .n8 true (.row 3) (.row 4)),
   (0x4CE02C0180000A00, .vpopc ⟨.v0, 1, 2, true, some 3, 5, 0⟩ .n32 (.row 3)),
   (0x50D02C0180000A00, .vclz ⟨.v0, 1, 2, true, some 3, 5, 0⟩ .i64 (.row 3)),
   (0x54F02C01FFC00A00, .vbcast ⟨.v0, 1, 2, true, some 3, 5, 0⟩ .n8 (.row 3) (.imm 511)),
   (0x54F02C0180000A49, .vbcast ⟨.v0, 1, 2, true, some 3, 5, 0⟩ .n8 (.row 3) (.reg 9)),
   (0x58A02C0000000A09, .viota ⟨.v0, 1, 2, true, some 3, 5, 0⟩ .i32 (.count 9))]

theorem test_vector_words_a : vectorWordsA.all (fun p => decide (decodeSlot (.v .v0 (VRaw.unpack p.1)) = .ok p.2) &&
    decide (encodeSlot p.2 = some (.v .v0 (VRaw.unpack p.1))) && p.2.wf) = true := by decide +kernel

/-- Words of the vector slots, from the fields of the spec, and the instructions they are. -/
def vectorWordsB : List (BitVec 64 × Instr) :=
  [(0x40E02C018100AA40, .vbext ⟨.v0, 1, 2, true, some 3, 5, 0⟩ .n32 true (.row 3) (.row 4) (.row 5)),
   (0x44B02C018100AA00, .vfshr ⟨.v0, 1, 2, true, some 3, 5, 0⟩ .i16 (.row 3) (.row 4) (.row 5)),
   (0x48F02C0181000A40, .vclmul ⟨.v0, 1, 2, true, some 3, 5, 0⟩ .n8 true (.row 3) (.row 4)),
   (0x4CE02C0180000A00, .vpopc ⟨.v0, 1, 2, true, some 3, 5, 0⟩ .n32 (.row 3)),
   (0x50D02C0180000A00, .vclz ⟨.v0, 1, 2, true, some 3, 5, 0⟩ .i64 (.row 3)),
   (0x54F02C01FFC00A00, .vbcast ⟨.v0, 1, 2, true, some 3, 5, 0⟩ .n8 (.row 3) (.imm 511)),
   (0x54F02C0180000A49, .vbcast ⟨.v0, 1, 2, true, some 3, 5, 0⟩ .n8 (.row 3) (.reg 9)),
   (0x58A02C0000000A09, .viota ⟨.v0, 1, 2, true, some 3, 5, 0⟩ .i32 (.count 9)),
   (0x58A02C0300000A40, .viota ⟨.v0, 1, 2, true, some 3, 5, 0⟩ .i32 (.mask 6)),
   (0x5CA02C0180000B00, .vrsum ⟨.v0, 1, 2, true, some 3, 5, 0⟩ .i32 true (.row 3)),
   (0x60802C0180000A00, .vrmax ⟨.v0, 1, 2, true, some 3, 5, 0⟩ .f32 (.row 3)),
   (0x64C02C0180000A00, .vrmin ⟨.v0, 1, 2, true, some 3, 5, 0⟩ .i8 (.row 3)),
   (0x68E02C0180000AC0, .vscan ⟨.v0, 1, 2, true, some 3, 5, 0⟩ .n32 .xor false (.row 3)),
   (0x6CC02C018100AA00, .vshuf ⟨.v0, 1, 2, true, some 3, 5, 0⟩ .i8 (.row 3) (.row 4) (.row 5)),
   (0x70C02C0181000ABF, .vslide ⟨.v0, 1, 2, true, some 3, 5, 0⟩ .i8 true (.row 3) (.row 4) (.imm 63)),
   (0x70C02C0181000A49, .vslide ⟨.v0, 1, 2, true, some 3, 5, 0⟩ .i8 false (.row 3) (.row 4) (.reg 9)),
   (0x74E02C0180000A10, .vtopk ⟨.v0, 1, 2, true, some 3, 5, 0⟩ .n32 16 (.row 3)),
   (0x78C02C0180000BD9, .vcvt ⟨.v0, 1, 2, true, some 3, 5, 0⟩ .i8 .bf16 ⟨.rup, true⟩ 3 (.row 3)),
   (0x7C902C0180000AC0, .vsfu ⟨.v0, 1, 2, true, some 3, 5, 0⟩ .bf16 .rsqrt (.row 3)),
   (0x80D02C0180000A00, .vmov ⟨.v0, 1, 2, true, some 3, 5, 0⟩ .i64 (.row 3)),
   (0x8460700180000080, .vmask ⟨.v0, 0, 7, 0⟩ .n32 .raw (.row 3)),
   (0x8C002C0180000A88, .vqnt ⟨.v0, 0, 2, true, some 3, 5, 0⟩ .f32 .mxint8 .g128 (.row 3)),
   (0x90902C0180000A0B, .vdqnt ⟨.v0, 1, 2, true, some 3, 5, 0⟩ .bf16 .px4 .g32 (.row 3)),
   (0x9440700000000009, .vsetk .v0 7 (.pre .i8 9))]

theorem test_vector_words_b : vectorWordsB.all (fun p => decide (decodeSlot (.v .v0 (VRaw.unpack p.1)) = .ok p.2) &&
    decide (encodeSlot p.2 = some (.v .v0 (VRaw.unpack p.1))) && p.2.wf) = true := by decide +kernel

/-- Words of the vector slots, from the fields of the spec, and the instructions they are. -/
def vectorWordsC : List (BitVec 64 × Instr) :=
  [(0x74E02C0180000A10, .vtopk ⟨.v0, 1, 2, true, some 3, 5, 0⟩ .n32 16 (.row 3)),
   (0x78C02C0180000BD9, .vcvt ⟨.v0, 1, 2, true, some 3, 5, 0⟩ .i8 .bf16 ⟨.rup, true⟩ 3 (.row 3)),
   (0x7C902C0180000AC0, .vsfu ⟨.v0, 1, 2, true, some 3, 5, 0⟩ .bf16 .rsqrt (.row 3)),
   (0x80D02C0180000A00, .vmov ⟨.v0, 1, 2, true, some 3, 5, 0⟩ .i64 (.row 3)),
   (0x8460700180000080, .vmask ⟨.v0, 0, 7, 0⟩ .n32 .raw (.row 3)),
   (0x8C002C0180000A88, .vqnt ⟨.v0, 0, 2, true, some 3, 5, 0⟩ .f32 .mxint8 .g128 (.row 3)),
   (0x90902C0180000A0B, .vdqnt ⟨.v0, 1, 2, true, some 3, 5, 0⟩ .bf16 .px4 .g32 (.row 3)),
   (0x9440700000000009, .vsetk .v0 7 (.pre .i8 9)),
   (0x9400700281800100, .vsetk .v0 7 (.andn 5 6)),
   (0x9873F001FFC00000, .vextr .v0 .n8 63 (.row 3) (.imm 511) 0),
   (0x9873F00180012040, .vextr .v0 .n8 63 (.row 3) (.reg 9) 0),
   (0x9C5FF8000FC00009, .vins .v0 .i64 255 true 9 (.imm 63))]

theorem test_vector_words_c : vectorWordsC.all (fun p => decide (decodeSlot (.v .v0 (VRaw.unpack p.1)) = .ok p.2) &&
    decide (encodeSlot p.2 = some (.v .v0 (VRaw.unpack p.1))) && p.2.wf) = true := by decide +kernel

/-- Words of the matrix slot, from the fields of the spec, and the instructions they are. -/
def matrixWords : List (BitVec 48 × Instr) :=
  [(0x158240000000, .mcfg 5 8 9),
   (0x25F240000000, .mpcw 5 15 9),
   (0x350000000000, .mgo 5),
   (0x45FFFFFFFFE0, .mhad 5 255 127 true 31 15 .rup 255),
   (0x55FFFFB80000, .mwld 5 15 127 126 14),
   (0x65FFFFFF7FA0, .mdrn 5 255 127 31 15 .rz 254 true),
   (0x75FFFEF00000, .mzero 5 255 254 15),
   (0x85FC00000000, .mstat 5 63),
   (0x9500003C0000, .mswap 5 15)]

theorem test_matrix_words : matrixWords.all (fun p => decide (decodeSlot (.m (MRaw.unpack p.1)) = .ok p.2) &&
    decide (encodeSlot p.2 = some (.m (MRaw.unpack p.1))) && p.2.wf) = true := by decide +kernel

/-- Words of the transform slot, from the fields of the spec, and the instructions they are. -/
def transformWords : List (BitVec 48 × Instr) :=
  [(0x15060398C006, .xexp ⟨5, 6, .row 7, 3⟩ false .w64 6),
   (0x25060399E000, .xpln ⟨5, 6, .row 7, 3⟩ .n8),
   (0x350603982000, .xtrn ⟨5, 6, .row 7, 3⟩ .bf16),
   (0x4506039800B1, .xcvt ⟨5, 6, .row 7, 3⟩ .fp32 .n32 .g64 true),
   (0x550603983F00, .xscl ⟨5, 6, .row 7, 3⟩ true 31),
   (0x65060398E000, .xpack ⟨5, 6, .row 7, 3⟩ 7),
   (0x75060399C000, .xunpk ⟨5, 6, .row 7, 3⟩ true 6),
   (0x85060398C007, .xbits ⟨5, 6, .row 7, 3⟩ .w8 true 7),
   (0x950603982000, .xzip ⟨5, 6, .row 7, 3⟩ .w16),
   (0xA50603986000, .xunzip ⟨5, 6, .row 7, 3⟩ .w64),
   (0xB50603990000, .xswz ⟨5, 6, .row 7, 3⟩ .bitrev .w32)]

theorem test_transform_words : transformWords.all (fun p => decide (decodeSlot (.x (XRaw.unpack p.1)) = .ok p.2) &&
    decide (encodeSlot p.2 = some (.x (XRaw.unpack p.1))) && p.2.wf) = true := by decide +kernel

/-- Words of the load slot, from the fields of the spec, and the instructions they are. -/
def loadWords : List (BitVec 64 × Instr) :=
  [(0x1560108DFFFFFFFF, .lds 5 6 1 2 .h true true 0xFFFFFFFF),
   (0x2560108EFFFFFFFF, .ldm 5 6 1 2 .w true true 0xFFFFFF 255),
   (0x3560108B00000003, .ldw 5 6 1 2 .d false true 3),
   (0x3000002000000000, .ldwRpl 0),
   (0x456FF0BFFFFFFFFF, .vld 5 6 255 2 15 .w64 7 0x1FFFFFFF),
   (0x556FE09AFFFFFEFD, .vldg 5 6 254 2 .w8 3 253 6 0x1FFFFF),
   (0x656FE099C0000001, .vldp 5 6 254 2 .w16 .w64 true 6 1),
   (0x7561F08100000004, .ldh 5 6 31 2 true 4),
   (0xC560F08000000004, .ldpcw 5 6 15 2 false 4),
   (0x850010A000000003, .axadd 5 1 2 (.reg 3)),
   (0x9500108080000000, .axsub 5 1 2 (.imm 0x80000000)),
   (0xA50010A300000003, .axlog 5 .andn 1 2 (.reg 3)),
   (0xB50010820000003F, .axsh 5 .sar 1 2 (.imm 63)),
   (0xD50010010000000F, .ldq 5 1 (some 15)),
   (0xD500100000000000, .ldq 5 1 none)]

theorem test_load_words : loadWords.all (fun p => decide (decodeSlot (.l (LRaw.unpack p.1)) = .ok p.2) &&
    decide (encodeSlot p.2 = some (.l (LRaw.unpack p.1))) && p.2.wf) = true := by decide +kernel

/-- Words of the store slot, from the fields of the spec, and the instructions they are. -/
def storeWords : List (BitVec 56 × Instr) :=
  [(0x15601091FFFFFF, .sts 5 6 1 2 .h .cluster 0xFFFFFF),
   (0x2560108B000003, .stm 5 6 1 2 .d true 3),
   (0x356FF0AFFFFFFF, .vst 5 6 255 2 15 .w8 7 0x1FFFFF),
   (0x456FE08DFDDFFF, .vsts 5 6 254 2 .w16 3 253 6 0x1FFF),
   (0x5561F081000004, .sth 5 6 31 2 true 4),
   (0x656410A50FFFFF, .ats 5 6 .umax true 1 true 2 3 255 0x3FF),
   (0x756010AC0C1005, .atm 5 6 .bfadd2 false 1 2 3 4 5),
   (0x85601082000007, .mst 5 6 1 2 .w 7),
   (0x950010A1000003, .wxadd 5 true 1 2 (.reg 3))]

theorem test_store_words : storeWords.all (fun p => decide (decodeSlot (.w (WRaw.unpack p.1)) = .ok p.2) &&
    decide (encodeSlot p.2 = some (.w (WRaw.unpack p.1))) && p.2.wf) = true := by decide +kernel

/-- Words of the copy slot, from the fields of the spec, and the instructions they are. -/
def copyWords : List (BitVec 48 × Instr) :=
  [(0x156700005BE1, .cpy 5 6 7 1 31 .rdn true false true),
   (0x456700005BE1, .cpyp 5 6 7 1 31 .rdn true false true),
   (0xC56700005BE1, .chst 5 6 7 1 31 .rdn true false true),
   (0x2567000027E9, .cpya 5 6 7 .px9 31 .g64 true),
   (0x356700000BE1, .cpyb 5 6 7 .bf16 31 .g128 false),
   (0x5567007F0C41, .cred 5 6 7 1 2 3 63 true),
   (0x6567002F8C41, .cres 5 6 7 1 2 3 31 .g128),
   (0x756700002041, .cwld 5 6 7 1 2 true),
   (0x856700007FC1, .cmig 5 6 7 1 63 true 3),
   (0x956700004FC1, .crly 5 6 7 1 63 2),
   (0xA567000027E1, .cfil 5 6 7 1 63 true),
   (0xB5000007E103, .cnest 5 true 1 2 63),
   (0xD567000007E1, .cmcs 5 6 7 1 63)]

theorem test_copy_words : copyWords.all (fun p => decide (decodeSlot (.c (CRaw.unpack p.1)) = .ok p.2) &&
    decide (encodeSlot p.2 = some (.c (CRaw.unpack p.1))) && p.2.wf) = true := by decide +kernel

/-- Words of the synchronisation slot, from the fields of the spec, and the instructions they are. -/
def syncWordsA : List (BitVec 40 × Instr) :=
  [(0x0A80FFFFFF, .br 5 (.disp 0xFFFFFF)),
   (0x0AFF000000, .br 5 (.reg 63)),
   (0x12F4000003, .brc 5 14 true 3),
   (0x1ABF000003, .call 5 63 (.disp 3)),
   (0x1AFF000009, .call 5 63 (.reg 9)),
   (0x228000003F, .ret 5 63),
   (0x2ADFF1FFFF, .loop 5 2 true 255 (.imm 0xFFFF)),
   (0x32A04E003F, .loopr 5 1 false 4 7 (.reg 63)),
   (0x3A80008001, .waite 5 0x8001),
   (0x4280000003, .bsp 5 .package),
   (0x4A80048001, .fence 5 0x8001 .system),
   (0x5280008001, .publish 5 0x8001),
   (0x5A9FFF8001, .swapb 5 0x8001 31 63 true true),
   (0x6280002FC1, .probe 5 1 63 .at),
   (0x6A8007F081, .ckts 5 1 2 63 true),
   (0x72807FFEFF, .cktv 5 255 254 15 7),
   (0x7A803FFFFF, .trap 5 63 0xFFFF),
   (0x828000003F, .enq 5 63),
   (0x8A8000003F, .spawn 5 63),
   (0x9280000000, .endTask 5),
   (0x9A8000003F, .dictld 5 63),
   (0xA280000000, .dictsw 5),
   (0xAA80000FC1, .rdtime 5 1 63),
   (0xB280000003, .setrpl 5 (.disp 3))]

theorem test_sync_words_a : syncWordsA.all (fun p => decide (decodeSlot (.y (YRaw.unpack p.1)) = .ok p.2) &&
    decide (encodeSlot p.2 = some (.y (YRaw.unpack p.1))) && p.2.wf) = true := by decide +kernel

/-- Words of the synchronisation slot, from the fields of the spec, and the instructions they are. -/
def syncWordsB : List (BitVec 40 × Instr) :=
  [(0x7A803FFFFF, .trap 5 63 0xFFFF),
   (0x828000003F, .enq 5 63),
   (0x8A8000003F, .spawn 5 63),
   (0x9280000000, .endTask 5),
   (0x9A8000003F, .dictld 5 63),
   (0xA280000000, .dictsw 5),
   (0xAA80000FC1, .rdtime 5 1 63),
   (0xB280000003, .setrpl 5 (.disp 3)),
   (0xB2FF000000, .setrpl 5 (.reg 63)),
   (0xBA800007FF, .qpt 5 15 (some 63)),
   (0xBA8000000F, .qpt 5 15 none),
   (0xC280000000, .eret 5),
   (0xCA80002FC1, .inval 5 1 63 .all),
   (0xD280003FC1, .wcsld 5 3 1 63),
   (0xDA80000000, .halt 5)]

theorem test_sync_words_b : syncWordsB.all (fun p => decide (decodeSlot (.y (YRaw.unpack p.1)) = .ok p.2) &&
    decide (encodeSlot p.2 = some (.y (YRaw.unpack p.1))) && p.2.wf) = true := by decide +kernel

/-- A vector control whose scalar field is named. -/
def named : VCtl := ⟨.v0, 0, 0, false, none, 0, 9⟩

/-- One whose scalar field is zero. -/
def plain : VCtl := ⟨.v0, 0, 0, false, none, 0, 0⟩

/-- The scalar field is named although no selector reads it (R176, R225). -/
theorem smoke_scalar_field : (([.vadd named .i32 ⟨.rne, false⟩ (.row 0) (.row 1), .vfma named .f32 ⟨.rne, false⟩ (.row 0) (.row 1) (.row 2),
    .vabs named .i32 ⟨.rne, false⟩ (.row 0), .vmulh named .i32 ⟨.rne, false⟩ (.row 0) .zero, .vand named .i32 (.row 0) (.row 1),
    .vshl named .i32 (.row 0) (.row 1), .vcmp ⟨.v0, 0, 0, 9⟩ .i32 .eq (.row 0) (.row 1), .vsel named .i32 0 (.row 0) (.row 1),
    .vbext named .i32 false (.row 0) (.row 1) (.row 2), .vfshr named .i32 (.row 0) (.row 1) (.row 2),
    .vclmul named .i32 false (.row 0) (.row 1), .vpopc named .i32 (.row 0), .vbcast named .i32 (.row 0) (.imm 0),
    .vbcast named .i32 .scalar (.reg 1), .viota named .i32 (.mask 0), .vrsum named .i32 false (.row 0), .vrmax named .i32 (.row 0),
    .vscan named .i32 .add false (.row 0), .vshuf named .i32 (.row 0) (.row 1) (.row 2),
    .vslide named .i32 true .scalar (.row 1) (.imm 0), .vtopk named .i32 1 .scalar, .vcvt named .i32 .f32 ⟨.rne, false⟩ 0 .scalar,
    .vsfu named .f32 .rcp (.row 0), .vmov named .i32 (.row 0), .vmask ⟨.v0, 0, 0, 9⟩ .i32 .nz (.row 0),
    .vqnt named .f32 .e4m3 .g32 .scalar, .vdqnt named .f32 .e4m3 .g32 .scalar,
    .vextr .v0 .i32 0 (.row 0) (.imm 0) 9] : List Instr).all (fun i => !i.wf)) = true := by decide +kernel

/-- A rounding mode on integers, saturation where the entry has none, a type the entry leaves out (R176 and each entry). -/
theorem smoke_types_and_modes : (([.vadd plain .f32 ⟨.rne, true⟩ (.row 0) (.row 1), .vmin plain .i8 ⟨.rz, false⟩ (.row 0) (.row 1),
    .vfma plain .bf16 ⟨.rne, true⟩ (.row 0) (.row 1) (.row 2), .vabs plain .n8 ⟨.rup, false⟩ (.row 0),
    .vmulh plain .f32 ⟨.rne, false⟩ (.row 0) (.row 1), .vmulh plain .i8 ⟨.rdn, false⟩ (.row 0) (.row 1),
    .vshl plain .bf16 (.row 0) (.row 1), .vbext plain .f32 true (.row 0) (.row 1) (.row 2), .vclmul plain .f32 true (.row 0) (.row 1),
    .vclz plain .f32 (.row 0), .viota plain .f32 (.count 0), .vrsum plain .f32 true (.row 0), .vscan plain .f32 .xor false (.row 0),
    .vscan plain .i32 .max true (.row 0), .vscan plain .f32 .add true (.row 0), .vtopk plain .i8 1 (.row 0),
    .vtopk plain .n8 1 (.row 0), .vtopk plain .i32 0 (.row 0), .vtopk plain .i32 17 (.row 0),
    .vcvt plain .f32 .i32 ⟨.rne, true⟩ 0 (.row 0), .vsfu plain .i32 .exp2 (.row 0), .vmask ⟨.v0, 1, 0, 0⟩ .i32 .raw (.row 0),
    .vqnt plain .i32 .e4m3 .g32 (.row 0), .vqnt ⟨.v0, 1, 0, false, none, 0, 0⟩ .f32 .e4m3 .g32 (.row 0),
    .vqnt plain .f32 .int8 .g32 (.row 0), .vqnt plain .f32 .px6 .g64 (.row 0), .vdqnt plain .i32 .px4 .g32 (.row 0),
    .vdqnt plain .bf16 .n8 .g32 (.row 0), .vdqnt plain .bf16 .px9 .g128 (.row 0)] : List Instr).all (fun i => !i.wf)) = true := by
  decide +kernel

/-- Lengths, fields, widths, formats and latencies that no encoding holds. -/
theorem smoke_fields : (([.bext 0 0 0 0 (some 0) (some 65), .bexts 0 0 0 1 (some 0) (some 0), .bins 0 0 0 0 none (some 127),
    .hadd 0 .space 0 0, .hadd 0 .fmt 0 0, .xpln ⟨0, 0, .row 0, 0⟩ .fp32, .xtrn ⟨0, 0, .row 0, 0⟩ .bytes,
    .xcvt ⟨0, 0, .row 0, 0⟩ .int64 .fp32 .g32 false, .xcvt ⟨0, 0, .row 0, 0⟩ .fp32 .bytes .g32 false,
    .ldm 0 0 0 0 .b false false 0 0, .vldp 0 0 0 0 .w32 .w64 false 0 0, .vldp 0 0 0 0 .w8 .w8 false 0 0,
    .vldg 0 0 0 0 .w64 0 0 0 0, .vsts 0 0 0 0 .w64 0 0 0 0, .ats 0 0 .add false 0 false 0 1 0 0, .atm 0 0 .add false 0 0 1 0 0,
    .cpya 0 0 0 .fp32 0 .g32 false, .cpyb 0 0 0 .n16 0 .g32 false, .mcfg 0 9 0, .ldwRpl 1] : List Instr).all (fun i => !i.wf)) = true := by
  decide +kernel

/-- Reserved opcodes and fields are refused by the place of the offending field, and do not fall through to a neighbour (R176). -/
theorem test_reserved_encodings :
    decodeSlot (.s (SRaw.unpack 0x0541083300000000)) = .error (.reserved 32) ∧
    decodeSlot (.s (SRaw.unpack 0xC000000000000000)) = .error (.opcode 48) ∧
    decodeSlot (.m (MRaw.unpack 0xA00000000000)) = .error (.opcode 10) ∧
    decodeSlot (.x (XRaw.unpack 0xC00000000000)) = .error (.opcode 12) ∧
    decodeSlot (.l (LRaw.unpack 0xE000000000000000)) = .error (.opcode 14) ∧
    decodeSlot (.w (WRaw.unpack 0xA0000000000000)) = .error (.opcode 10) ∧
    decodeSlot (.c (CRaw.unpack 0xE00000000000)) = .error (.opcode 14) ∧
    decodeSlot (.y (YRaw.unpack 0xE000000000)) = .error (.opcode 28) ∧
    decodeSlot (.v .v1 (VRaw.unpack 0xA000000000000000)) = .error (.opcode 40) := by decide +kernel

end Sys2Proof.Tests
end

/-! PROOFS. The scalar slot and the address ALU (R203, R206 to R219, R223, R224): what the word arithmetic of the model computes,
as facts about bit vectors, and from them the statements O1, O2, O3 and O5. -/

namespace Sys2Proof.Proofs.Scalar

open Sys2Proof Sys2Proof.Machine Sys2Proof.Safety Sys2Proof.Laws

/-! ### Integers as words (R203) -/

/-- The two's complement reading of a pattern is the signed value of the bit vector. -/
theorem toS_toNat {w : Nat} (hw : 0 < w) (x : BitVec w) : toS w x.toNat = x.toInt := by
  obtain ⟨n, rfl⟩ : ∃ n, w = n + 1 := ⟨w - 1, by omega⟩
  rw [toS, BitVec.toInt_eq_toNat_cond, Nat.add_sub_cancel, Nat.pow_succ]
  push_cast
  split_ifs <;> omega

/-- Truncating an integer to w bits is its residue as a word of w bits. -/
theorem ofNat_trunc (w : Nat) (z : Int) : BitVec.ofNat w (trunc w z) = BitVec.ofInt w z := by
  apply BitVec.eq_of_toNat_eq
  rw [BitVec.toNat_ofNat, BitVec.toNat_ofInt, trunc, Nat.mod_eq_of_lt]
  have h : (0 : Int) < (2 ^ w : Nat) := by positivity
  have := Int.emod_lt_of_pos z h
  omega

theorem ofInt_toInt_sub (x y : Word) : BitVec.ofInt 64 (x.toInt - y.toInt) = x - y := by
  apply BitVec.eq_of_toInt_eq
  rw [BitVec.toInt_ofInt, BitVec.toInt_sub]

theorem narrow_wrap_add (x y : Word) : narrow .wrap (readM .wrap x + readM .wrap y) = x + y := by
  simp only [narrow, readM, BitVec.ofInt_add, BitVec.ofInt_toInt]

theorem narrow_wrap_sub (x y : Word) : narrow .wrap (readM .wrap x - readM .wrap y) = x - y :=
  ofInt_toInt_sub x y

theorem narrow_wrap_mul (x y : Word) : narrow .wrap (readM .wrap x * readM .wrap y) = x * y := by
  simp only [narrow, readM, BitVec.ofInt_mul, BitVec.ofInt_toInt]

theorem narrow_sat (z : Int) : narrow .sat z = BitVec.ofInt 64 (max (-2 ^ 63) (min (2 ^ 63 - 1) z)) := by
  simp only [narrow, clamp_eq _ _ z (show intLo true 64 ≤ intHi true 64 by decide)]
  rfl

theorem narrow_satn (z : Int) : narrow .satn z = BitVec.ofInt 64 (max 0 (min (2 ^ 64 - 1) z)) := by
  simp only [narrow, clamp_eq _ _ z (show 0 ≤ intHi false 64 by decide)]
  rfl

theorem narrow_wrap_imm (x : Word) (imm : BitVec 32) :
    narrow .wrap (readM .wrap x + imm.toInt) = x + imm.signExtend 64 := by
  simp only [narrow, readM, BitVec.ofInt_add, BitVec.ofInt_toInt]; rfl

/-- An unsigned sum needs no lower bound. -/
theorem narrow_satn_imm (x : Word) (imm : BitVec 32) :
    narrow .satn (readM .satn x + imm.toNat) = BitVec.ofInt 64 (min (2 ^ 64 - 1) ((x.toNat : Int) + imm.toNat)) := by
  rw [narrow_satn, max_eq_right (by simp only [readM]; omega)]; rfl

/-! ### High halves of products (R206) -/

/-- Bits 127:64 of a word are its signed value over 2^64, rounded down. -/
theorem extractLsb'_high_eq_ofInt (p : BitVec 128) : p.extractLsb' 64 64 = BitVec.ofInt 64 (p.toInt / 2 ^ 64) := by
  apply BitVec.eq_of_toNat_eq
  have hp := p.isLt
  rw [BitVec.extractLsb'_toNat, BitVec.toNat_ofInt, BitVec.toInt_eq_toNat_cond, Nat.shiftRight_eq_div_pow]
  push_cast
  split_ifs <;> omega

/-- Two signed words multiply exactly in 128 bits. -/
theorem toInt_signExtend_mul (x y : Word) :
    (x.signExtend 128 * y.signExtend 128).toInt = x.toInt * y.toInt := by
  have hx : |x.toInt| ≤ 2 ^ 63 := abs_le.2 ⟨BitVec.le_toInt x, (BitVec.toInt_lt (x := x)).le⟩
  have hy : |y.toInt| ≤ 2 ^ 63 := abs_le.2 ⟨BitVec.le_toInt y, (BitVec.toInt_lt (x := y)).le⟩
  have h : |x.toInt * y.toInt| ≤ 2 ^ 63 * 2 ^ 63 := by
    rw [abs_mul]; exact mul_le_mul hx hy (abs_nonneg _) (by positivity)
  rw [abs_le] at h
  rw [BitVec.toInt_mul, BitVec.toInt_signExtend_of_le (by decide), BitVec.toInt_signExtend_of_le (by decide)]
  exact Int.bmod_eq_of_le (by omega) (by omega)

theorem mulh_eq (x y : Word) : BitVec.ofInt 64 (x.toInt * y.toInt / 2 ^ 64) =
    (x.signExtend 128 * y.signExtend 128).extractLsb' 64 64 := by
  rw [extractLsb'_high_eq_ofInt, toInt_signExtend_mul]

theorem mulhn_eq (x y : Word) : BitVec.ofNat 64 (x.toNat * y.toNat / 2 ^ 64) =
    (x.zeroExtend 128 * y.zeroExtend 128).extractLsb' 64 64 := by
  have h : x.toNat * y.toNat < 2 ^ 128 :=
    (Nat.mul_lt_mul'' x.isLt y.isLt).trans_eq (by norm_num)
  apply BitVec.eq_of_toNat_eq
  rw [BitVec.extractLsb'_toNat, BitVec.toNat_mul, BitVec.toNat_setWidth_of_le (by decide),
    BitVec.toNat_setWidth_of_le (by decide), Nat.mod_eq_of_lt h, Nat.shiftRight_eq_div_pow, BitVec.toNat_ofNat]

/-! ### Minimum and maximum (R206) -/

/-- The two ways to ask for the smaller operand, the first of equal ones. -/
theorem ite_lt_eq_ite_le_swap {α : Type} [LinearOrder α] (p q : α) (x y : Word) :
    (if q < p then y else x) = if p ≤ q then x else y := by
  simp only [← not_le, ite_not]

/-- Which operand a maximum of equal values picks does not matter. -/
theorem ite_lt_eq_ite_le {α : Type} [LinearOrder α] {f : Word → α} (hf : Function.Injective f) (x y : Word) :
    (if f x < f y then y else x) = if f x ≤ f y then y else x := by
  rcases lt_trichotomy (f x) (f y) with h | h | h
  · rw [if_pos h, if_pos h.le]
  · rw [hf h, ite_self, ite_self]
  · rw [if_neg h.asymm, if_neg h.not_ge]

/-! ### Carry-less product (R206) -/

/-- One step of R206's 127-bit carry-less product: add x · 2^i when bit i of y is set. -/
def clmulStep (x y : Word) (c : BitVec 127) (i : Nat) : BitVec 127 :=
  if y.getLsbD i then c ^^^ (x.zeroExtend 127 <<< i) else c

theorem toNat_zeroExtend_shiftLeft (x : Word) {i : Nat} (hi : i < 64) :
    (x.zeroExtend 127 <<< i).toNat = x.toNat <<< i := by
  have h : x.toNat * 2 ^ i < 2 ^ 127 := calc
    x.toNat * 2 ^ i < 2 ^ 64 * 2 ^ i := Nat.mul_lt_mul_of_pos_right x.isLt (by positivity)
    _ ≤ 2 ^ 64 * 2 ^ 63 := Nat.mul_le_mul_left _ (Nat.pow_le_pow_right (by decide) (by omega))
    _ = 2 ^ 127 := by norm_num
  rw [BitVec.toNat_shiftLeft, BitVec.toNat_setWidth_of_le (by decide), Nat.shiftLeft_eq, Nat.mod_eq_of_lt h]

/-- The fold over the bits of y is the model's product; no bit passes bit 126. -/
theorem toNat_clmul_foldl (x y : Word) (n : Nat) (hn : n ≤ 64) :
    ((List.range n).foldl (clmulStep x y) 0).toNat = clmulGo x.toNat y.toNat n := by
  induction n with
  | zero => rfl
  | succ n ih =>
    have hbit : (y.toNat >>> n % 2 = 1) = (y.getLsbD n = true) := by
      rw [← BitVec.testBit_toNat, Nat.testBit_eq_decide_div_mod_eq, Nat.shiftRight_eq_div_pow, decide_eq_true_eq]
    rw [List.range_succ, List.foldl_append, List.foldl_cons, List.foldl_nil, clmulGo, ← ih (by omega), clmulStep]
    simp only [hbit]
    split
    · rw [BitVec.toNat_xor, toNat_zeroExtend_shiftLeft x (by omega)]
    · rw [Nat.xor_zero]

theorem clmul_low (x y : Word) : BitVec.ofNat 64 (clmul 64 x.toNat y.toNat) =
    ((List.range 64).foldl (clmulStep x y) 0).extractLsb' 0 64 := by
  rw [clmul, ← toNat_clmul_foldl x y 64 le_rfl]; rfl

theorem clmul_high (x y : Word) : BitVec.ofNat 64 (clmul 64 x.toNat y.toNat >>> 64) =
    (((List.range 64).foldl (clmulStep x y) 0).extractLsb' 64 63).zeroExtend 64 := by
  rw [clmul, ← toNat_clmul_foldl x y 64 le_rfl]
  generalize (List.range 64).foldl (clmulStep x y) 0 = c
  have := c.isLt
  apply BitVec.eq_of_toNat_eq
  rw [BitVec.toNat_setWidth_of_le (by decide), BitVec.extractLsb'_toNat, BitVec.toNat_ofNat, Nat.shiftRight_eq_div_pow]
  omega

/-! ### Division (R207) -/

theorem toInt_eq_zero_iff (y : Word) : y.toInt = 0 ↔ y = 0 := by
  rw [← BitVec.toInt_inj]; rfl

theorem toNat_cast_eq_zero_iff (y : Word) : (y.toNat : Int) = 0 ↔ y = 0 := by
  rw [← BitVec.toNat_inj]; exact Int.natCast_eq_zero

/-- The word that a division of either kind lands. -/
def divResult (sgn quot : Bool) (x y : Word) : Word :=
  let r (v : Word) : Int := if sgn then v.toInt else v.toNat
  let qr := divRem sgn (r x) (r y)
  BitVec.ofInt 64 (if quot then qr.1 else qr.2)

theorem div_eq (x y : Word) : divResult true true x y = if y = 0 then BitVec.allOnes 64 else x.sdiv y := by
  simp only [divResult, divRem, if_true, toInt_eq_zero_iff, true_and]
  split_ifs with h0 hov
  · rfl
  · apply BitVec.eq_of_toInt_eq
    rw [BitVec.toInt_sdiv, hov.1, hov.2]; decide
  · apply BitVec.eq_of_toInt_eq
    rw [BitVec.toInt_sdiv, BitVec.toInt_ofInt]

theorem rem_eq (x y : Word) : divResult true false x y = if y = 0 then x else x.srem y := by
  simp only [divResult, divRem, if_true, toInt_eq_zero_iff, true_and, Bool.false_eq_true, if_false]
  split_ifs with h0 hov
  · exact BitVec.ofInt_toInt
  · apply BitVec.eq_of_toInt_eq
    rw [BitVec.toInt_srem, hov.1, hov.2]; decide
  · rw [← BitVec.toInt_srem, BitVec.ofInt_toInt]

theorem divn_eq (x y : Word) : divResult false true x y = if y = 0 then BitVec.allOnes 64 else x / y := by
  simp only [divResult, divRem, if_true, toNat_cast_eq_zero_iff, Bool.false_eq_true, false_and, if_false]
  split_ifs
  · rfl
  · rw [← Int.ofNat_tdiv, BitVec.ofInt_natCast, ← BitVec.toNat_udiv, BitVec.ofNat_toNat, BitVec.setWidth_eq]

theorem remn_eq (x y : Word) : divResult false false x y = if y = 0 then x else x % y := by
  simp only [divResult, divRem, toNat_cast_eq_zero_iff, Bool.false_eq_true, false_and, if_false]
  split_ifs
  · rw [BitVec.ofInt_natCast, BitVec.ofNat_toNat, BitVec.setWidth_eq]
  · rw [← Int.ofNat_tmod, BitVec.ofInt_natCast, ← BitVec.toNat_umod, BitVec.ofNat_toNat, BitVec.setWidth_eq]

/-! ### Shifts (R210, R211) -/

theorem shlW_eq (x : Word) (n : Nat) : shlW x n = x <<< n := by
  rw [shlW, shlN]
  split_ifs with h
  · exact (BitVec.shiftLeft_eq_zero h).symm
  · rw [← BitVec.toNat_shiftLeft, BitVec.ofNat_toNat, BitVec.setWidth_eq]

theorem shrW_eq (x : Word) (n : Nat) : shrW x n = x >>> n := by
  rw [shrW, shrN]
  split_ifs with h
  · exact (BitVec.ushiftRight_eq_zero h).symm
  · rw [← BitVec.toNat_ushiftRight, BitVec.ofNat_toNat, BitVec.setWidth_eq]

/-- An arithmetic shift by the width or more leaves copies of the sign. -/
theorem sshiftRight_min (x : Word) (n : Nat) : x.sshiftRight (min n 64) = x.sshiftRight n := by
  rcases le_total n 64 with h | h
  · rw [min_eq_left h]
  · rw [min_eq_right h]
    ext i hi
    rw [BitVec.getElem_sshiftRight, BitVec.getElem_sshiftRight, dif_neg (by omega), dif_neg (by omega)]

theorem sarW_eq (x : Word) (n : Nat) : sarW x n = x.sshiftRight n := by
  rw [sarW, sarN, ofNat_trunc, toS_toNat (by decide), ← Int.shiftRight_eq_div_pow, ← BitVec.toInt_sshiftRight,
    BitVec.ofInt_toInt, sshiftRight_min]

theorem rolN_eq (x : Word) (n : Nat) : BitVec.ofNat 64 (rolN x.toNat n) = x.rotateLeft n := by
  have h : x.toNat >>> (64 - n % 64) < 2 ^ 64 := (Nat.shiftRight_le _ _).trans_lt x.isLt
  apply BitVec.eq_of_toNat_eq
  rw [BitVec.toNat_rotateLeft, BitVec.toNat_ofNat, rolN, Nat.mod_mod, Nat.or_mod_two_pow, Nat.mod_eq_of_lt h]

theorem fshr_eq (x y : Word) (k : Nat) : BitVec.ofNat 64 ((x.toNat * 2 ^ 64 + y.toNat) >>> k) =
    ((x ++ y) >>> k).setWidth 64 := by
  apply BitVec.eq_of_toNat_eq
  rw [BitVec.toNat_setWidth, BitVec.toNat_ushiftRight, BitVec.toNat_append, ← Nat.shiftLeft_add_eq_or_of_lt y.isLt,
    Nat.shiftLeft_eq, BitVec.toNat_ofNat]

/-! ### Fields of a bit vector (R212, R219) -/

theorem fieldOf_eq (x : Word) (pos len : Nat) : fieldOf x.toNat pos len = (x.extractLsb' pos len).toNat :=
  (BitVec.extractLsb'_toNat pos len x).symm

theorem hbits_eq (h : Handle) (lo w : Nat) : hbits h lo w = (h.extractLsb' lo w).toNat :=
  (BitVec.extractLsb'_toNat lo w h).symm

/-- A field read as a signed number is the field sign-extended. -/
theorem ofInt_toS {w : Nat} (hw : 0 < w) (x : BitVec w) (n : Nat) : BitVec.ofInt n (toS w x.toNat) = x.signExtend n := by
  rw [toS_toNat hw]; rfl

/-- A mask of w ones from bit lo on. -/
theorem getLsbD_mask (n w lo k : Nat) (hk : k < n) :
    (BitVec.ofNat n ((2 ^ w - 1) <<< lo)).getLsbD k = decide (lo ≤ k ∧ k < lo + w) := by
  rw [BitVec.getLsbD_ofNat, Nat.testBit_shiftLeft, Nat.testBit_two_pow_sub_one, Bool.eq_iff_iff]
  simp only [Bool.and_eq_true, decide_eq_true_eq]
  omega

/-- Writing under a mask takes a bit of the new value where the mask has it. -/
theorem getLsbD_merge {n : Nat} (old new m : BitVec n) (k : Nat) (hk : k < n) :
    ((old &&& ~~~m) ||| (new &&& m)).getLsbD k = if m.getLsbD k then new.getLsbD k else old.getLsbD k := by
  rw [BitVec.getLsbD_or, BitVec.getLsbD_and, BitVec.getLsbD_and, BitVec.getLsbD_not]
  cases m.getLsbD k <;> simp [hk]

/-- The value v placed at bit lo, under a mask of w ones there, replaces that field and nothing else. -/
theorem getLsbD_merge_field {n : Nat} (old : BitVec n) (v w lo k : Nat) (hk : k < n) :
    ((old &&& ~~~BitVec.ofNat n ((2 ^ w - 1) <<< lo)) |||
      (BitVec.ofNat n (v <<< lo) &&& BitVec.ofNat n ((2 ^ w - 1) <<< lo))).getLsbD k =
      if lo ≤ k ∧ k < lo + w then v.testBit (k - lo) else old.getLsbD k := by
  rw [getLsbD_merge _ _ _ _ hk, getLsbD_mask _ _ _ _ hk, BitVec.getLsbD_ofNat, Nat.testBit_shiftLeft]
  simp only [decide_eq_true_eq]
  split_ifs with h
  · simp [hk, h.1]
  · rfl

/-- The length of R212: the immediate, or bits 14:8 of the register, at most 64. -/
def fieldLen (l : Option (BitVec 7)) (y : Word) : Nat :=
  match l with
  | some v => v.toNat
  | none => min (y.extractLsb' 8 7).toNat 64

theorem bfLen_eq_fieldLen (s : State) (b : SReg) (l : Option (BitVec 7)) : bfLen s b l = fieldLen l (s.sreg b) := by
  cases l with
  | some v => rfl
  | none => rw [bfLen, fieldLen, BitVec.extractLsb'_toNat, Nat.shiftRight_eq_div_pow]

theorem getLsbD_bext (x : Word) (pos len i : Nat) (hi : i < 64) :
    (BitVec.ofNat 64 (fieldOf x.toNat pos len)).getLsbD i = (decide (i < len) && x.getLsbD (pos + i)) := by
  rw [fieldOf_eq, BitVec.ofNat_toNat, BitVec.getLsbD_setWidth, BitVec.getLsbD_extractLsb', decide_eq_true hi, Bool.true_and]

theorem getLsbD_bexts (x : Word) (pos len i : Nat) (hi : i < 64) :
    (if len = 0 then 0 else BitVec.ofInt 64 (toS len (fieldOf x.toNat pos len))).getLsbD i =
      (decide (0 < len) && x.getLsbD (pos + if i < len then i else len - 1)) := by
  rcases Nat.eq_zero_or_pos len with h | h
  · simp [h]
  · rw [if_neg h.ne', fieldOf_eq, ofInt_toS h, BitVec.getLsbD_signExtend, BitVec.msb_eq_getLsbD_last,
      BitVec.getLsbD_extractLsb', BitVec.getLsbD_extractLsb', decide_eq_true hi, decide_eq_true h]
    split_ifs with hlen
    · simp [hlen]
    · simp [h]

/-! ### Bit counts and reversal (R213) -/

/-- The lowest bit of the low n + 1 bits of x, and the bits above it. -/
theorem mod_two_pow_succ_mod_two (x n : Nat) : x % 2 ^ (n + 1) % 2 = x % 2 :=
  Nat.mod_mod_of_dvd x (Dvd.intro_left (2 ^ n) rfl)

theorem mod_two_pow_succ_div_two (x n : Nat) : x % 2 ^ (n + 1) / 2 = x / 2 % 2 ^ n := by
  rw [Nat.pow_succ', Nat.mod_mul_right_div_self]

theorem clzN_mod (n x : Nat) : clzN n (x % 2 ^ n) = ((List.range n).reverse.takeWhile (fun i => !x.testBit i)).length := by
  induction n with
  | zero => simp [clzN, Nat.mod_one]
  | succ n ih =>
    have hlt : x % 2 ^ n < 2 ^ n := Nat.mod_lt _ (by positivity)
    rw [List.range_succ, List.reverse_append, List.reverse_singleton, List.singleton_append, List.takeWhile_cons,
      Nat.mod_pow_succ, ← Nat.toNat_testBit]
    cases x.testBit n with
    | true =>
      have hlog : (x % 2 ^ n + 2 ^ n * 1).log2 = n :=
        (Nat.log2_eq_iff (by omega)).2 ⟨by omega, by rw [Nat.pow_succ]; omega⟩
      simp only [Bool.toNat_true, Bool.not_true, Bool.false_eq_true, if_false, List.length_nil, clzN, hlog]
      rw [if_neg (by omega)]; omega
    | false =>
      simp only [Bool.toNat_false, Nat.mul_zero, Nat.add_zero, Bool.not_false, if_true, List.length_cons, ← ih, clzN]
      split_ifs with h0
      · rfl
      · have := (Nat.log2_lt h0).2 hlt
        omega

theorem ctzGo_mod (n x : Nat) : ctzGo n (x % 2 ^ n) = ((List.range n).takeWhile (fun i => !x.testBit i)).length := by
  induction n generalizing x with
  | zero => rfl
  | succ n ih =>
    have hbit : (fun i => !x.testBit i) ∘ Nat.succ = fun i => !(x / 2).testBit i := by
      funext i; simp [Nat.testBit_succ]
    rw [ctzGo, mod_two_pow_succ_mod_two, mod_two_pow_succ_div_two, ih, List.range_succ_eq_map, List.takeWhile_cons,
      List.takeWhile_map, hbit, Nat.testBit_zero]
    by_cases h : x % 2 = 1
    · simp [h]
    · simp [h, Nat.add_comm]

theorem popcGo_mod (n x : Nat) : popcGo n (x % 2 ^ n) = ((List.range n).filter (fun i => x.testBit i)).length := by
  induction n generalizing x with
  | zero => rfl
  | succ n ih =>
    have hbit : (fun i => x.testBit i) ∘ Nat.succ = fun i => (x / 2).testBit i := by
      funext i; simp [Nat.testBit_succ]
    rw [popcGo, mod_two_pow_succ_mod_two, mod_two_pow_succ_div_two, ih, List.range_succ_eq_map, List.filter_cons,
      List.filter_map, hbit, Nat.testBit_zero]
    by_cases h : x % 2 = 1
    · simp [h, Nat.add_comm]
    · have : x % 2 = 0 := by omega
      simp [this]

/-- Reversal pushes the bits of x, lowest first, onto the accumulator. -/
theorem testBit_brevGo (n x acc i : Nat) :
    (brevGo n x acc).testBit i = if i < n then x.testBit (n - 1 - i) else acc.testBit (i - n) := by
  induction n generalizing x acc with
  | zero => rfl
  | succ n ih =>
    rw [brevGo, ih]
    rcases lt_trichotomy i n with h | h | h
    · rw [if_pos h, if_pos (by omega), ← Nat.testBit_succ]
      congr 1; omega
    · subst h
      simp [Nat.testBit_zero]
    · obtain ⟨k, rfl⟩ : ∃ k, i = n + 1 + k := ⟨i - (n + 1), by omega⟩
      rw [if_neg (by omega), if_neg (by omega), show n + 1 + k - n = k + 1 by omega, Nat.testBit_succ,
        Nat.add_sub_cancel_left]
      congr 1; omega

theorem getLsbD_brevGo {n i : Nat} (x : Word) (hi : i < 64) :
    (BitVec.ofNat 64 (brevGo n (x.toNat % 2 ^ n) 0)).getLsbD i = (decide (i < n) && x.getLsbD (n - 1 - i)) := by
  rw [BitVec.getLsbD_ofNat, testBit_brevGo, Nat.testBit_mod_two_pow, BitVec.testBit_toNat, decide_eq_true hi]
  split_ifs with h
  · simp [h, show n - 1 - i < n by omega]
  · simp [h]

/-! ### Conditions, constants and handle fields (R214, R215, R217, R219) -/

/-- The conditions as comparisons of bit vectors. -/
def holds (cc : CCond) (x y : Word) : Bool :=
  match cc with
  | .eq => decide (x = y)
  | .ne => decide (x ≠ y)
  | .lt => x.slt y
  | .ge => !x.slt y
  | .ltn => x.ult y
  | .gen => !x.ult y
  | .le => !y.slt x
  | .gt => y.slt x
  | .len => !y.ult x
  | .gtn => y.ult x
  | .tst => decide (x &&& y ≠ 0)
  | .ntst => decide (x &&& y = 0)

theorem cond_eq_holds (cc : CCond) (x y : Word) : cond cc x y = holds cc x y := by
  cases cc with
  | eq | ne | tst | ntst => rfl
  | lt | gt => exact BitVec.slt_eq_decide.symm
  | ltn | gtn => exact BitVec.ult_eq_decide.symm
  | ge | le => exact BitVec.sle_eq_decide.symm.trans BitVec.sle_eq_not_slt
  | gen | len => exact BitVec.ule_eq_decide.symm.trans (BitVec.ule_eq_not_ult _ _)

theorem plog_index (q r : Bool) : 2 * q.toNat + r.toNat = (if q then 2 else 0) + if r then 1 else 0 := by
  cases q <;> cases r <;> rfl

theorem append_extractLsb'_low (imm : BitVec 32) (x : Word) : imm ++ x.extractLsb' 0 32 = imm ++ x.setWidth 32 := by
  rw [BitVec.setWidth_eq_extractLsb' (by decide)]

theorem hselSigned_iff (f : HSel) : hselSigned f = true ↔ f = .field .st1 ∨ f = .field .st2 ∨ f = .field .st3 := by
  cases f with
  | field f => cases f <;> simp [hselSigned]
  | word q => simp [hselSigned]

theorem hselAt_width_pos (f : HSel) : 0 < (hselAt f).2 := by
  cases f with
  | field f => cases f <;> decide
  | word q => exact Nat.succ_pos 63

/-- What HGET reads: a stride sign-extended, any other field or word zero-extended. -/
theorem hget_value (f : HSel) (h : Handle) :
    (if hselSigned f then BitVec.ofInt 64 (toS (hselAt f).2 (hbits h (hselAt f).1 (hselAt f).2))
      else BitVec.ofNat 64 (hbits h (hselAt f).1 (hselAt f).2)) =
    if f = .field .st1 ∨ f = .field .st2 ∨ f = .field .st3 then
      (h.extractLsb' (hselAt f).1 (hselAt f).2).signExtend 64
    else (h.extractLsb' (hselAt f).1 (hselAt f).2).zeroExtend 64 := by
  rw [hbits_eq, ofInt_toS (hselAt_width_pos f), BitVec.ofNat_toNat]
  exact if_congr (hselSigned_iff f) rfl rfl

/-- A value cut to the field's width and written under its mask replaces the field and nothing else. -/
theorem getLsbD_merge_hmask (old : Handle) (lo w v k : Nat) (hk : k < 256) :
    ((old &&& ~~~hmask lo w) ||| (BitVec.ofNat 256 ((v % 2 ^ w) <<< lo) &&& hmask lo w)).getLsbD k =
      if lo ≤ k ∧ k < lo + w then v.testBit (k - lo) else old.getLsbD k := by
  rw [hmask, getLsbD_merge_field _ _ _ _ _ hk, Nat.testBit_mod_two_pow]
  split_ifs with h
  · rw [decide_eq_true (by omega), Bool.true_and]
  · rfl

/-! ### Issue with a named result -/

section Issue

variable {s : State} {g : PReg}

/-- An S operation of either guard: its unit is busy for its cycles, and the effect is there when the guard is true. -/
theorem sIssue_eq (srcs : List SReg) (n : Nat) (eff : State → State) (hr : Ready s) :
    sIssue g srcs n eff s = .next (State.occupyS n (if s.preg g then eff s else s)) := by
  cases hg : s.preg g with
  | true => rw [sIssue_ready g srcs n eff hr hg, if_pos rfl]
  | false => rw [sIssue, issue_off _ _ _ _ _ _ _ hr hg, if_neg Bool.false_ne_true]

theorem sDiv_gives {sgn quot : Bool} {d a b : SReg} {v : Word} (hr : Ready s)
    (hv : divResult sgn quot (s.sreg a) (s.sreg b) = v) :
    sDiv g sgn quot d a b s = .next (State.occupyS 18 (if s.preg g then s.landS 18 .s d v else s)) :=
  hv ▸ sIssue_eq [a, b] 18 _ hr

variable (hr : Ready s) (hg : s.preg g = true)
include hr hg

theorem sTwo_gives {lat : Nat} {d a b : SReg} {f : Word → Word → Word} {v : Word}
    (hv : f (s.sreg a) (s.sreg b) = v) : sTwo g lat d a b f s = .next (State.occupyS 1 (s.landS lat .s d v)) :=
  hv ▸ sTwo_ready g lat d a b f hr hg

theorem sOne_gives {srcs : List SReg} {d : SReg} {f : State → Word} {v : Word} (hv : f s = v) :
    sOne g srcs d f s = .next (State.occupyS 1 (s.landS 1 .s d v)) :=
  hv ▸ sOne_ready g srcs d f hr hg

theorem sUn_gives {d a : SReg} {f : Word → Word} {v : Word} (hv : f (s.sreg a) = v) :
    sUn g d a f s = .next (State.occupyS 1 (s.landS 1 .s d v)) :=
  sOne_gives hr hg hv

theorem sPred_gives {srcs : List Mark} {d : PReg} {f : State → Bool} {v : Bool} (hs : rowsOf srcs = []) (hv : f s = v) :
    sPred g srcs d f s = .next (State.occupyS 1 (s.landP 1 .s d v)) :=
  hv ▸ sPred_ready g srcs d f hr hg hs

/-- An S operation that reads handles or predicates beside scalars. -/
theorem sMarks_ready (srcs : List Mark) (eff : State → State) (hs : rowsOf srcs = []) :
    issue .s g srcs s.sBusy none (State.occupyS 1) eff s = .next (State.occupyS 1 (eff s)) :=
  issue_ready_noRows _ _ _ _ _ _ _ hr hg sBusy_free (fun _ => rfl) hs

theorem axOp_gives {slot : Slot} {srcs : List SReg} {d : SReg} {f : State → Word} {v : Word} (hv : f s = v) :
    axOp slot g srcs d f s = .next (s.landS 1 slot d v) :=
  hv ▸ axOp_ready slot g srcs d f hr hg

end Issue

/-! ### The field operations issued (R212, R213) -/

section Fields

variable {s : State} {g : PReg} (hr : Ready s) (hg : s.preg g = true) (d a b : SReg) {p : Option (BitVec 6)}
  {l : Option (BitVec 7)} {pos len : Nat} (hp : bfPos s b p = pos) (hl : bfLen s b l = len)
include hr hg

include hp hl in
theorem exec_bext_field : ∃ v : Word,
    (∀ i < 64, v.getLsbD i = (decide (i < len) && (s.sreg a).getLsbD (pos + i))) ∧
      exec (.bext g d a b p l) s = .next (State.occupyS 1 (s.landS 1 .s d v)) := by
  subst hp hl
  exact ⟨_, getLsbD_bext _ _ _, exec_bext.trans (sOne_gives hr hg rfl)⟩

include hp hl in
theorem exec_bexts_field : ∃ v : Word,
    (∀ i < 64, v.getLsbD i = (decide (0 < len) && (s.sreg a).getLsbD (pos + if i < len then i else len - 1))) ∧
      exec (.bexts g d a b p l) s = .next (State.occupyS 1 (s.landS 1 .s d v)) := by
  subst hp hl
  exact ⟨_, getLsbD_bexts _ _ _, exec_bexts.trans (sOne_gives hr hg rfl)⟩

include hp hl in
theorem exec_bins_field : ∃ v : Word,
    (∀ i < 64, v.getLsbD i =
      if pos ≤ i ∧ i < pos + len then (s.sreg a).getLsbD (i - pos) else (s.sreg d).getLsbD i) ∧
      exec (.bins g d a b p l) s = .next (State.occupyS 1 (s.landS 1 .s d v)) := by
  subst hp hl
  exact ⟨_, fun i hi => getLsbD_merge_field _ _ _ _ i hi, exec_bins.trans (sOne_gives hr hg rfl)⟩

theorem exec_brev_field (w : BitW) : ∃ v : Word,
    (∀ i < 64, v.getLsbD i = (decide (i < bitWN w) && (s.sreg a).getLsbD (bitWN w - 1 - i))) ∧
      exec (.brev g w d a) s = .next (State.occupyS 1 (s.landS 1 .s d v)) :=
  ⟨_, fun _ hi => getLsbD_brevGo _ hi, exec_brev.trans (sUn_gives hr hg rfl)⟩

end Fields

/-! ### The two-source operations and division (O1) -/

/-- Settles O1: each word operation is the integer formula of R206 or R207 on bit vectors, landed by the issue lemmas. -/
theorem integerResults : Obligations.IntegerResults := by
  refine ⟨fun s g d a b hr hg => ?_, fun s g d a b hr => ?_⟩
  · exact ⟨exec_add.trans (sTwo_gives hr hg (narrow_wrap_add _ _)),
      exec_sub.trans (sTwo_gives hr hg (narrow_wrap_sub _ _)),
      exec_mul.trans (sTwo_gives hr hg (narrow_wrap_mul _ _)),
      exec_add.trans (sTwo_gives hr hg (narrow_sat _)),
      exec_sub.trans (sTwo_gives hr hg (narrow_sat _)),
      exec_mul.trans (sTwo_gives hr hg (narrow_sat _)),
      exec_add.trans (sTwo_gives hr hg (narrow_satn _)),
      exec_sub.trans (sTwo_gives hr hg (narrow_satn _)),
      exec_mul.trans (sTwo_gives hr hg (narrow_satn _)),
      exec_mulh.trans (sTwo_gives hr hg (mulh_eq _ _)),
      exec_mulhn.trans (sTwo_gives hr hg (mulhn_eq _ _)),
      exec_and.trans (sTwo_gives hr hg rfl),
      exec_or.trans (sTwo_gives hr hg rfl),
      exec_xor.trans (sTwo_gives hr hg rfl),
      exec_min.trans (sTwo_gives hr hg (ite_lt_eq_ite_le_swap _ _ _ _)),
      exec_max.trans (sTwo_gives hr hg (ite_lt_eq_ite_le (fun _ _ => BitVec.eq_of_toInt_eq) _ _)),
      exec_minn.trans (sTwo_gives hr hg (ite_lt_eq_ite_le_swap _ _ _ _)),
      exec_maxn.trans (sTwo_gives hr hg (ite_lt_eq_ite_le BitVec.toNat_injective _ _)),
      exec_clmuls.trans (sTwo_gives hr hg (clmul_low _ _)),
      exec_clmuls.trans (sTwo_gives hr hg (clmul_high _ _))⟩
  · exact ⟨exec_div.trans (sDiv_gives hr (div_eq _ _)),
      exec_divn.trans (sDiv_gives hr (divn_eq _ _)),
      exec_rem.trans (sDiv_gives hr (rem_eq _ _)),
      exec_remn.trans (sDiv_gives hr (remn_eq _ _))⟩

/-! ### Immediates, shifts and bit fields (O2) -/

/-- Settles O2: shifts and immediates as bit-vector operations, fields and reversal bit by bit, counts by induction on the
width. -/
theorem shiftAndFieldResults : Obligations.ShiftAndFieldResults := by
  refine ⟨fun s g d a b imm n m hr hg => ?_, fun s g d a b p l wd hr hg _ => ?_⟩
  · exact ⟨exec_addi.trans (sUn_gives hr hg (narrow_wrap_imm _ _)),
      exec_addi.trans (sUn_gives hr hg (narrow_sat _)),
      exec_addi.trans (sUn_gives hr hg (narrow_satn_imm _ _)),
      exec_andi.trans (sUn_gives hr hg rfl),
      exec_andi.trans (sUn_gives hr hg rfl),
      exec_ori.trans (sUn_gives hr hg rfl),
      exec_ori.trans (sUn_gives hr hg rfl),
      exec_xori.trans (sUn_gives hr hg rfl),
      exec_xori.trans (sUn_gives hr hg rfl),
      exec_shl.trans (sTwo_gives hr hg (shlW_eq _ _)),
      exec_shr.trans (sTwo_gives hr hg (shrW_eq _ _)),
      exec_sar.trans (sTwo_gives hr hg (sarW_eq _ _)),
      exec_shli.trans (sUn_gives hr hg (shlW_eq _ _)),
      exec_shri.trans (sUn_gives hr hg (shrW_eq _ _)),
      exec_sari.trans (sUn_gives hr hg (sarW_eq _ _)),
      exec_rol.trans (sOne_gives hr hg ((rolN_eq _ _).trans BitVec.rotateLeft_mod_eq_rotateLeft.symm)),
      exec_rol.trans (sOne_gives hr hg (rolN_eq _ _)),
      exec_fshr.trans (sOne_gives hr hg (fshr_eq _ _ _)),
      exec_fshr.trans (sOne_gives hr hg (fshr_eq _ _ _))⟩
  · have hl := bfLen_eq_fieldLen s b l
    exact ⟨exec_bext_field hr hg d a b rfl hl, exec_bexts_field hr hg d a b rfl hl, exec_bins_field hr hg d a b rfl hl,
      exec_clz.trans (sUn_gives hr hg (congrArg (BitVec.ofNat 64) (clzN_mod _ _))),
      exec_ctz.trans (sUn_gives hr hg (congrArg (BitVec.ofNat 64) (ctzGo_mod _ _))),
      exec_popc.trans (sUn_gives hr hg (congrArg (BitVec.ofNat 64) (popcGo_mod _ _))), exec_brev_field hr hg d a wd⟩

/-! ### Predicates, constants and handle fields (O3) -/

/-- Settles O3: conditions as bit-vector comparisons, and a handle field replaced under its mask. -/
theorem predicateConstantAndHandleResults : Obligations.PredicateConstantAndHandleResults := by
  refine ⟨fun s g p q r d a b cc imm tt hr hg => ?_, fun s g d a h f hf hr hg => ?_⟩
  · exact ⟨exec_cmp.trans (sPred_gives hr hg (rowsOf_srcS _ _) (cond_eq_holds _ _ _)),
      exec_cmpi.trans (sPred_gives hr hg (rowsOf_srcS _ _) (cond_eq_holds _ _ _)),
      exec_plog.trans (sPred_gives hr hg rfl (congrArg tt.getLsbD (plog_index _ _))),
      exec_sel.trans (sMarks_ready hr hg _ _ (rowsOf_srcS s [a, b])),
      exec_li.trans (sOne_gives hr hg rfl),
      exec_li.trans (sOne_gives hr hg rfl),
      exec_lih.trans (sOne_gives hr hg (append_extractLsb'_low _ _))⟩
  · refine ⟨⟨_, _, exec_hset.trans (sIssue_ready _ _ _ _ hr hg), fun k hk => getLsbD_merge_hmask _ _ _ _ k hk⟩,
      fun _ => ⟨_, _, exec_hadd.trans (sMarks_ready hr hg _ _ (rowsOf_srcS s [a])), fun k hk => ?_⟩,
      exec_hget.trans ((sMarks_ready hr hg [.h h] _ rfl).trans ?_)⟩
    · rw [← hbits_eq]
      exact getLsbD_merge_hmask _ _ _ _ k hk
    · exact congrArg (fun v => Host.Outcome.next (State.occupyS 1 (s.landS 1 .s d v))) (hget_value f (s.hreg h))

/-! ### The address ALU (O5) -/

/-- Settles O5: the forms of the L and W slots land their result with no unit busy. -/
theorem addressAluResults : Obligations.AddressAluResults := by
  intro s g d a b imm w n hr hg
  exact ⟨exec_axadd.trans (axOp_gives hr hg rfl),
    exec_axadd.trans (axOp_gives hr hg rfl),
    exec_axsub.trans (axOp_gives hr hg rfl),
    exec_axsub.trans (axOp_gives hr hg rfl),
    exec_axlog.trans (axOp_gives hr hg rfl),
    exec_axlog.trans (axOp_gives hr hg rfl),
    exec_axlog.trans (axOp_gives hr hg rfl),
    exec_axlog.trans (axOp_gives hr hg rfl),
    exec_axlog.trans (axOp_gives hr hg rfl),
    exec_axlog.trans (axOp_gives hr hg rfl),
    exec_axlog.trans (axOp_gives hr hg rfl),
    exec_axlog.trans (axOp_gives hr hg rfl),
    exec_axsh.trans (axOp_gives hr hg (shlW_eq _ _)),
    exec_axsh.trans (axOp_gives hr hg (shlW_eq _ _)),
    exec_axsh.trans (axOp_gives hr hg (shrW_eq _ _)),
    exec_axsh.trans (axOp_gives hr hg (shrW_eq _ _)),
    exec_axsh.trans (axOp_gives hr hg (sarW_eq _ _)),
    exec_axsh.trans (axOp_gives hr hg (sarW_eq _ _)),
    exec_wxadd.trans (axOp_gives hr hg rfl),
    exec_wxadd.trans (axOp_gives hr hg rfl),
    exec_wxadd.trans (axOp_gives hr hg rfl),
    exec_wxadd.trans (axOp_gives hr hg rfl)⟩

end Sys2Proof.Proofs.Scalar

/-! PROOFS. Bitwise lane operations and lane masks (R228, R230 to R232, R234 to R236, R246, R247): what the model computes for one
lane or one bit of a mask, and from it the statements O7 and O8. -/

namespace Sys2Proof.Proofs.VectorBits

open Sys2Proof Sys2Proof.Machine Sys2Proof.Safety Sys2Proof.Laws Sys2Proof.Proofs.Scalar

/-! ### Shifts of one lane (R231) -/

theorem shlN_eq_mod (w x n : Nat) : shlN w x n = (x <<< n) % 2 ^ w := by
  rw [shlN, Nat.shiftLeft_eq]
  split_ifs with h
  · exact (Nat.mod_eq_zero_of_dvd (Dvd.dvd.mul_left (pow_dvd_pow 2 h) x)).symm
  · rfl

theorem shrN_eq_shiftRight {w x : Nat} (hx : x < 2 ^ w) (n : Nat) : shrN w x n = x >>> n := by
  rw [shrN, Nat.shiftRight_eq_div_pow]
  split_ifs with h
  · exact (Nat.div_eq_of_lt (hx.trans_le (Nat.pow_le_pow_right (by decide) h))).symm
  · rfl

/-- A pattern of w bits is its own reading as a word of w bits. -/
theorem toNat_ofNat_of_lt {w x : Nat} (hx : x < 2 ^ w) : (BitVec.ofNat w x).toNat = x := by
  rw [BitVec.toNat_ofNat, Nat.mod_eq_of_lt hx]

/-- At any width, an arithmetic shift by the width or more leaves copies of the sign. -/
theorem sshiftRight_min_width {w : Nat} (x : BitVec w) (n : Nat) : x.sshiftRight (min n w) = x.sshiftRight n := by
  rcases le_total n w with h | h
  · rw [min_eq_left h]
  · rw [min_eq_right h]
    ext i hi
    rw [BitVec.getElem_sshiftRight, BitVec.getElem_sshiftRight, dif_neg (by omega), dif_neg (by omega)]

theorem sarN_mod {w x : Nat} (hw : 0 < w) (hx : x < 2 ^ w) (n : Nat) :
    sarN w x n % 2 ^ w = ((BitVec.ofNat w x).sshiftRight n).toNat % 2 ^ w := by
  have h : toS w x = (BitVec.ofNat w x).toInt := by rw [← toS_toNat hw, toNat_ofNat_of_lt hx]
  rw [← BitVec.toNat_ofNat, sarN, ofNat_trunc, h, ← Int.shiftRight_eq_div_pow, ← BitVec.toInt_sshiftRight,
    BitVec.ofInt_toInt, sshiftRight_min_width, Nat.mod_eq_of_lt (BitVec.isLt _)]

/-! ### Fields of one lane (R234) -/

/-- The number whose bit t is f t, for the bits below w. -/
def bitsNat (w : Nat) (f : Nat → Bool) : Nat := ((List.range w).map (fun t => if f t then 2 ^ t else 0)).sum

theorem bitsNat_succ (w : Nat) (f : Nat → Bool) : bitsNat (w + 1) f = 2 ^ w * (f w).toNat + bitsNat w f := by
  rw [bitsNat, List.range_succ, List.map_append, List.sum_append, ← bitsNat]
  cases h : f w <;> simp [h, Nat.add_comm]

theorem bitsNat_lt (w : Nat) (f : Nat → Bool) : bitsNat w f < 2 ^ w := by
  induction w with
  | zero => exact Nat.one_pos
  | succ w ih =>
    rw [bitsNat_succ, Nat.pow_succ]
    cases f w <;> simp <;> omega

theorem testBit_bitsNat (w : Nat) (f : Nat → Bool) (t : Nat) : (bitsNat w f).testBit t = (decide (t < w) && f t) := by
  induction w with
  | zero => simp [bitsNat]
  | succ w ih =>
    rw [bitsNat_succ, Nat.testBit_two_pow_mul_add _ (bitsNat_lt w f)]
    split_ifs with h
    · simp [ih, h, Nat.lt_succ_of_lt h]
    · obtain ⟨k, rfl⟩ := Nat.exists_eq_add_of_le (Nat.not_lt.mp h)
      cases k with
      | zero => cases f w <;> simp
      | succ k => cases f w <;> simp [Nat.testBit_succ]

theorem testBit_fieldOf (x pos len t : Nat) : (fieldOf x pos len).testBit t = (decide (t < len) && x.testBit (pos + t)) := by
  rw [fieldOf, Nat.testBit_mod_two_pow, Nat.testBit_shiftRight]

/-- A field that starts past the lane is empty, so the model's guard changes nothing. -/
theorem fieldOf_guard {w x : Nat} (hx : x < 2 ^ w) (pos len : Nat) :
    (if w ≤ pos then 0 else fieldOf x pos len) = fieldOf x pos len := by
  split_ifs with h
  · rw [fieldOf, Nat.shiftRight_eq_div_pow,
      Nat.div_eq_of_lt (hx.trans_le (Nat.pow_le_pow_right (by decide) h)), Nat.zero_mod]
  · rfl

/-- A field read as a signed number and cut to w bits is the field with copies of its top bit above it. -/
theorem testBit_trunc_toS_fieldOf {w len t : Nat} (hlen : 0 < len) (ht : t < w) (x pos : Nat) :
    (trunc w (toS len (fieldOf x pos len))).testBit t =
      if t < len then x.testBit (pos + t) else x.testBit (pos + len - 1) := by
  have hf : fieldOf x pos len = (BitVec.ofNat len (x >>> pos)).toNat := rfl
  have hbit : (trunc w (toS len (fieldOf x pos len))).testBit t =
      (BitVec.ofNat w (trunc w (toS len (fieldOf x pos len)))).getLsbD t := by
    rw [BitVec.getLsbD_ofNat, decide_eq_true ht, Bool.true_and]
  rw [hbit, ofNat_trunc, hf, ofInt_toS hlen, BitVec.getLsbD_signExtend, BitVec.msb_eq_getLsbD_last,
    decide_eq_true ht, Bool.true_and]
  simp only [BitVec.getLsbD_ofNat, Nat.testBit_shiftRight]
  split_ifs with h
  · simp [h]
  · simp [hlen, Nat.add_sub_assoc hlen]

/-- Bit t of R234's field of `len` bits at `pos`: the lane's own bit within the field, above it zero or the field's sign. -/
def fieldBit (sgn : Bool) (x pos len t : Nat) : Bool :=
  if t < len then x.testBit (pos + t) else sgn && decide (0 < len) && x.testBit (pos + len - 1)

theorem testBit_vbextLane {w x t : Nat} (hx : x < 2 ^ w) (ht : t < w) (sgn : Bool) (pos n : Nat) :
    (vbextLane w sgn x pos n).testBit t = fieldBit sgn x pos (min n w) t := by
  simp only [vbextLane, fieldOf_guard hx, fieldBit]
  generalize min n w = len
  rcases Nat.eq_zero_or_pos len with h0 | hpos
  · simp [h0]
  · rw [if_neg hpos.ne']
    cases sgn with
    | true => rw [if_pos rfl, testBit_trunc_toS_fieldOf hpos ht, decide_eq_true hpos]; rfl
    | false =>
      rw [if_neg Bool.false_ne_true, testBit_fieldOf]
      by_cases h : t < len <;> simp [h]

theorem vbextLane_mod {w x : Nat} (hx : x < 2 ^ w) (sgn : Bool) (pos n : Nat) :
    vbextLane w sgn x pos n % 2 ^ w = bitsNat w (fieldBit sgn x pos (min n w)) % 2 ^ w := by
  apply Nat.eq_of_testBit_eq
  intro t
  rw [Nat.testBit_mod_two_pow, Nat.testBit_mod_two_pow, testBit_bitsNat]
  by_cases ht : t < w
  · simp [ht, testBit_vbextLane hx ht]
  · simp [ht]

/-- A lane of VFSHR: w bits of two lanes joined (R234). -/
def fshrLane (w x y n : Nat) : Nat := (((x <<< w) + y) >>> (n % (2 * w))) % 2 ^ w

theorem exec_vfshr_lane {c : VCtl} {ty : VType} {a b d : VSel} {s : State} : exec (.vfshr c ty a b d) s =
    vElem c ty 2 [a, b, d] (fun l _ => (fshrLane (typeW ty) (l.getD 0 0) (l.getD 1 0) (l.getD 2 0), 0)) s := by
  rw [exec_vfshr, execVfshr]; rfl

theorem fshrLane_eq (w x y n : Nat) : fshrLane w x y n = ((x * 2 ^ w + y) >>> (n % (2 * w))) % 2 ^ w := by
  rw [fshrLane, Nat.shiftLeft_eq]

/-! ### Carry-less products and bit counts of one lane (R235, R236) -/

/-- One step of R235's carry-less product: add x · 2^t when bit t of y is set. -/
def clmulAdd (x y p t : Nat) : Nat := if y.testBit t then p ^^^ (x <<< t) else p

theorem clmulGo_eq_foldl (x y n : Nat) : clmulGo x y n = (List.range n).foldl (clmulAdd x y) 0 := by
  induction n with
  | zero => rfl
  | succ n ih =>
    have hbit : (y >>> n % 2 = 1) = (y.testBit n = true) := by
      rw [Nat.testBit_eq_decide_div_mod_eq, Nat.shiftRight_eq_div_pow, decide_eq_true_eq]
    rw [List.range_succ, List.foldl_append, List.foldl_cons, List.foldl_nil, ← ih, clmulGo, clmulAdd]
    simp only [hbit]
    split
    · rfl
    · rw [Nat.xor_zero]

/-- A lane of VCLMUL: the half of the product that R235 returns. -/
def clmulLane (hi : Bool) (w x y : Nat) : Nat := if hi then clmul w x y >>> w else clmul w x y % 2 ^ w

theorem exec_vclmul_lane {c : VCtl} {ty : VType} {hi : Bool} {a b : VSel} {s : State} :
    exec (.vclmul c ty hi a b) s = vElem2 c ty 3 a b (clmulLane hi (typeW ty)) s := by
  rw [exec_vclmul, execVclmul]; rfl

theorem clmulLane_eq (hi : Bool) (w x y : Nat) : clmulLane hi w x y =
    if hi then (List.range w).foldl (clmulAdd x y) 0 >>> w else (List.range w).foldl (clmulAdd x y) 0 % 2 ^ w := by
  rw [clmulLane, clmul, clmulGo_eq_foldl]

theorem popcGo_eq_count {w x : Nat} (hx : x < 2 ^ w) :
    popcGo w x = ((List.range w).filter (fun t => x.testBit t)).length := by
  rw [← popcGo_mod, Nat.mod_eq_of_lt hx]

theorem clzN_eq_count {w x : Nat} (hx : x < 2 ^ w) :
    clzN w x = ((List.range w).reverse.takeWhile (fun t => !x.testBit t)).length := by
  rw [← clzN_mod, Nat.mod_eq_of_lt hx]

/-! ### Lane operations without flags (R226) -/

section Lanes

variable {s : State} {c : VCtl} {ty : VType} {lat : Nat} {a b : VSel} {i : Instr} {r : Nat → Nat → Nat}
  (hr : Ready s) (hd : c.d.toNat + c.b1.toNat ≤ 255)
include hr hd

theorem vElem1_lanes {f : Nat → Nat} (hi : exec i s = vElem1 c ty lat a (fun x => (f x, 0)) s)
    (hs : Readable s c.b1 [a])
    (hf : ∀ j l, f (lane (s.vsrc c.imm (typeW ty) a j) l (typeW ty)) % 2 ^ typeW ty = r j l % 2 ^ typeW ty) :
    LanesGive s c c.imm [a] (typeW ty) lat (fun l => (s.kreg c.k).getLsbD l) i (fun j l => (r j l, 0)) :=
  vElem_lanes c ty lat [a] _ i _ hr hs hd hi (fun j l _ => ⟨hf j l, rfl⟩)

theorem vElem2_lanes {f : Nat → Nat → Nat} (hi : exec i s = vElem2 c ty lat a b f s) (hs : Readable s c.b1 [a, b])
    (hf : ∀ j l, f (lane (s.vsrc c.imm (typeW ty) a j) l (typeW ty)) (lane (s.vsrc c.imm (typeW ty) b j) l (typeW ty)) %
      2 ^ typeW ty = r j l % 2 ^ typeW ty) :
    LanesGive s c c.imm [a, b] (typeW ty) lat (fun l => (s.kreg c.k).getLsbD l) i (fun j l => (r j l, 0)) :=
  vElem_lanes c ty lat [a, b] _ i _ hr hs hd hi (fun j l _ => ⟨hf j l, rfl⟩)

end Lanes

/-! ### Lane bits, shifts, fields and counts (O7) -/

/-- Settles O7: each operation is the model's function of one lane, which agrees with the rule on every pattern of w bits. -/
theorem vectorBitResults : Obligations.VectorBitResults := by
  intro s c ty sgn hi a b d hr hd
  exact ⟨fun hs => vElem2_lanes hr hd exec_vand hs (fun _ _ => rfl),
    fun hs => vElem2_lanes hr hd exec_vor hs (fun _ _ => rfl),
    fun hs => vElem2_lanes hr hd exec_vxor hs (fun _ _ => rfl),
    fun hs => vElem2_lanes hr hd exec_vshl hs (fun _ _ => congrArg (· % _) (shlN_eq_mod _ _ _)),
    fun hs => vElem2_lanes hr hd exec_vshr hs (fun _ _ => congrArg (· % _) (shrN_eq_shiftRight (lane_lt _ _ _) _)),
    fun hs => vElem2_lanes hr hd exec_vsar hs (fun _ _ => sarN_mod (typeW_pos ty) (lane_lt _ _ _) _),
    fun hs => vElem_lanes c ty 2 _ _ _ _ hr hs hd exec_vbext (fun _ _ _ => ⟨vbextLane_mod (lane_lt _ _ _) _ _ _, rfl⟩),
    fun hs => vElem_lanes c ty 2 _ _ _ _ hr hs hd exec_vfshr_lane
      (fun _ _ _ => ⟨congrArg (· % _) (fshrLane_eq _ _ _ _), rfl⟩),
    fun hs => vElem2_lanes hr hd exec_vclmul_lane hs (fun _ _ => congrArg (· % _) (clmulLane_eq _ _ _ _)),
    fun hs => vElem1_lanes hr hd exec_vpopc hs (fun _ _ => congrArg (· % _) (popcGo_eq_count (lane_lt _ _ _))),
    fun hs => vElem1_lanes hr hd exec_vclz hs (fun _ _ => congrArg (· % _) (clzN_eq_count (lane_lt _ _ _)))⟩

/-! ### Conditions on two lanes (R117, R232) -/

/-- A condition on the order of two values. -/
def ordHolds (cc : VCond) (o : Ordering) : Bool :=
  match cc with
  | .eq => o.isEq
  | .ne => o.isNe
  | .lt => o.isLT
  | .le => o.isLE
  | .gt => o.isGT
  | .ge => o.isGE

/-- A condition on two integers. -/
def intHolds (cc : VCond) (m l : Int) : Bool :=
  match cc with
  | .eq => decide (m = l)
  | .ne => decide (m ≠ l)
  | .lt => decide (m < l)
  | .le => decide (m ≤ l)
  | .gt => decide (l < m)
  | .ge => decide (l ≤ m)

theorem ordHolds_compare (cc : VCond) (m l : Int) : ordHolds cc (compare m l) = intHolds cc m l := by
  rcases lt_trichotomy m l with h | h | h
  · rw [compare_lt_iff_lt.mpr h]
    cases cc <;> simp [ordHolds, intHolds] <;> omega
  · rw [compare_eq_iff_eq.mpr h]
    cases cc <;> simp [ordHolds, intHolds] <;> omega
  · rw [compare_gt_iff_gt.mpr h]
    cases cc <;> simp [ordHolds, intHolds] <;> omega

/-- The condition of VCMP: false for a NaN but under ne, else the order of the two values. -/
theorem vcondLane_eq (ty : VType) (cc : VCond) (m l : Nat) : vcondLane ty cc m l =
    if (laneVal ty m).isNan || (laneVal ty l).isNan then decide (cc = .ne)
    else ordHolds cc (Val.cmpReal (laneVal ty m) (laneVal ty l)) := by
  simp only [vcondLane]
  congr 1
  generalize Val.cmpReal (laneVal ty m) (laneVal ty l) = o
  cases cc <;> cases o <;> rfl

theorem units_ofInt (i : Int) : Val.units 0 (Val.ofInt i) = i := by
  simp only [Val.units, Val.ofInt, sub_self, Int.toNat_zero, Nat.shiftLeft_zero]
  split_ifs with h <;> simp at h <;> omega

theorem exp?_fin_zero (neg : Bool) (mag : Nat) : (Val.fin neg mag 0).exp? = 0 := ite_self _

/-- Integers compare as the exact values they stand for. -/
theorem cmpReal_ofInt (m l : Int) : Val.cmpReal (Val.ofInt m) (Val.ofInt l) = compare m l := by
  simp only [Val.cmpReal, Val.ofInt, exp?_fin_zero, min_self, ite_self]
  exact congrArg₂ compare (units_ofInt m) (units_ofInt l)

theorem laneVal_of_int {ty : VType} (h : typeFloat ty = false) (m : Nat) : laneVal ty m = Val.ofInt (laneInt ty m) := by
  cases ty with
  | f32 | bf16 => contradiction
  | i8 | i16 | i32 | i64 | n8 | n32 => rfl

/-- An integer lane is the signed or unsigned reading of its pattern. -/
theorem laneInt_eq {ty : VType} {m : Nat} (hm : m < 2 ^ typeW ty) :
    laneInt ty m = if typeSigned ty then (BitVec.ofNat (typeW ty) m).toInt else m := by
  rw [laneInt, ← toS_toNat (typeW_pos ty), toNat_ofNat_of_lt hm]

theorem laneInt_inj {ty : VType} {m l : Nat} (hm : m < 2 ^ typeW ty) (hl : l < 2 ^ typeW ty) :
    laneInt ty m = laneInt ty l ↔ m = l := by
  rw [laneInt_eq hm, laneInt_eq hl]
  split_ifs
  · rw [BitVec.toInt_inj, ← BitVec.toNat_inj, toNat_ofNat_of_lt hm, toNat_ofNat_of_lt hl]
  · exact Int.natCast_inj

theorem vcondLane_int {ty : VType} (h : typeFloat ty = false) (cc : VCond) (m l : Nat) :
    vcondLane ty cc m l = intHolds cc (laneInt ty m) (laneInt ty l) := by
  rw [vcondLane_eq, laneVal_of_int h, laneVal_of_int h, cmpReal_ofInt, ordHolds_compare]
  rfl

/-- The condition of R232 on two lanes: of their values in a floating type, else of their patterns read as integers. -/
def laneHolds (ty : VType) (cc : VCond) (m l : Nat) : Bool :=
  let z (x : Nat) : Int := if typeSigned ty then (BitVec.ofNat (typeW ty) x).toInt else x
  if typeFloat ty then
    if (laneVal ty m).isNan || (laneVal ty l).isNan then decide (cc = .ne)
    else ordHolds cc (Val.cmpReal (laneVal ty m) (laneVal ty l))
  else match cc with
    | .eq => decide (m = l)
    | .ne => decide (m ≠ l)
    | .lt => decide (z m < z l)
    | .le => decide (z m ≤ z l)
    | .gt => decide (z l < z m)
    | .ge => decide (z l ≤ z m)

theorem vcondLane_eq_laneHolds {ty : VType} {m l : Nat} (hm : m < 2 ^ typeW ty) (hl : l < 2 ^ typeW ty) (cc : VCond) :
    vcondLane ty cc m l = laneHolds ty cc m l := by
  cases h : typeFloat ty with
  | true => simp only [vcondLane_eq, laneHolds, h, if_true]
  | false =>
    simp only [vcondLane_int h, laneHolds, h, Bool.false_eq_true, if_false, ← laneInt_eq hm, ← laneInt_eq hl]
    cases cc with
    | eq => exact decide_eq_decide.mpr (laneInt_inj hm hl)
    | ne => exact decide_eq_decide.mpr (laneInt_inj hm hl).not
    | lt | le | gt | ge => rfl

/-- VMASK's negative lanes are those whose top bit is set (R246). -/
theorem decide_le_eq_testBit {w x : Nat} (hx : x < 2 ^ w) :
    decide (2 ^ (w - 1) ≤ x) = x.testBit (w - 1) := by
  rw [← toNat_ofNat_of_lt hx, BitVec.testBit_toNat, ← BitVec.msb_eq_getLsbD_last, BitVec.msb_eq_decide]

/-! ### Bits of a lane mask (R228) -/

theorem typeW_lanes_le (ty : VType) : 4096 / typeW ty ≤ 512 := by cases ty <;> decide

/-- What bit t of a mask register becomes when the value v is written under the bits m. -/
def writtenBit (v m : Line) (t : Nat) : Option Bool := if m.getLsbD t then some (v.getLsbD t) else none

/-- Bit t of an operation that writes g in the lanes below n that k enables, and clears the bits from n on. -/
def maskedBit (n : Nat) (k : Line) (g : Nat → Bool) (t : Nat) : Option Bool :=
  if t < n then (if k.getLsbD t then some (g t) else none) else some false

/-- Enabled bits below n are written, and those from n on cleared. -/
theorem writtenBit_maskWr {n t : Nat} (hn : n ≤ 512) (ht : t < 512) (g : Nat → Bool) (k : Line) :
    writtenBit (maskOf n g) (maskWr n k) t = maskedBit n k g t := by
  rw [writtenBit, maskedBit, maskWr, maskOf_bit _ _ _ le_rfl, maskOf_bit _ _ _ hn]
  by_cases h : t < n
  · simp [ht, h, Nat.not_le.mpr h]
  · simp [ht, h, Nat.not_lt.mp h]

theorem writtenBit_allOnes {t : Nat} (ht : t < 512) (v : Line) : writtenBit v (BitVec.allOnes 512) t = some (v.getLsbD t) := by
  rw [writtenBit, BitVec.getLsbD_allOnes, decide_eq_true ht, if_pos rfl]

/-! ### Operations that write a lane mask (R228) -/

/-- A mask operation completes: its result for register dk lands at t + 2, and bit t of the register becomes `bit t` there, or
stays when that is none. -/
def MaskLands (s : State) (u : VUnit) (imm : SReg) (sels : List VSel) (dk : KReg) (i : Instr)
    (bit : Nat → Option Bool) : Prop :=
  ∃ v m : Line, exec i s = .next (State.occupyV u 1 ((noted s imm 0 sels).land 2 (vslot u) (.k dk v m) 0)) ∧
    ∀ t < 512, writtenBit v m t = bit t

theorem maskLands_of_vMaskOp {s : State} {imm : SReg} {u : VUnit} {sels : List VSel} {srcs : List Mark} {dk : KReg}
    {f : State → Line × Line} {i : Instr} {bit : Nat → Option Bool} {v m : Line} (hr : Ready s) (hs : Readable s 0 sels)
    (hi : exec i s = vMaskOp u sels srcs dk f s)
    (hq : rowsOf srcs = rowsOf (s.srcSels imm 0 sels)) (hf : f (noted s imm 0 sels) = (v, m))
    (hb : ∀ t < 512, writtenBit v m t = bit t) : MaskLands s u imm sels dk i bit := by
  refine ⟨v, m, ?_, hb⟩
  rw [hi, vMaskOp_ready u sels srcs dk f hr hs, hq, ← noted, hf]

/-- The bit that VSETK gives lane t (R247). -/
def setkBit (s : State) (f : SetkForm) (t : Nat) : Bool :=
  match f with
  | .pre ty n => decide (t < min (s.sreg n).toNat (4096 / typeW ty))
  | .and p q => (s.kreg p).getLsbD t && (s.kreg q).getLsbD t
  | .or p q => (s.kreg p).getLsbD t || (s.kreg q).getLsbD t
  | .xor p q => (s.kreg p).getLsbD t ^^ (s.kreg q).getLsbD t
  | .andn p q => (s.kreg p).getLsbD t && !(s.kreg q).getLsbD t
  | .not p => !(s.kreg p).getLsbD t

section MaskOps

variable {s : State} (hr : Ready s) (c : VMaskCtl) (ty : VType)
include hr

theorem maskLands_vcmp (cc : VCond) {a b : VSel} (hs : Readable s 0 [a, b]) :
    MaskLands s c.unit c.imm [a, b] c.dk (.vcmp c ty cc a b) (maskedBit (4096 / typeW ty) (s.kreg c.k) (fun t =>
      laneHolds ty cc (lane (s.vsrc c.imm (typeW ty) a 0) t (typeW ty)) (lane (s.vsrc c.imm (typeW ty) b 0) t (typeW ty)))) := by
  refine maskLands_of_vMaskOp hr hs (by rw [exec_vcmp, execVcmp]) (rowsOf_k _ _) rfl
    (fun t ht => (writtenBit_maskWr (typeW_lanes_le ty) ht _ _).trans ?_)
  simp only [vsrc_noted, kreg_noted, vcondLane_eq_laneHolds (lane_lt _ _ _) (lane_lt _ _ _)]

variable {a : VSel} (hs : Readable s 0 [a])
include hs

theorem maskLands_vmask_nz : MaskLands s c.unit c.imm [a] c.dk (.vmask c ty .nz a)
    (maskedBit (4096 / typeW ty) (s.kreg c.k) (fun t => decide (lane (s.vsrc c.imm (typeW ty) a 0) t (typeW ty) ≠ 0))) := by
  refine maskLands_of_vMaskOp hr hs (by rw [exec_vmask, execVmask]) (rowsOf_k _ _) rfl
    (fun t ht => (writtenBit_maskWr (typeW_lanes_le ty) ht _ _).trans ?_)
  simp only [vsrc_noted, kreg_noted]

theorem maskLands_vmask_neg : MaskLands s c.unit c.imm [a] c.dk (.vmask c ty .neg a)
    (maskedBit (4096 / typeW ty) (s.kreg c.k) (fun t =>
      (lane (s.vsrc c.imm (typeW ty) a 0) t (typeW ty)).testBit (typeW ty - 1))) := by
  refine maskLands_of_vMaskOp hr hs (by rw [exec_vmask, execVmask]) (rowsOf_k _ _) rfl
    (fun t ht => (writtenBit_maskWr (typeW_lanes_le ty) ht _ _).trans ?_)
  simp only [vsrc_noted, kreg_noted, decide_le_eq_testBit (lane_lt _ _ _)]

theorem maskLands_vmask_raw : MaskLands s c.unit c.imm [a] c.dk (.vmask c ty .raw a)
    (fun t => some ((s.vsrc c.imm (typeW ty) a 0).getLsbD t)) := by
  refine maskLands_of_vMaskOp hr hs (by rw [exec_vmask, execVmask]) (rowsOf_k _ _) rfl
    (fun t ht => (writtenBit_allOnes ht _).trans ?_)
  rw [vsrc_noted, BitVec.getLsbD_extractLsb', decide_eq_true ht, Bool.true_and, Nat.zero_add]

end MaskOps

theorem maskLands_vsetk {s : State} (hr : Ready s) {imm : SReg} (hs : Readable s 0 []) (u : VUnit) (dk : KReg) (f : SetkForm) :
    MaskLands s u imm [] dk (.vsetk u dk f) (fun t => some (setkBit s f t)) := by
  refine maskLands_of_vMaskOp hr hs exec_vsetk ?_ rfl (fun t ht => (writtenBit_allOnes ht _).trans (congrArg some ?_))
  · cases f with
    | pre ty n => exact rowsOf_srcS s [n]
    | and p q | or p q | xor p q | andn p q | not p => rfl
  · cases f with
    | pre ty n => simp [setkBit, sreg_noted, laneN, maskOf_bit _ _ _ (typeW_lanes_le ty), Bool.and_comm]
    | and p q | or p q | xor p q | andn p q | not p => simp [setkBit, kreg_noted, ht]

/-- Settles O8: a compare or row mask writes under the enabled bits below n, the raw mode and VSETK all 512 bits. -/
theorem vectorMaskResults : Obligations.VectorMaskResults := by
  intro s c ty cc a b p q n hr
  exact ⟨fun hs => maskLands_vcmp hr c ty cc hs,
    fun hs => maskLands_vmask_nz hr c ty hs,
    fun hs => maskLands_vmask_neg hr c ty hs,
    fun hs => maskLands_vmask_raw hr c ty hs,
    fun hs => maskLands_vsetk hr hs c.unit c.dk (.pre ty n),
    fun hs => maskLands_vsetk hr hs c.unit c.dk (.and p q),
    fun hs => maskLands_vsetk hr hs c.unit c.dk (.or p q),
    fun hs => maskLands_vsetk hr hs c.unit c.dk (.xor p q),
    fun hs => maskLands_vsetk hr hs c.unit c.dk (.andn p q),
    fun hs => maskLands_vsetk hr hs c.unit c.dk (.not p)⟩

end Sys2Proof.Proofs.VectorBits
